-- ==== Sys2Proof/Word.lean ====
section
/-!
DEFINITION. Words: the word and byte types, fields of a register word, and rounding and saturation
in the number formats of 00_scope.md (R5, R6, R7).
-/

namespace Sys2Proof

/-- A 32-bit register or memory word; bit 0 is the least significant bit (R5). -/
abbrev W32 := BitVec 32

/-- A byte of memory or an octet of a frame. -/
abbrev Byte := BitVec 8

/-- The field `hi:lo` of a register word, as a number (R5). -/
def fld (w : W32) (hi lo : Nat) : Nat := (w.toNat >>> lo) % 2 ^ (hi + 1 - lo)

/-- Bit `i` of a register word. -/
def bit (w : W32) (i : Nat) : Bool := w.getLsbD i

/-- A number placed in a register word from bit `lo` up. -/
def put (v lo : Nat) : W32 := BitVec.ofNat 32 (v <<< lo)

/-- A one-bit field of a register word at bit `i`. -/
def putB (b : Bool) (i : Nat) : W32 := if b then put 1 i else 0

/-- The word with bit `i` set to `b`. -/
def withBit (w : W32) (i : Nat) (b : Bool) : W32 :=
  if b then w ||| put 1 i else w &&& ~~~ put 1 i

/-- The word with the bits of mask `m` taken from `v`. -/
def merge (w v m : W32) : W32 := (w &&& ~~~ m) ||| (v &&& m)

/-- Division rounded half away from zero, for a positive divisor (R107). -/
def rhaDiv (a : Int) (d : Nat) : Int :=
  if 0 ≤ a then (2 * a + d) / (2 * d) else -((2 * (-a) + d) / (2 * d))

/-- Clamp of an integer to an interval. -/
def clampI (lo hi x : Int) : Int := if x < lo then lo else if hi < x then hi else x

/-- Saturation to a signed format of `w` bits (R7, R107). -/
def satS (w : Nat) (x : Int) : Int := clampI (-(2 ^ (w - 1))) (2 ^ (w - 1) - 1) x

/-- Whether an exact value lies outside a signed format of `w` bits. -/
def overS (w : Nat) (x : Int) : Bool := x < -(2 ^ (w - 1)) || 2 ^ (w - 1) - 1 < x

/-- The signed value of a 24-bit field of a register word. -/
def s24 (w : W32) : Int := (w.extractLsb' 0 24).toInt

/-- A saturating count: one more, up to `max`. -/
def satInc (n max : Nat) : Nat := if n < max then n + 1 else max

/-- A saturating count: `k` more, up to `max`. -/
def satAdd (n k max : Nat) : Nat := if n + k < max then n + k else max

/-- Element `i` of a vector of records replaced by its update. -/
def upd {α : Type} {n : Nat} (v : Vector α n) (i : Fin n) (f : α → α) : Vector α n :=
  v.set i.val (f v[i.val])

/-- The indices below `n`, in ascending order. -/
def idx (n : Nat) : List (Fin n) := List.finRange n

end Sys2Proof
end

