-- ==== Sys2Proof/Syntax.lean ====
section
/-!
DEFINITION. Commands: one constructor of Instr for each row of spec/opcode_table.json, in the table's order.
A row that is a register write or read carries the yard master (MID) and the data; a row that is an
event carries what the outside world or the engine brings with it. An operand that has a default may be left out.
-/

namespace Sys2Proof

/-- The yard masters of R15. MIDs 11 to 15 are reserved and own no tags. -/
inductive Mid where
  | hostS | hostU | groom | trxDma | cryDma | lpe | cfg | bist | dbg | zlkDma | spis
  deriving DecidableEq, Repr

/-- Transaction sizes of R14. -/
inductive Size where
  | b8 | b16 | b32
  deriving DecidableEq, Repr

/-- The two cores. -/
inductive Core where
  | host | groom
  deriving DecidableEq, Repr

/-- The two synthesizers of R290 to R295. -/
inductive Pll where
  | sys | rf
  deriving DecidableEq, Repr

/-- The power domains of R317 that PWR_DOM_STAT shows (R341). -/
inductive Domain where
  | flash | sense | radio | crypto
  | sram (k : Fin 8)
  | paddock (p : Fin 8)
  | host | groom | yard
  deriving DecidableEq, Repr

/-- The wake sources of R332. -/
inductive WakeSrc where
  | timer | sniff | pio | hostIrq | groomIrq | dbg | fence | groomReq
  deriving DecidableEq, Repr

/-- What an airtime bucket belongs to (R212). -/
inductive BucketOf where
  | sub (s : Fin 8)
  | hop (h : Fin 128)
  deriving DecidableEq, Repr

/-- The conversions of one range's start-up calibration (R102): 32 of each reference, in 2^-30 of range. -/
structure CalRun where
  zero  : List (BitVec 32)
  plus  : List (BitVec 32)
  minus : List (BitVec 32)
  deriving DecidableEq, Repr

/-- A frame as the receiver takes it from the air (R173, R177, R185): for NATIVE `phr` is the two PHR octets;
for SUNFSK bit 15 is MS, bit 12 the FCS type (1: 2 octets), bit 11 data whitening, bits 10:0 the length. `sync` is the sync word
or SFD it begins with. -/
structure RxAir where
  sun     : Bool
  sync    : W32
  phr     : BitVec 16
  psdu    : List Byte
  sfd     : BitVec 48
  rssi    : Byte
  fofs    : BitVec 16
  sniffed : Bool
  deriving DecidableEq, Repr

/-- A failing block of power-up BIST (R407, R423): its index and the LOC of BIST_FAIL_INFO. -/
structure BistFail where
  block : Fin 64
  loc   : BitVec 16
  deriving DecidableEq, Repr

/-- What a transparent or LBIST unit test finds (R414): a pass, a failure at LOC, a restore mismatch,
or a BIST access not answered OKAY (R421). -/
inductive UnitResult where
  | pass
  | fail (loc : BitVec 16)
  | restore
  | busError
  deriving DecidableEq, Repr

/-- How an I2C transfer ends (R277). -/
inductive I2cEnd where
  | ok | nackAddr | nackData | arbLost
  deriving DecidableEq, Repr

/-- The commands of the block: the rows of spec/opcode_table.json. -/
inductive Instr where
  -- the yard, interrupts and routes
  | registerWrite (m : Mid) (addr : W32) (size : Size) (data : W32)
  | yardTimeout (tag : Fin 128)
  | yerrValidClear (m : Mid) (ovf : Bool)
  | cntClr (m : Mid)
  | peakClr (m : Mid)
  | irqClaim (m : Mid) (c : Core)
  | irqComplete (m : Mid) (c : Core) (data : W32)
  | toHost (m : Mid)
  | toGroom (m : Mid)
  | trgFire (m : Mid) (sw : Byte)
  | trgLock (m : Mid)
  | trgDropCntClr (m : Mid)
  -- the configuration loader
  | park (m : Mid) (p : Fin 8) (hold : Bool)
  | load (m : Mid) (p : Fin 8)
  | unpark (m : Mid) (p : Fin 8)
  | abort (m : Mid) (p : Fin 8)
  | loadBase (m : Mid)
  | confirm (m : Mid) (pass : Bool)
  | waitSwv
  | loadEnd
  | parkingStart (p : Fin 8)
  | stallFreeze (n : Fin 32)
  | holdExp (p : Fin 8)
  | unparkingStart (p : Fin 8)
  -- sensing
  | adcResult (n : Fin 32) (tick : W32) (raw : BitVec 32)
  | calReference (k : Fin 16) (tick : W32) (raw : BitVec 32)
  | vrefBad
  | vrefReturn
  | startUpCalibration (m : Mid) (en : BitVec 16)
  | adlCfg (m : Mid) (k : Fin 16) (data : W32)
  | laneRdy (k : Fin 16) (r0 r1 : CalRun)
  | auxConversion (vin vexc : Nat)
  | auxCfg (m : Mid) (data : W32)
  | pirSample (j : Fin 2) (v : BitVec 24)
  | pirHoldEnd (j : Fin 2)
  | settleEnd (j : Fin 2)
  | pirEnable (m : Mid) (j : Fin 2) (data : W32)
  | pirSat (j : Fin 2)
  | pirSatClear (j : Fin 2)
  | dayResult (d : Fin 2) (current : Int)
  | tempMeasurement (t : BitVec 16)
  -- the loop engine
  | lpeTick
  | stallSample (n : Fin 32)
  | stallCompute (n : Fin 32)
  | stallUpdate (n : Fin 32)
  | lpePostMask (m : Mid) (mask : W32)
  | stlSpWrite (m : Mid) (n : Fin 32) (data : W32)
  | stallEnable (m : Mid) (n : Fin 32) (data : W32)
  | stallDisable (m : Mid) (n : Fin 32) (data : W32)
  | lpeTabData (m : Mid) (wr : Option W32)
  | lpeLoadPeakClr (m : Mid)
  | missCntClr (m : Mid) (n : Fin 32) (data : W32)
  | clampCntClear (m : Mid) (n : Fin 32) (j : Fin 4) (data : W32)
  -- stall outputs, protection and tuning
  | pwmPeriodStart (n : Fin 32)
  | ocTrip (n : Fin 32) (uv : Int := 0)
  | retry (n : Fin 32)
  | retryUsedReset (n : Fin 32)
  | faultClr (m : Mid) (n : Fin 32) (data : W32)
  | ocCntClr (m : Mid) (n : Fin 32)
  | echoStart (m : Mid) (e : Fin 4) (data : W32)
  | echoStop (m : Mid) (e : Fin 4) (data : W32)
  | echoEnd (e : Fin 4)
  | galleryRecord
  | captureEnd
  | galleryArm (m : Mid) (data : W32)
  | force (m : Mid)
  | galStop (m : Mid)
  -- the radio
  | txqProd (m : Mid) (data : W32)
  | launch (m : Mid) (k : Fin 4) (data : W32)
  | txAttempt
  | channelAssessment (rssi : Byte) (heard : Bool) (draw : Nat := 0)
  | backoffEnd
  | timedLaunch
  | txFrameEnd (sfd : BitVec 48) (ext : Nat := 0)
  | ackWaitExpiry
  | trxFlush (m : Mid)
  | rxFrame (f : RxAir)
  | matcherResult
  | ackSend
  | sniff (preamble : Option Nat)
  | partnerEntryWrite (m : Mid) (i : Fin 64) (data : W32)
  | trxCntClr (m : Mid)
  | trxTimeLo (m : Mid)
  | trxZtimeLo (m : Mid)
  | bucketBoundary (b : BucketOf)
  | rgyCntClr (m : Mid)
  -- the cipher engine
  | cryProd (m : Mid) (c : Fin 4) (data : W32)
  | jobAccept (c : Fin 4)
  | jobDispatch (u : Fin 5)
  | jobAged (tag : Byte)
  | jobEnd (u : Fin 5)
  | completionPost
  | cplCons (m : Mid) (data : W32)
  | cryFlush (m : Mid) (mask : BitVec 4)
  | ksPol (m : Mid) (data : W32)
  | ksLoad (m : Mid)
  | ksClear (m : Mid)
  | outReq (m : Mid) (u : Fin 5)
  | inReq (m : Mid) (u : Fin 5)
  | katEnd (u : Fin 5) (pass : Bool)
  | cryCntClr (m : Mid)
  | pkvStart (m : Mid)
  | pkvDone
  -- the Troax link
  | zlkEnable (m : Mid) (data : W32)
  | zlkDisable (m : Mid) (data : W32)
  | form
  | cycleStart (mismatch : Bool := false)
  | beacon (octets : List Byte) (rx8 : Nat)
  | leaderLost
  | rollLatch (mismatch : Bool)
  | roll (a : Fin 32) (octets : List Byte) (late8 : Int)
  | memberDrop (a : Fin 32)
  | rvStale (k : Fin 16)
  | joinSlot (draw : Fin 8) (mismatch : Bool := false)
  | join (octets : List Byte)
  | dataWindow (mismatch : Bool)
  | dataBurst (octets : List Byte) (sync : W32)
  | queue (m : Mid) (data : W32)
  | zlkTxqProd (m : Mid) (data : W32)
  | zlkFlush (m : Mid)
  | zlkCntClr (m : Mid)
  | zlkZtLo (m : Mid)
  -- DALI, SPIS, UART, I2C
  | daliFrame (first : Bool) (run : Nat) (runs : List Nat)
  | send (m : Mid) (data : W32)
  | dliTxc (m : Mid) (data : W32)
  | settleExpiry
  | backwardFrameStart
  | nobf
  | txdone
  | coll
  | busfail (ms : Nat := 65536)
  | write (mosi : List Byte) (late : List Bool)
  | read (mosi : List Byte) (late : List Bool)
  | status (mosi : List Byte)
  | spisTohost (m : Mid) (data : W32)
  | fromhostRead (m : Mid)
  | uartRxChar (u : Fin 2) (c : Byte) (par fe brk : Bool)
  | uartTxChar (u : Fin 2)
  | uartDataWrite (m : Mid) (u : Fin 2) (data : W32)
  | uartDataRead (m : Mid) (u : Fin 2)
  | go (m : Mid) (i : Fin 2) (data : W32)
  | i2cDone (i : Fin 2) (r : I2cEnd) (rx : List Byte)
  | i2cTimeout (i : Fin 2)
  | i2cDataAccess (m : Mid) (i : Fin 2) (wr : Option W32)
  -- clocks
  | xtalOk
  | xtalFail
  | bandSearchEnd (x : Pll) (band : BitVec 6)
  | lock (x : Pll)
  | lossOfLock (x : Pll)
  | lossOfReference (x : Pll)
  | reacquire (x : Pll)
  | rfpllResearch
  | syspllFailed
  | referenceSwitch (m : Mid) (data : W32)
  | coastLimit
  | bypass (m : Mid)
  | xlfOk
  | xlfFail
  | sleepClockMeasurement (c : Nat)
  | clkCntClr (m : Mid)
  | cloadStep
  -- power
  | pwrReqRunFast (m : Mid)
  | forwardBiasSettled
  | pwrReqRun (m : Mid)
  | pwrReqDoze (m : Mid)
  | pwrReqNap (m : Mid)
  | pwrReqSlumber (m : Mid) (exitNap : Bool)
  | requestInstant
  | entryComplete
  | wakeEvent (src : WakeSrc)
  | exitComplete
  | timer
  | demand (d : Domain)
  | domFail (d : Domain)
  | pwrDomOn (m : Mid) (data : W32)
  | pwrCntClr (m : Mid)
  | loftSniff
  -- access tables
  | all (m : Mid)
  | one (m : Mid) (gate : BitVec 5)
  | violClear (m : Mid) (g : Fin 25)
  | violCntClr (m : Mid)
  -- pins
  | qualifiedEdge (i : Fin 24) (level : Bool)
  | slumberEdge (i : Fin 24) (level : Bool)
  | maskedWrite (m : Mid) (g : Fin 3) (mask : Byte) (data : W32)
  | holdrel (m : Mid) (mask : BitVec 3)
  | map (m : Mid)
  -- resets and watchdogs
  | por
  | pin
  | brown
  | dbgReset
  | bootRstReq (m : Mid) (data : W32)
  | wdtExpiry (w : Core)
  | wdtWarn (w : Core)
  | kick (m : Mid) (w : Core) (data : W32)
  | resetRelease (straps : BitVec 5)
  -- boot
  | powerUpBistEnd (fails : List BistFail) (us : BitVec 16) (marked : Bool := true)
  | headerCheck (m : Mid) (b : Bool)
  | fullCheck (m : Mid) (b : Bool)
  | fwConfirm (m : Mid) (pass : Bool)
  | fwCheckEnd
  | program (m : Mid)
  | erase (m : Mid)
  | flashDone (verify : Bool)
  | bootTrial (m : Mid) (bank opt : W32)
  | bootCommit (m : Mid) (programmed : Bool)
  | bootFallback (m : Mid) (reason : W32) (programmed : Bool)
  | keyProgram (m : Mid) (slot addr : W32) (verifies : Bool)
  | keyRevoke (m : Mid) (slot : W32)
  | bootGroom (m : Mid) (vec : BitVec 30)
  -- self-test
  | bistGo (m : Mid) (data : W32)
  | bistStop (m : Mid)
  | slice (r : UnitResult)
  | bistDone
  -- supplies
  | vgdUndervoltage
  | vgdRelease
  | thermalCut
  | thermalCutRelease
  | supCntClr (m : Mid)
  -- rows the table lists last
  | cts (u : Fin 2) (asserted : Bool)
  | sfdDetected (sun : Bool) (sync : W32) (sfd : BitVec 48 := 0)
  | sniffRfpllStart
  | xtalStartRetry
  | bistPhase1End (fails : List BistFail)
  deriving DecidableEq, Repr

end Sys2Proof
end

