-- ==== Sys2Proof/Decode.lean ====
section
/-!
DEFINITION. Decode: the command that a word spells by the bits of spec/opcode_table.json.
No row of that table gives its command any bits, so no word spells a command (log 1).
-/

namespace Sys2Proof

/-- The command a word of `nbits` bits spells: none, since the table gives no row bits. -/
def decodeTableWord (_nbits _w : Nat) : Option Instr := none

end Sys2Proof
end

