-- ==== Sys2Proof/Config.lean ====
section
/-!
DEFINITION. Config: what the spec leaves open. Every constant here is opaque and has no body, so nothing
can be proved of its value: a statement that holds, holds whatever it is.
-/

namespace Sys2Proof.Config

/-- Contents of the boot ROM, which the spec does not give (log 7). -/
opaque bromByte : Nat → Byte

/-- A byte of an SRAM bank whose contents were lost: number of losses, then address (R320, log 7). -/
opaque lostByte : Nat → Nat → Byte

/-- An undefined byte, drawn by the free counter of State (R382, R402, R420, log 6). -/
opaque freeByte : Nat → Byte

/-- An undefined bit, drawn by the free counter: whether a timed-out write was performed (R38), a level on a
contended pin (R361) (log 6). -/
opaque freeBit : Nat → Bool

/-- A byte of the key hash that the factory programmed into OTP slot 0 (log 9). -/
opaque otpByte : Nat → Byte

/-- The gate supply VGD in millivolts (R141, R429). -/
opaque vgd : Nat

end Sys2Proof.Config
end

