-- ==== Sys2Proof/Machine/State.lean ====
section
/-!
DEFINITION. State: every register, FIFO, buffer, counter, mode and pin that the spec gives the BK32, as plain
data. The default value of each field is its reset value, so State.reset is the record of defaults. Registers
that are pure configuration are words named as the spec names them; status registers are held field by field
and assembled when read (Machine/Registers.lean).
-/

namespace Sys2Proof.Machine

open Sys2Proof

/-- Faults: none of the spec's commands stops the block; errors are yard responses, flags and resets. -/
inductive Fault where
  /-- No command raises it: kept so that the type of outcomes names a fault. Safe. -/
  | unreachable
  deriving DecidableEq, Repr

/-- Refusals: no command is refused once it has its meaning. -/
inductive Refusal where
  /-- Raised only by an arm of exec that has no meaning yet. Safe. -/
  | notModelled (mnemonic : String)
  deriving DecidableEq, Repr

/-! ## Memory and OTP -/

/-- The byte-addressed memories of R23: listed bytes, and per SRAM bank how often its contents were lost (R320). -/
structure Mem where
  cells : List Host.Cell := []
  lost  : Vector Nat 8 := .replicate 8 0
  deriving DecidableEq, Repr

/-- An OTP image-key slot (R395). -/
structure OtpKey where
  blank  : Bool := true
  hash   : List Byte := []
  active : Bool := false
  revoke : Bool := false
  deriving DecidableEq, Repr

/-- Slot 0 as the factory left it: ACTIVE, with a hash that the spec does not give (log 9). -/
def OtpKey.factory : OtpKey := { blank := false, hash := (List.range 32).map Config.otpByte, active := true }

/-! ## The yard, interrupts and routes -/

/-- Transaction types of R14, numbered as SYS_YERR_STAT.TYPE. -/
inductive Kind where
  | read | write | fetch
  deriving DecidableEq, Repr

/-- Yard responses (R18). -/
inductive RespCode where
  | okay | slverr | decerr | deny | dead
  deriving DecidableEq, Repr

/-- A response as a master receives it (R18). -/
structure Resp where
  mid  : Mid := .hostS
  code : RespCode := .okay
  data : W32 := 0
  waits : Bool := false
  deriving DecidableEq, Repr

/-- What an engine of the block does on the yard: the effect of an event, the delivery of the frame held from a sniff in SLUMBER
(R334), bytes that it stores, or one bit of a word that it rewrites. -/
inductive Task where
  | event (c : Instr)
  | heldFrame
  | store (m : Mid) (a : Nat) (l : List Byte)
  | setBit (m : Mid) (a i : Nat) (b : Bool)
  deriving DecidableEq, Repr

/-- A task that waits for one of its accesses, and the responses it has had from register targets (log 20). -/
structure Cont where
  task : Task
  got  : List Resp
  deriving DecidableEq, Repr

/-- A yard transaction (R14) that waits for its domain or its target (R17, R19 step 4), with its age in CLK_YARD cycles (R38).
`cont` is the engine's task that goes on with its response. -/
structure Txn where
  tag  : Fin 128
  mid  : Mid
  addr : W32
  size : Size
  kind : Kind
  data : W32
  age  : Nat
  cont : Option Cont := none
  deriving DecidableEq, Repr

/-- How an engine's task now being carried out stands: the responses it is given, the access it must wait for, the domain whose
accesses are refused (true: by the yard timeout), and how many waiting transactions are earlier than its own (the model's own
fields, empty between commands, log 20). -/
structure EngRun where
  got    : List Resp := []
  stuck  : Option Txn := none
  refuse : Option (Domain × Bool) := none
  pos    : Option Nat := none
  deriving DecidableEq, Repr

/-- The capture of SYS_YERR_STAT and SYS_YERR_ADDR (R39). -/
structure ErrCap where
  mid  : Mid
  kind : Kind
  tmo  : Bool
  code : RespCode
  addr : W32
  ovf  : Bool
  deriving DecidableEq, Repr

/-- The yard (R14 to R42). `granted` is, per target, the master that its round robin granted last (R17). -/
structure Yard where
  cfg       : W32 := 0x00000120
  err       : Option ErrCap := none
  slverrCnt : Nat := 0
  decerrCnt : Nat := 0
  deadCnt   : Nat := 0
  tmoCnt    : Nat := 0
  peak      : Nat := 0
  waiting   : List Txn := []
  port      : List Txn := []
  resp      : Resp := {}
  granted   : List (Nat × Mid) := []
  eng       : EngRun := {}
  deriving DecidableEq, Repr

/-- The interrupt controller (R25 to R28, R43). -/
structure Irq where
  enHost   : BitVec 64 := 0
  enGroom  : BitVec 64 := 0
  prio     : Vector W32 8 := .replicate 8 0
  thrHost  : Nat := 0
  thrGroom : Nat := 0
  claimed  : Vector (Option Core) 64 := .replicate 64 none
  edge     : BitVec 64 := 0
  deriving DecidableEq, Repr

/-- The trigger routes (R29 to R32, R44). -/
structure Trg where
  route   : Vector W32 32 := .replicate 32 0
  mask    : Vector W32 32 := .replicate 32 0
  lock    : Bool := false
  dropCnt : Nat := 0
  last    : Nat := 0
  deriving DecidableEq, Repr

/-! ## The configuration loader -/

/-- Paddock states (R64). -/
inductive PdkState where
  | live | parking | parked | loading | verified | unparking | unusable
  deriving DecidableEq, Repr

/-- A paddock (R64 to R70, R136). `hold` is the park mode in force (true HOLD_OPEN); `begun` that the tick
boundary of R66 or R70 has come; `heldCyc` the held time in CLK_YARD cycles; `lived` that it has been LIVE since reset (R74). -/
structure Paddock where
  state   : PdkState := .parked
  hold    : Bool := false
  empty   : Bool := true
  last    : Nat := 0
  holdExp : Bool := false
  begun   : Bool := false
  heldCyc : Nat := 0
  holdRun : Bool := false
  lived   : Bool := false
  tag     : W32 := 0
  deriving DecidableEq, Repr

/-- A record of a section body as the first pass found it: its offset in the body, the address of its first word (for a LUT
entry, the table), its word count, and where its values start. -/
structure Item where
  rel   : Nat
  addr  : Nat
  count : Nat
  vals  : Nat
  deriving DecidableEq, Repr

/-- A section as checked in the first pass (R47, R57): its table entry and its records. -/
structure Sect where
  type  : Nat
  pdk   : Nat
  entry : Nat
  off   : Nat
  len   : Nat
  crc   : Nat
  items : List Item
  deriving DecidableEq, Repr

/-- Where a running load stands (R57, R63): its source being read, its signature on the PKV, its first pass ended, or at step 10
for software verification, before and after WAIT_SWV. Each but the first carries the code (0 passed) and offset that the rest of
the first pass gives. -/
inductive LoadStage where
  | reading
  | sig (code errOff : Nat)
  | checked (code errOff : Nat)
  | atStep10 (code errOff : Nat)
  | waitSwv (code errOff : Nat)
  deriving DecidableEq, Repr

/-- A running load (R57 to R63). The second pass is at word `pos` (a byte offset) of the first of `sects`, whose words before it
are `body` and of whose stores `part` are made; `failed` are the paddocks failed or skipped, `off` the image offset of the first
failure, `auto` AUTO_LIVE. -/
structure LoadRun where
  base  : Bool
  pdk   : Fin 8
  src   : Nat
  baseId : W32 := 0
  ver   : W32 := 0
  sects : List Sect := []
  stage : LoadStage
  pos   : Nat := 0
  part  : Nat := 0
  body  : List Byte := []
  failed : List (Fin 8) := []
  off   : Nat := 0
  auto  : Nat := 0
  deriving DecidableEq, Repr

/-- The configuration loader (R61 to R75), and the HEADER fields that others use (R53). -/
structure Cfg where
  src      : W32 := 0
  phase    : Nat := 0
  code     : Nat := 0
  rej      : Nat := 0
  statPdk  : Nat := 0
  errOff   : W32 := 0
  baseId   : W32 := 0
  baseVer  : W32 := 0
  evt      : W32 := 0
  evtEn    : W32 := 0
  holdLim  : Nat := 500
  digest   : List Byte := List.replicate 32 0
  baseUsed : Bool := false
  baseDone : Bool := false
  reqPdk   : Byte := 0
  load     : Option LoadRun := none
  pdk      : Vector Paddock 8 := .replicate 8 {}
  deriving DecidableEq, Repr

/-! ## Sensing -/

/-- The calibration estimates of one range of a lane, Q2.30 (R84, R102). -/
structure RangeCal where
  gain : Int := 1073741824
  ofs  : Int := 0
  rp   : Int := 858993459
  rn   : Int := -858993459
  done : Bool := false
  deriving DecidableEq, Repr

/-- An ADC lane (R79 to R85, R98 to R103). -/
structure Adl where
  cfg      : W32 := 0
  r0       : RangeCal := {}
  r1       : RangeCal := {}
  seq      : Nat := 0
  discards : Nat := 0
  ovrCnt   : Nat := 0
  calErr   : Nat := 0
  calFail  : Bool := false
  ovrA     : Bool := false
  ovrB     : Bool := false
  rdy      : Bool := false
  calRun   : Bool := false
  deriving DecidableEq, Repr

/-- The current channel of a stall: CS_n, its board scaling and its conversions (R81, R82, R85, R103). The conversions are
exact, in 2^-82; `beyond` is that one of those summed was beyond range (R98); `now` that it was published in this tick (R117). -/
structure Cs where
  valid : Bool := false
  subst : Bool := false
  ovr   : Bool := false
  val   : BitVec 24 := 0
  bgain : W32 := 0x00400000
  bofs  : W32 := 0
  x1    : Option Int := none
  x2    : Option Int := none
  sum   : Int := 0
  cnt   : Nat := 0
  beyond : Bool := false
  now   : Bool := false
  deriving DecidableEq, Repr

/-- An auxiliary input (R87, R103); `pub` is its sense bus value last published (R78). -/
structure Aux where
  cfg   : W32 := 0
  valid : Bool := false
  data  : Nat := 0
  bgain : W32 := 0x00400000
  bofs  : W32 := 0
  pub   : BitVec 24 := 0
  deriving DecidableEq, Repr

/-- A PIR channel (R88, R89, R100, R103). Times are counted in 1 kS/s samples. `low` is that the filtered value
has been below THR/2 since the last pulse; `ages` are the ages of the pulses counted in the window; `quiet` counts the samples
since the last pulse, `setl` those of SETTLE; `hit` is the time of an assertion whose sample the other channel may share (R97). -/
structure Pir where
  cfg     : W32 := 0x1E002100
  thr     : W32 := 0x00100000
  val     : BitVec 24 := 0
  det     : Bool := false
  settle  : Bool := false
  sat     : Bool := false
  armed   : Bool := false
  low     : Bool := false
  ages    : List Nat := []
  quiet   : Nat := 0
  setl    : Nat := 0
  hit     : Option Nat := none
  deriving DecidableEq, Repr

/-- A daylight channel (R90, R92, R103). `due` is the time to the end of the
integration in progress, in CLK_YARD cycles, `pub` the sense bus value last
published (R78). -/
structure Day where
  cfg   : W32 := 0
  thr   : W32 := 0
  fs    : W32 := 0
  due   : Nat := 0
  valid : Bool := false
  sat   : Bool := false
  high  : Bool := false
  exp   : Nat := 0
  mant  : Nat := 0
  pub   : BitVec 24 := 0
  deriving DecidableEq, Repr

/-- The SNS block (R76 to R103). -/
structure Sns where
  ctrl      : W32 := 1
  adlEn     : BitVec 16 := 0
  evt       : W32 := 0
  evtEn     : W32 := 0
  vrefOk    : Bool := false
  adl       : Vector Adl 16 := .replicate 16 {}
  cs        : Vector Cs 32 := .replicate 32 {}
  auxCfg    : W32 := 0
  auxPend   : Option W32 := none
  auxIn     : Option (Fin 8) := none
  aux       : Vector Aux 8 := .replicate 8 {}
  pir       : Vector Pir 2 := .replicate 2 {}
  day       : Vector Day 2 := .replicate 2 {}
  temp      : BitVec 16 := 1600
  tempData  : BitVec 16 := 0
  tempValid : Bool := false
  tempThr   : W32 := 0x00001900
  tempArmed : Bool := true
  tFactor   : Int := 1073741824
  deriving DecidableEq, Repr

/-! ## Stalls and lanes -/

/-- A lane of a stall (R108 to R114, R126, R135). `dec` counts stall samples since the lane's last computation;
`fresh` is that its next computation presets the integrator, `mark` that it was opened since the last sample, and `join` that its
preset takes the held command of joining the schedule (R70, R125, R126). -/
structure Lane where
  ctrl      : W32 := 0
  tab       : W32 := 0
  escale    : W32 := 0x00400000
  ff        : W32 := 0
  imin      : W32 := 0x80000000
  imax      : W32 := 0x7FFFFFFF
  sp        : W32 := 0
  int       : BitVec 32 := 0
  out       : BitVec 24 := 0
  err       : BitVec 24 := 0
  satArith  : Bool := false
  satInt    : Bool := false
  presetLim : Bool := false
  stale     : Bool := false
  frozen    : Bool := false
  clampCnt  : Nat := 0
  dec       : Nat := 0
  fresh     : Bool := true
  mark      : Bool := false
  join      : Bool := true
  deriving DecidableEq, Repr

/-- The four states of a notch filter, Q2.22; `fresh` is that they take the filter's next input (R115). -/
structure NotchSt where
  x1    : Int := 0
  x2    : Int := 0
  y1    : Int := 0
  y2    : Int := 0
  fresh : Bool := true
  deriving DecidableEq, Repr

/-- Notch coefficients, signed Q3.29 (R115, R134). -/
structure NotchCo where
  b0 : W32 := 0x20000000
  b1 : W32 := 0
  b2 : W32 := 0
  a1 : W32 := 0
  a2 : W32 := 0
  deriving DecidableEq, Repr

/-- The run state of the plausibility model (R146). -/
structure Plaus where
  y1    : Int := 0
  u1    : Int := 0
  rf    : BitVec 24 := 0
  rs    : BitVec 32 := 0
  cnt   : Nat := 0
  fresh : Bool := true
  deriving DecidableEq, Repr

/-- A stall sample (R78, R117, R129): the inputs and the settings latched at the sample instant, which lanes are closed and
computed, and what a scene taken at this sample replaced. -/
structure Samp where
  fb       : Vector Int 4
  sp       : Vector Int 4
  closed   : Vector Bool 4
  comp     : Vector Bool 4
  lanes    : Vector Lane 4
  naEn     : Bool
  nbEn     : Bool
  na       : NotchCo
  nb       : NotchCo
  rampUp   : W32
  rampDn   : W32
  cmdMax   : W32
  plCtrl   : W32
  plA      : W32
  plB      : W32
  plC      : W32
  plTh     : W32
  plDth    : W32
  plVsh    : W32
  vsel     : Int
  target   : BitVec 24
  undoSp   : BitVec 24
  undoFw   : Bool
  undoPrio : Nat
  undoCur  : Nat
  undoPosts : BitVec 8
  undoSaw  : Bool
  undoBy   : Bool
  deriving DecidableEq, Repr

/-- What one lane's computation gives (R111, R112, R126). -/
structure LaneRes where
  int       : BitVec 32 := 0
  out       : BitVec 24 := 0
  err       : BitVec 24 := 0
  computed  : Bool := false
  satArith  : Bool := false
  satInt    : Bool := false
  presetLim : Bool := false
  clamped   : Bool := false
  deriving DecidableEq, Repr

/-- The computed result of a stall sample, applied at the update instant (R118). -/
structure Calc where
  lanes  : Vector LaneRes 4
  na     : NotchSt
  nb     : NotchSt
  spr    : BitVec 24
  cmd    : BitVec 24
  win    : Nat
  cmdLim : Bool
  sat    : Bool
  low    : BitVec 24
  fb0    : BitVec 24
  echo   : BitVec 24
  pl     : Plaus
  drift  : Bool
  cause  : Option Nat
  deriving DecidableEq, Repr

/-- The output, PWM and protection settings that a parked stall froze with, and whether it was enabled (R67, R69, R142). -/
structure Frozen where
  out   : W32
  pwm   : W32
  prot  : W32
  retry : Nat
  en    : Bool
  deriving DecidableEq, Repr

/-- A stall: its registers of R134 and R166, and its run state. `joinT` is the tick at whose boundary a joining stall was taken in
(R120), `leaving` that EN was cleared while in the schedule (R125), `sampled` that this tick's sample is taken (R117), `due` the time of
the pending update instant and `updT` that of the last one (R118). The marks say what a register write set afresh since the last sample
(R115, R146). `periodAt` is the PWM base at which the period began, `rise` the time from which blanking runs (R139, R144); in LINEAR
the dither's accumulator, the DAC code and the voltage in 1/1536 µV (R141); `shortSel` and `shortTh`
are VSEL and VSHORT as FAULT was entered (R150). -/
structure Stall where
  en        : Bool := false
  scnIe     : Bool := false
  nbEn      : Bool := false
  naEn      : Bool := false
  coefRej   : Bool := false
  miss      : Bool := false
  sat       : Bool := false
  cmdLim    : Bool := false
  run       : Bool := false
  win       : Nat := 0
  timing    : W32 := 0x01000001
  missLimit : Nat := 8
  missCnt   : Nat := 0
  missRun   : Nat := 0
  sp        : BitVec 24 := 0
  rampUp    : W32 := 0
  rampDn    : W32 := 0
  spr       : BitVec 24 := 0
  cmd       : BitVec 24 := 0
  cmdMax    : W32 := 0x00400000
  scnFw     : Bool := false
  scnPrio   : Nat := 0
  scnCur    : Nat := 0
  na        : NotchCo := {}
  nb        : NotchCo := {}
  naSt      : NotchSt := {}
  nbSt      : NotchSt := {}
  scn       : Vector W32 8 := .replicate 8 0
  lane      : Vector Lane 4 := .replicate 4 {}
  posts     : BitVec 8 := 0
  joining   : Bool := false
  joinT     : Option W32 := none
  leaving   : Bool := false
  sampled   : Bool := false
  due       : Option Nat := none
  updT      : Option Nat := none
  first     : Bool := true
  naMark    : Bool := false
  nbMark    : Bool := false
  plMark    : Bool := false
  rsMark    : Bool := false
  held      : BitVec 24 := 0
  samp      : Option Samp := none
  result    : Option Calc := none
  frozen    : Bool := true
  updated   : Bool := false
  since     : Nat := 0
  low       : BitVec 24 := 0
  fb0       : BitVec 24 := 0
  echo      : BitVec 24 := 0
  -- output stage, guard and model
  out       : W32 := 0
  pwm       : W32 := 0x01000000
  prot      : W32 := 0x3F030300
  retryMax  : Nat := 0
  used      : Nat := 0
  waitCyc   : Nat := 0
  retryPend : Bool := false
  active    : Bool := false
  drift     : Bool := false
  firstC    : Nat := 0
  causes    : BitVec 9 := 0
  plCtrl    : W32 := 0
  plA       : W32 := 0
  plB       : W32 := 0
  plC       : W32 := 0
  plTh      : W32 := 0
  plDth     : W32 := 0
  plVsh     : W32 := 0
  pl        : Plaus := {}
  ocTrips   : Nat := 0
  ocRun     : Nat := 0
  pendC     : Option Nat := none
  acc       : BitVec 20 := 0
  onTime    : Nat := 0
  gate      : Bool := false
  tripped   : Bool := false
  periodAt  : Option Nat := none
  rise      : Nat := 0
  linAcc    : BitVec 8 := 0
  dac       : Nat := 0
  volt      : Nat := 0
  shortCyc  : Nat := 0
  shortSel  : Nat := 0
  shortTh   : Int := 0
  runCyc    : Nat := 0
  frz       : Option Frozen := none
  -- what the gallery sees since its previous record (R158, R159)
  sawFault  : Bool := false
  sawMiss   : Bool := false
  sawScene  : Bool := false
  sawSat    : Bool := false
  lastMiss  : Bool := false
  deriving DecidableEq, Repr

/-- The LPE global block (R119, R137), the gain-table memory (R55: listed non-zero words by table * 33 + breakpoint),
and the PWM base (R139). `tickLoad` is the capacity used in this tick, `tickDue` the CLK_YARD cycles until the next tick
boundary, and `sceneBy` the stalls whose scenes have set LPE_EVT.SCENE (R123, R130). -/
structure Lpe where
  coastSeen : Bool := false
  tick      : W32 := 0
  peak      : Nat := 0
  tickLoad  : Nat := 0
  tickDue   : Nat := 0
  sceneBy   : W32 := 0
  evt       : W32 := 0
  evtEn     : W32 := 0
  missMap   : W32 := 0
  postScene : Nat := 0
  tabSel    : W32 := 0
  table     : List (Nat × BitVec 16) := []
  pwmBase   : Nat := 0
  deriving DecidableEq, Repr

/-- An echo generator (R154 to R156, R167). `wraps` counts phase wraps, shifts or dwells; `held` samples within
a PRBS shift or a dwell; `done` that the end count is reached. -/
structure Echo where
  ctrl    : W32 := 0
  amp     : W32 := 0
  freq    : W32 := 0
  fstep   : W32 := 0
  fend    : W32 := 0
  cyc     : W32 := 0
  probe   : W32 := 0
  aborted : Bool := false
  ovf     : Bool := false
  n       : Nat := 0
  ai      : BitVec 64 := 0
  aq      : BitVec 64 := 0
  bi      : BitVec 64 := 0
  bq      : BitVec 64 := 0
  phase   : W32 := 0
  lfsr    : BitVec 15 := 0x7FFF
  wraps   : Nat := 0
  held    : Nat := 0
  done    : Bool := false
  deriving DecidableEq, Repr

/-- The gallery (R157 to R161, R168). `left` is the records still to write after a trigger; `recAt` the clock stall's sample tick
whose nominal update instant was last seen. -/
structure Gal where
  ctrl      : W32 := 0
  pre       : W32 := 0
  seq       : W32 := 0
  triggered : Bool := false
  done      : Bool := false
  werr      : Bool := false
  wptr      : Nat := 0
  evt       : W32 := 0
  evtEn     : W32 := 0
  probe     : Vector W32 8 := .replicate 8 0
  tc        : Vector W32 4 := .replicate 4 0
  tl        : Vector W32 4 := .replicate 4 0
  capMask   : W32 := 0
  capIdx    : Nat := 0
  capPre    : Nat := 0
  capTick   : W32 := 0
  forced    : Bool := false
  count     : Nat := 0
  skip      : Nat := 0
  prev      : Vector Int 8 := .replicate 8 0
  seqArmed  : Bool := false
  left      : Option Nat := none
  recAt     : Option W32 := none
  deriving DecidableEq, Repr

/-! ## The radio and the air rules -/

/-- Where an attempt's descriptor comes from (R181). -/
inductive TxSrc where
  | queue
  | slot (k : Fin 4)
  deriving DecidableEq, Repr

/-- The stage of an attempt (R182 to R184, R188): `sealing` waits for the cipher engine, `again` is a retry that has not begun. -/
inductive TxStage where
  | sealing | ready | timed | assess | backoff | onAir | awaitAck | again
  deriving DecidableEq, Repr

/-- An airtime reservation (R213). -/
structure Resv where
  sub : Fin 8
  hop : Option (Fin 128)
  us  : Nat
  deriving DecidableEq, Repr

/-- A descriptor in the hands of the transmitter (R179 to R184): its words, the octets of BUF, the stage, the attempts begun,
busy findings of this attempt, the back-off in µs, carrier and channel, the airtime reserved, preamble octets added, the
TRX_TIME of the first preamble bit, the key and frame counter it is sealed with, and the SFD instant and LEN last sent; the
TRX_TIME at which the stage began, the sealing request pending with its frame counter, whether a timed assessment found the
channel clear, and the power sent at in 0.5 dB steps. -/
structure TxRun where
  src     : TxSrc
  addr    : Nat
  w       : Vector W32 8
  buf     : List Byte
  stage   : TxStage
  tries   : Nat
  busies  : Nat
  wait    : Nat
  carrier : Nat
  chan    : Nat
  resv    : Option Resv
  preExt  : Nat
  start   : Nat
  key     : Option (List Byte × W32)
  sfd     : Option (BitVec 48)
  sent    : Nat
  since   : Nat := 0
  sealing : Option (Nat × W32) := none
  clear   : Bool := false
  power   : Int := 0
  deriving DecidableEq, Repr

/-- An acknowledgement that is due (R187): format, whitening, its PSDU with FCS, the RX descriptor to mark, and the TRX_TIME of the
end of the frame it answers. -/
structure AckRun where
  sun    : Bool
  white  : Bool
  psdu   : List Byte
  desc   : Option Nat
  since  : Nat := 0
  deriving DecidableEq, Repr

/-- What a matcher's check has come to (R196): not begun, a job of the cipher engine, failed for replay or otherwise, or passed with
the payload in clear. -/
inductive Check where
  | idle
  | job (seq : Nat)
  | replay
  | bad
  | good (pay : List Byte)
  deriving DecidableEq, Repr

/-- A scene frame in the matcher's hands (R196). -/
structure MatchRun where
  slot  : Fin 8
  frame : RxAir
  psdu  : List Byte
  check : Check := .idle
  deriving DecidableEq, Repr

/-- A SYNC frame whose MIC is being verified (R193): the request and the frame. -/
structure SyncRun where
  seq   : Nat
  frame : RxAir
  deriving DecidableEq, Repr

/-- What a delivered frame brings to its partner entry (R193): SRC, RX SFD instant, TSF, and SPER and SNEXT of a SYNC frame. -/
structure PtUpd where
  src  : BitVec 16
  rx   : BitVec 48
  tsf  : BitVec 48
  sync : Option (Nat × W32)
  deriving DecidableEq, Repr

/-- A matcher slot (R196, R204). -/
structure Matcher where
  ctrl  : W32 := 0
  group : W32 := 0
  fails : Nat := 0
  hits  : Nat := 0
  deriving DecidableEq, Repr

/-- A partner entry (R192, R193, R204). -/
structure Partner where
  valid  : Bool := false
  parent : Bool := false
  addr   : BitVec 16 := 0
  upd    : Nat := 0
  ofs    : BitVec 48 := 0
  ref    : BitVec 48 := 0
  sper   : Nat := 0
  drift  : BitVec 16 := 0
  dunc   : Nat := 0
  sph    : W32 := 0
  fcnt   : W32 := 0
  deriving DecidableEq, Repr

/-- An armed slot (R181, R203). -/
structure Arm where
  desc     : W32 := 0
  armed    : Bool := false
  inflight : Bool := false
  last     : Nat := 0
  deriving DecidableEq, Repr

/-- The radio (R169 to R204). `qTries` is the tries already counted for the descriptor at the head of the queue (R199); `rxOn`
that a frame is being received, `heldRx` the frame held from a sniff in SLUMBER (R334), `ptWait` the partner updates that wait
for TRX_TIME to be advanced (R329). `sniffEnd` counts down to the end of a sniff's reception without a sync word, and `sniffAt` is the
last sniff instant taken (R194). Of the frame last sent, `air` holds the octets in the order of the air, `airDev` the deviation of each
symbol in 1/12 Hz (R170), and `airPwr` the power in 0.5 dB steps (R216). -/
structure Trx where
  ctrl     : W32 := 0x0C000000
  evt      : W32 := 0
  evtEn    : W32 := 0
  f0       : W32 := 0x3689CAC0
  chsp     : W32 := 0x00030D40
  chan     : W32 := 0
  chanPend : Option W32 := none
  mod      : W32 := 0x00000FA0
  dev      : W32 := 0x0000C350
  pwr      : W32 := 0
  pa       : W32 := 0x00000005
  sync     : W32 := 0x9A6E35C3
  pre      : W32 := 0x00080010
  lbt      : W32 := 0x0A0AB758
  bo       : W32 := 0x00000140
  ack      : W32 := 0x00C007D0
  addr     : W32 := 0
  panid    : W32 := 0
  extLo    : W32 := 0
  extHi    : W32 := 0
  txqBase  : W32 := 0
  txqProd  : Nat := 0
  txqCons  : Nat := 0
  rxrBase  : W32 := 0
  rxrNext  : Nat := 0
  arm      : Vector Arm 4 := .replicate 4 {}
  fcnt     : W32 := 0
  time     : Nat := 0
  timeHi   : BitVec 16 := 0
  ztimeHi  : BitVec 16 := 0
  ptCfg    : W32 := 0x07D00300
  gmin     : W32 := 0x00000040
  sniffCfg : W32 := 0x00000064
  rssi     : Byte := 0
  cntCrc   : Nat := 0
  cntOk    : Nat := 0
  cntFilt  : Nat := 0
  cntOvf   : Nat := 0
  cntReplay : Nat := 0
  cntAuth  : Nat := 0
  cntFail  : Nat := 0
  cntTxOk  : Nat := 0
  cntFalse : Nat := 0
  cntDet   : Nat := 0
  matcher  : Vector Matcher 8 := .replicate 8 {}
  pt       : Vector Partner 64 := .replicate 64 {}
  tx       : Option TxRun := none
  qTries   : Nat := 0
  launched : List (Fin 4) := []
  ackDue   : Option AckRun := none
  matching : List MatchRun := []
  syncs    : List SyncRun := []
  rxOn     : Bool := false
  sniffing : Bool := false
  sfd      : BitVec 48 := 0
  heldRx   : Option RxAir := none
  ptWait   : List PtUpd := []
  sniffEnd : Nat := 0
  sniffAt  : Option Int := none
  air      : List Byte := []
  airDev   : List Int := []
  airPwr   : Int := 0
  deriving DecidableEq, Repr

/-- The regulatory unit (R205 to R221): profile bytes, airtime buckets (newest first), and PWR_LTIME at which each current bucket began
(R212). -/
structure Rgy where
  lock    : Bool := false
  empty   : Bool := true
  prof    : List Byte := List.replicate 784 0
  evt     : W32 := 0
  evtEn   : W32 := 0
  last    : W32 := 0
  cntDuty : Nat := 0
  cntDwell : Nat := 0
  cntSupp : Nat := 0
  cntOvrun : Nat := 0
  cntClamp : Nat := 0
  sub     : Vector (List Nat) 8 := .replicate 8 (List.replicate 33 0)
  hop     : Vector (List Nat) 128 := .replicate 128 (List.replicate 9 0)
  subAt   : Vector W32 8 := .replicate 8 0
  hopAt   : Vector W32 128 := .replicate 128 0
  deriving DecidableEq, Repr

/-! ## The cipher engine -/

/-- A job's user (R232): the MID that made it available, or the radio's internal port. -/
inductive JobUser where
  | mid (m : Mid)
  | trx
  deriving DecidableEq, Repr

/-- An accepted job (R223 to R229). `accept` is the time of acceptance, `headT` that since which it is at the head of its queue;
`key` the key copied at dispatch. A job of the radio is known by its `seq`. -/
structure Job where
  tag    : Byte
  cls    : Fin 4
  seq    : Nat
  w      : Vector W32 8
  user   : JobUser
  aged   : Bool
  accept : Nat
  key    : List Byte
  headT  : Option Nat := none
  deriving DecidableEq, Repr

/-- What a job of the radio returns (R201, R231): which request, the status, and the key it ran with. -/
structure PortRet where
  seq : Nat
  st  : Nat
  key : List Byte
  deriving DecidableEq, Repr

/-- States of a cipher unit (R242). -/
inductive UnitSt where
  | inSvc | draining | out | testing | failed | unusable
  deriving DecidableEq, Repr

/-- A cipher unit (R230, R242). `inAt` is when a known-answer test made it IN (R246). -/
structure CUnit where
  st   : UnitSt := .inSvc
  run  : Option Job := none
  susp : Option Job := none
  inAt : Option Nat := none
  deriving DecidableEq, Repr

/-- A completion on its way to the ring (R233, R234). -/
structure Cpl where
  status : Nat
  tag    : Byte
  seq    : Nat
  cls    : Fin 4
  unit   : Nat
  cookie : W32
  outLen : Nat
  accept : Nat
  deriving DecidableEq, Repr

/-- A key slot (R238). -/
structure KeySlot where
  pol   : W32 := 0
  valid : Bool := false
  key   : List Byte := []
  deriving DecidableEq, Repr

/-- A job ring (R223). `writer` names, for each unaccepted descriptor, the MID that made it available. -/
structure JobRing where
  base   : W32 := 0
  size   : Nat := 0
  prod   : Nat := 0
  cons   : Nat := 0
  writer : List Mid := []
  deriving DecidableEq, Repr

/-- The cipher engine (R222 to R250). `held` are the radio's requests that wait for a tag, `ret` the outcomes it has not taken yet
(R227, R231). -/
structure Cry where
  evt     : W32 := 0
  evtEn   : W32 := 0
  age     : Nat := 0
  ring    : Vector JobRing 4 := .replicate 4 {}
  cplBase : W32 := 0
  cplSize : Nat := 0
  cplProd : Nat := 0
  cplCons : Nat := 0
  stall   : Bool := false
  jobs    : List Job := []
  seq     : Nat := 0
  lastTag : Nat := 247
  done    : List Cpl := []
  held    : List Job := []
  ret     : List PortRet := []
  unit    : Vector CUnit 5 := .replicate 5 {}
  cntInt  : Nat := 0
  cntFw   : Nat := 0
  cntAuth : Nat := 0
  cntOther : Nat := 0
  cntLost : Nat := 0
  ksSel   : Nat := 0
  ks      : Vector KeySlot 32 := .replicate 32 {}
  stage   : Vector W32 8 := .replicate 8 0
  deriving DecidableEq, Repr

/-- Who the PKV runs for (R251). -/
inductive PkvOwner where
  | none | firmware | cfg
  deriving DecidableEq, Repr

/-- The P-256 verify unit (R244, R245, R251). -/
structure Pkv where
  owner  : PkvOwner := .none
  pend   : Bool := false
  result : Nat := 0
  evt    : W32 := 0
  evtEn  : W32 := 0
  qx     : Vector W32 8 := .replicate 8 0
  qy     : Vector W32 8 := .replicate 8 0
  e      : Vector W32 8 := .replicate 8 0
  r      : Vector W32 8 := .replicate 8 0
  s      : Vector W32 8 := .replicate 8 0
  deriving DecidableEq, Repr

/-! ## The Troax link and the ports -/

/-- States of the ZLK (R258). -/
inductive ZlkState where
  | off | listen | joining | follower | leader
  deriving DecidableEq, Repr

/-- A remote value RV_k (R265): its register, last value, and cycles without a valid VALUE. -/
structure Rv where
  en    : Bool := false
  src   : Fin 32 := 0
  stale : Bool := true
  val   : BitVec 24 := 0
  quiet : Nat := 0
  deriving DecidableEq, Repr

/-- The Troax link (R252 to R269, R283). `zt` is ZLK_ZT in 2^-16 CLK_YARD cycles, `ztRem` its remainder in
10^-8 of that; `heard` the valid beacons in succession; `silent` per address the cycles without a valid roll. The scene queue's entry is `pend`,
`qScene` and `qGroup` (R266); `joinSent` is that a JOIN was sent while JOINING, `joinOut` that the beacon after it is awaited (R258);
`rolled` that a roll burst was sent in this cycle (R280); `sent` are the octets of the last burst sent, and `burstAt` its start in
tenths of a CLK_YARD cycle of `time` (R252). -/
structure Zlk where
  ctrl     : W32 := 0x00000250
  state    : ZlkState := .off
  dup      : Bool := false
  barred   : Bool := false
  pubRef   : Bool := false
  leader   : Fin 32 := 0
  cycle    : BitVec 16 := 0
  evt      : W32 := 0
  evtEn    : W32 := 0
  pmap     : W32 := 0
  vmap     : W32 := 0
  nextP    : W32 := 0
  nextV    : W32 := 0
  pub      : W32 := 0
  scene    : Nat := 0
  group    : Nat := 0
  pend     : Bool := false
  qScene   : Nat := 0
  qGroup   : Nat := 0
  dlyValid : Bool := false
  dly      : BitVec 16 := 0
  dSent    : BitVec 16 := 0
  rate     : BitVec 16 := 0
  zt       : Nat := 0
  ztRem    : Int := 0
  ztHi     : BitVec 16 := 0
  rv       : Vector Rv 16 := .replicate 16 {}
  fltCtrl  : Vector W32 8 := .replicate 8 0
  fltGroup : Vector W32 8 := .replicate 8 0
  txqBase  : W32 := 0
  txqProd  : Nat := 0
  txqCons  : Nat := 0
  txWait   : Nat := 0
  rxrBase  : W32 := 0
  rxrNext  : Nat := 0
  cntCrc   : Nat := 0
  cntBeacon : Nat := 0
  cntColl  : Nat := 0
  cntRepl  : Nat := 0
  cntJoin  : Nat := 0
  cntDrop  : Nat := 0
  heard    : Nat := 0
  missed   : Nat := 0
  joinWait : Nat := 0
  joinSent : Bool := false
  joinOut  : Bool := false
  ownColl  : Nat := 0
  rolled   : Bool := false
  silent   : Vector Nat 32 := .replicate 32 0
  gotRoll  : W32 := 0
  dreq     : W32 := 0
  late     : Vector Int 32 := .replicate 32 0
  echoed   : Fin 32 := 31
  granted  : Fin 32 := 31
  grant    : Option (Fin 32) := none
  sent     : List Byte := []
  burstAt  : Nat := 0
  deriving DecidableEq, Repr

/-- What the DALI engine is doing (R271). -/
inductive DliRun where
  | idle | settle | pendBack | sending (backward : Bool)
  deriving DecidableEq, Repr

/-- The DALI bus engine (R270 to R272, R284). `sinceFwd` is the time since the end of the last forward frame, in CLK_YARD cycles,
while a backward frame may still be sent or awaited; `idle` the time that the bus has been idle, `sendAt` when the frame being sent
began. -/
structure Dli where
  ctrl     : W32 := 0
  busLow   : Bool := false
  bf       : Bool := false
  rxLen    : Nat := 0
  evt      : W32 := 0
  evtEn    : W32 := 0
  txd      : W32 := 0
  rxd      : W32 := 0
  tim      : W32 := 0x376901F4
  run      : DliRun := .idle
  txLen    : Nat := 0
  settle   : Nat := 0
  sinceFwd : Option Nat := none
  await    : Bool := false
  idle     : Nat := 0
  sendAt   : Nat := 0
  sent     : List (W32 × Nat) := []
  deriving DecidableEq, Repr

/-- The SPI slave port (R273 to R275, R284). `miso` are the octets that the last transaction shifted out after its command, or for
READ after the turnaround. -/
structure Spis where
  ctrl   : W32 := 0
  err    : Bool := false
  late   : Bool := false
  toV    : Bool := false
  fromV  : Bool := false
  respC  : Nat := 0
  toHost : W32 := 0
  fromHost : W32 := 0
  miso   : List Byte := []
  deriving DecidableEq, Repr

/-- A UART (R276, R285). A received character carries PE, FE and BRK in bits 9, 10 and 11; a sent one is recorded as its bits on the
line, start and stop bits included. -/
structure Uart where
  ctrl : W32 := 0
  baud : W32 := 0x000014D5
  ie   : W32 := 0
  ovr  : Bool := false
  err  : Bool := false
  rx   : List (BitVec 12) := []
  tx   : List Byte := []
  cur  : Option Byte := none
  cts  : Bool := false
  sent : List (List Bool) := []
  deriving DecidableEq, Repr

/-- What a master puts on an I2C bus (R277). -/
inductive I2cSym where
  | start | restart | stop
  | octet (b : Byte)
  deriving DecidableEq, Repr

/-- An I2C master (R277, R285). `out` are the octets that a write transfer has taken from the FIFO, `more` the octets received that the
full FIFO holds back; `held` is that the last transfer ended without a stop; `wire` is what the port put on the bus since its last
start. -/
structure I2c where
  ctrl : W32 := 0
  cmd  : W32 := 0
  busy : Bool := false
  done : Bool := false
  code : Nat := 0
  ie   : W32 := 0
  rx   : List Byte := []
  tx   : List Byte := []
  out  : List Byte := []
  more : List Byte := []
  held : Bool := false
  wire : List I2cSym := []
  deriving DecidableEq, Repr

/-! ## Clocks -/

/-- States of a synthesizer (R316). -/
inductive PllState where
  | off | search | acquire | locked | coast | failed
  deriving DecidableEq, Repr

/-- A synthesizer (R290 to R303). `coastCyc` is the time since a coast began, in CLK_YARD cycles; `lol` and `lor` are the losses
declared in it (R293, R311). -/
structure PllSt where
  cfg      : W32
  st       : PllState := .off
  band     : Nat := 0
  path     : Nat := 0
  coastCyc : Nat := 0
  switching : Bool := false
  lol     : Bool := false
  lor     : Bool := false
  deriving DecidableEq, Repr

/-- An entry of the sleep-clock table (R309). -/
structure SlkEntry where
  upd : Nat := 0
  e   : BitVec 24 := 0
  d   : Nat := 10000
  deriving DecidableEq, Repr

/-- The clock system (R286 to R316). `want` is a carrier whose tune waits for a running search (R311); `cloadDue` the CLK_YARD cycles
until the crystal load may move again (R431). -/
structure Clk where
  xtalOk  : Bool := false
  xtalOn  : Bool := false
  xlfOk   : Bool := false
  ltXlf   : Bool := false
  bypass  : Bool := false
  fast    : Bool := false
  evt     : W32 := 0
  evtEn   : W32 := 0
  xtalCfg : W32 := 0x00000020
  cload   : Nat := 32
  cloadDue : Nat := 0
  sys     : PllSt := { cfg := 0x00001100 }
  rf      : PllSt := { cfg := 0x80001140 }
  carrier : Nat := 0
  want    : Option Nat := none
  nint    : Nat := 0
  frac    : Nat := 0
  cntSysLol : Nat := 0
  cntSysLor : Nat := 0
  cntRfLol : Nat := 0
  cntRfLor : Nat := 0
  slkCfg  : W32 := 0x92000032
  slkValid : Bool := false
  slkLast : BitVec 24 := 0
  slkT    : BitVec 16 := 0
  slk     : Vector SlkEntry 16 := .replicate 16 {}
  rfPower : Bool := false
  deriving DecidableEq, Repr

/-! ## Power -/

/-- Power states (R341). -/
inductive PwrState where
  | run | runFast | doze | nap | slumber
  deriving DecidableEq, Repr

/-- What the power controller is moving through. -/
inductive PwrMove where
  | none | entering (target prior : PwrState) | exiting (target : PwrState) | biasing
  deriving DecidableEq, Repr

/-- The values captured at SLUMBER entry: TRX_TIME, TRX_ZTIME, PWR_LTIME and SYS_SLK_PRED (R328, R310, R334); from which PWR_LTIME on
LTICK ran from XLF (true) or XTAL (R311); and PWR_LTIME at the restart. -/
structure SleepPoint where
  trx   : Nat
  zone  : Nat
  ltime : W32
  pred  : Int
  moves : List (W32 × Bool)
  back  : W32
  deriving DecidableEq, Repr

/-- The power controller (R317 to R341). Domain words use the layout of PWR_DOM_STAT; `ready` is powered and clocked,
`waking` is being powered on demand, `isolated` switched off for good by BIST (R410), `faultHeld` the level at which
SLUMBER latched FAULT_N (R335), `dozeFrom` the state that DOZE was entered from (R330), `hostSp` and `hostA0` the stack pointer
and argument that the host core started with at release (R390). -/
structure Pwr where
  state    : PwrState := .run
  armed    : Option (PwrState × Mid) := none
  exitNap  : Bool := false
  req      : W32 := 0
  move     : PwrMove := .none
  dozeFrom : PwrState := .run
  tadj     : Bool := false
  sleep    : Option SleepPoint := none
  evt      : W32 := 0
  evtEn    : W32 := 0
  wakeEn   : W32 := 0
  wakePend : W32 := 0
  lastWake : W32 := 0
  lastT    : W32 := 0
  refCnt   : Nat := 0
  abortCnt : Nat := 0
  refuser  : W32 := 0
  detail   : W32 := 0
  domOn    : W32 := 0x00FFFF0F
  ready    : W32 := 0x07FFFF0F
  waking   : W32 := 0
  isolated : W32 := 0
  sramRet  : W32 := 0x00000080
  domFail  : W32 := 0
  hostVec  : W32 := 0
  groomVec : W32 := 0
  ltime    : W32 := 0
  timerCmp : W32 := 0
  sniffCfg : W32 := 0x00000010
  hostPc   : W32 := 0
  hostSp   : W32 := 0
  hostA0   : W32 := 0
  groomPc  : W32 := 0
  hostOn   : Bool := false
  groomOn  : Bool := false
  faultHeld : Option Bool := none
  deriving DecidableEq, Repr

/-! ## Access tables -/

/-- A region of a gate (R343). -/
structure Region where
  base  : W32 := 0
  limit : W32 := 0
  perm  : W32 := 0
  deriving DecidableEq, Repr

/-- The violation capture of a gate (R346). -/
structure Viol where
  addr   : W32
  mid    : Mid
  kind   : Kind
  region : Nat
  ovf    : Bool
  deriving DecidableEq, Repr

/-- A gate (R342 to R349). -/
structure Gate where
  rgn    : Vector Region 8 := .replicate 8 {}
  dflt   : W32 := 0x003CFFFF
  ctrl   : W32 := 0
  locked : Bool := false
  viol   : Option Viol := none
  deriving DecidableEq, Repr

/-- The access tables (R342 to R357). -/
structure Act where
  ie   : Bool := false
  gate : Vector Gate 25 := .replicate 25 {}
  cnt  : Nat := 0
  deriving DecidableEq, Repr

/-! ## Pins -/

/-- The general-purpose pins (R358 to R373). `ext` is what drives each node from outside (none: released);
`filt` the filtered level; `keep` the level a keeper holds; the held words are the pads' image while a group is held. -/
structure Pio where
  out    : BitVec 24 := 0
  dir    : BitVec 24 := 0
  evt    : BitVec 24 := 0
  evtEn  : BitVec 24 := 0
  hold   : BitVec 3 := 0
  lock   : Bool := false
  strap  : BitVec 5 := 0
  fsel   : Vector Nat 24 := .replicate 24 31
  cfg    : Vector W32 24 := .replicate 24 0x00000005
  ecfg   : Vector W32 24 := .replicate 24 0
  ext    : Vector (Option Bool) 24 := .replicate 24 none
  filt   : BitVec 24 := 0
  keep   : BitVec 24 := 0
  heldLevel : BitVec 24 := 0
  heldDrive : BitVec 24 := 0
  heldCfg : Vector W32 24 := .replicate 24 0x00000005
  deriving DecidableEq, Repr

/-! ## Start-up, flash and self-test -/

/-- What the boot controller shows of a flash bank (R386, R405). -/
structure Bank where
  state    : Nat := 0
  attempts : Nat := 0
  reason   : Nat := 0
  secVer   : Nat := 0
  fwCode   : Nat := 0
  seq      : W32 := 0
  deriving DecidableEq, Repr

/-- The firmware check engine (R384): idle, busy on a bank, waiting at step 10 for CONFIRM, or confirmed. -/
inductive FwRun where
  | idle
  | busy (bank full : Bool)
  | wait (bank : Bool)
  | confirmed (bank pass : Bool)
  deriving DecidableEq, Repr

/-- A flash command in progress (R382): erase or program, its address and doubleword. -/
structure FlashRun where
  erase : Bool
  addr  : W32
  lo    : W32
  hi    : W32
  deriving DecidableEq, Repr

/-- A watchdog (R376, R406). `pre` counts LTICK cycles within a unit; `bad` is a wrong kick. -/
structure Wdt where
  ctrl : W32 := 0x00000800
  cnt  : Nat := 0
  pre  : Nat := 0
  warn : Bool := false
  bad  : Bool := false
  deriving DecidableEq, Repr

/-- The boot controller (R374 to R405). -/
structure Boot where
  level   : Nat := 0
  trial   : Bool := false
  bank    : Bool := false
  bootRom : Bool := true
  skip    : BitVec 2 := 0
  cfgCode : Nat := 0
  fwCode  : Nat := 0
  lastRst : Nat := 0
  lastFail : Nat := 0
  sticky  : BitVec 10 := 0
  banks   : Vector Bank 2 := .replicate 2 {}
  hist    : Vector W32 8 := .replicate 8 0
  histCnt : Nat := 0
  histNew : Nat := 0
  bootNum : Nat := 0
  otp     : Vector OtpKey 4 := #v[OtpKey.factory, {}, {}, {}]
  floor   : Nat := 0
  otpC1   : Int := 0
  otpC2   : Int := 0
  force   : Bool := false
  groom   : W32 := 0
  fw      : FwRun := .idle
  fwArg   : W32 := 0
  digest  : List Byte := List.replicate 32 0
  flAddr  : W32 := 0
  flLo    : W32 := 0xFFFFFFFF
  flHi    : W32 := 0xFFFFFFFF
  flRun   : Option FlashRun := none
  flIe    : Bool := false
  flDone  : Bool := false
  flRes   : Nat := 0
  released : Bool := false
  inReset : Bool := true
  started : Bool := false
  service : W32 := 0
  service1 : W32 := 0
  deriving DecidableEq, Repr

/-- A running on-command test (R414, R415). -/
structure BistRun where
  target : Fin 64
  cur    : Nat
  last   : Nat
  noMark : Bool
  result : Option Nat
  gap    : Nat := 0
  deriving DecidableEq, Repr

/-- The BIST controller (R407 to R423). Maps hold one bit per block index. -/
structure Bist where
  run    : Option BistRun := none
  detail : Nat := 0
  result : Nat := 0
  target : Nat := 0
  slice  : Nat := 0
  evt    : W32 := 0
  evtEn  : W32 := 0
  gap    : W32 := 0x00000064
  puTime : BitVec 16 := 0
  fail   : W32 := 0
  umap   : BitVec 64 := 0
  fmap   : BitVec 64 := 0
  tmap   : BitVec 64 := 0
  prev   : BitVec 64 := 0
  deriving DecidableEq, Repr

/-- What the core buck switches from: its own oscillator, or CLK_PER ÷ 12 (R427). -/
inductive BuckClk where
  | own | per12
  deriving DecidableEq, Repr

/-- The supply monitors, and the core buck's clock and VCORE in mV (R427 to R430, R444, R445). -/
structure Sup where
  vgdUv   : Bool := true
  hot     : Bool := false
  uvSeen  : Bool := false
  hotSeen : Bool := false
  uvCnt   : Nat := 0
  hotCnt  : Nat := 0
  buck    : BuckClk := .own
  vcore   : Nat := 900
  deriving DecidableEq, Repr

/-! ## The machine -/

/-- The state of the BK32. `pending` is the queue of waiting commands; `time` counts CLK_YARD periods since power-on
reset, `ltHalf` half CLK_YARD periods within an LTICK cycle, and `free` the free values drawn (the model's own fields, log 2 and 6). -/
structure State where
  pending : List Instr := []
  time    : Nat := 0
  ltHalf  : Nat := 0
  free    : Nat := 0
  mem     : Mem := {}
  yard    : Yard := {}
  irq     : Irq := {}
  trg     : Trg := {}
  cfg     : Cfg := {}
  sns     : Sns := {}
  stl     : Vector Stall 32 := .replicate 32 {}
  lpe     : Lpe := {}
  echo    : Vector Echo 4 := .replicate 4 {}
  echoEvt : W32 := 0
  echoEvtEn : W32 := 0
  gal     : Gal := {}
  trx     : Trx := {}
  rgy     : Rgy := {}
  cry     : Cry := {}
  pkv     : Pkv := {}
  zlk     : Zlk := {}
  dli     : Dli := {}
  spis    : Spis := {}
  uart    : Vector Uart 2 := .replicate 2 {}
  i2c     : Vector I2c 2 := .replicate 2 {}
  clk     : Clk := {}
  pwr     : Pwr := {}
  act     : Act := {}
  pio     : Pio := {}
  boot    : Boot := {}
  wdt     : Vector Wdt 2 := .replicate 2 {}
  bist    : Bist := {}
  sup     : Sup := {}
  deriving DecidableEq, Repr

/-- A lane's registers at reset (R135): lane 0 is enabled and reads FROZEN; the TAB fields name the stall's own tables. -/
def Lane.atReset (n : Fin 32) (j : Fin 4) : Lane :=
  let t := 16 * (n.val % 4) + 4 * j.val
  { ctrl := if j = 0 then 0x40000000 else 0
    tab := put (t + 3) 24 ||| put (t + 2) 16 ||| put (t + 1) 8 ||| put t 0
    frozen := j = 0 }

/-- A stall at reset (R133, R134, R165). -/
def Stall.atReset (n : Fin 32) : Stall :=
  { lane := #v[Lane.atReset n 0, Lane.atReset n 1, Lane.atReset n 2, Lane.atReset n 3] }

/-- Every stall at reset. -/
def stallsAtReset : Vector Stall 32 :=
  (idx 32).foldl (fun v n => v.set n.val (Stall.atReset n)) (.replicate 32 {})

/-- The machine right after a power-on reset: every field at the value the spec states, or the value that a row of the
assumption log names (log 5, 8 to 14). -/
def State.reset : State := { stl := stallsAtReset, boot := { sticky := 1 } }

end Sys2Proof.Machine
end

