-- ==== Sys2Proof/Machine/Ops.lean ====
section
/-!
DEFINITION. Ops: the named operations over memory and over words of state that every family uses.
-/

namespace Sys2Proof.Machine

open Sys2Proof

/-- The number of a master, as SYS_YERR_STAT.MID and the permission words use it (R15, R344). -/
def midNum : Mid → Nat
  | .hostS => 0 | .hostU => 1 | .groom => 2 | .trxDma => 3 | .cryDma => 4 | .lpe => 5
  | .cfg => 6 | .bist => 7 | .dbg => 8 | .zlkDma => 9 | .spis => 10

/-- The encoding of a response (R18). -/
def respNum : RespCode → Nat
  | .okay => 0 | .slverr => 1 | .decerr => 2 | .deny => 3 | .dead => 4

/-- The encoding of a transaction type (R42). -/
def kindNum : Kind → Nat
  | .read => 0 | .write => 1 | .fetch => 2

/-- The bytes of a transaction size (R14). -/
def sizeBytes : Size → Nat
  | .b8 => 1 | .b16 => 2 | .b32 => 4

/-! ## Sorted association lists with a default (memory, gain tables) -/

/-- The entry listed at key `a`, if any. -/
def getCell {α : Type} : List (Nat × α) → Nat → Option α
  | [], _ => none
  | (k, v) :: t, a => if k = a then some v else if a < k then none else getCell t a

/-- The list with key `a` bound to `v`, keys rising. -/
def putCell {α : Type} (a : Nat) (v : α) : List (Nat × α) → List (Nat × α)
  | [] => [(a, v)]
  | (k, w) :: t =>
    if k = a then (a, v) :: t else if a < k then (a, v) :: (k, w) :: t else (k, w) :: putCell a v t

/-- The list without key `a`. -/
def dropCell {α : Type} (a : Nat) : List (Nat × α) → List (Nat × α)
  | [] => []
  | (k, w) :: t => if k = a then t else (k, w) :: dropCell a t

/-- Keys strictly rising. -/
def rising {α : Type} : List (Nat × α) → Bool
  | [] => true
  | [_] => true
  | (a, _) :: (b, w) :: t => a < b && rising ((b, w) :: t)

/-! ## Memory (R23, R380, R409) -/

/-- What an unlisted address reads as: erased flash 0xFF, BROM contents not given, an SRAM bank zero until its
contents were lost, everything else zero (log 7 and 8). -/
def memDefault (lost : Vector Nat 8) (a : Nat) : Byte :=
  if a < 0x10000 then Config.bromByte a
  else if 0x08000000 ≤ a ∧ a < 0x08200000 then 0xFF
  else if h : 0x20000000 ≤ a ∧ a < 0x20080000 then
    let n := lost[(a - 0x20000000) / 0x10000]'(by omega)
    if n = 0 then 0 else Config.lostByte n a
  else 0

/-- The byte of memory at an address. -/
def Mem.read (m : Mem) (a : Nat) : Byte :=
  match getCell m.cells a with
  | some v => v
  | none => memDefault m.lost a

/-- Memory with one byte written; the canonical form is kept. -/
def Mem.write (m : Mem) (a : Nat) (v : Byte) : Mem :=
  { m with cells := if v = memDefault m.lost a then dropCell a m.cells else putCell a v m.cells }

/-- The canonical form of memory: addresses rising, and no entry equal to what it would read as unlisted. -/
def Mem.wf (m : Mem) : Bool :=
  rising m.cells && m.cells.all (fun c => c.2 != memDefault m.lost c.1)

/-- `n` bytes from an address up. -/
def Mem.readN (m : Mem) (a : Nat) : Nat → List Byte
  | 0 => []
  | n + 1 => m.read a :: Mem.readN m (a + 1) n

/-- Bytes written from an address up. -/
def Mem.writeN (m : Mem) (a : Nat) : List Byte → Mem
  | [] => m
  | b :: t => Mem.writeN (m.write a b) (a + 1) t

/-- The contents of SRAM bank `k` are lost (R320). -/
def Mem.lose (m : Mem) (k : Fin 8) : Mem :=
  { cells := m.cells.filter (fun c => !(0x20000000 + k.val * 0x10000 ≤ c.1 && c.1 < 0x20010000 + k.val * 0x10000))
    lost := m.lost.set k.val (m.lost[k.val] + 1) }

/-- The addresses of a range read as if never written (a destructive test or a lost gallery, R321, R409). -/
def Mem.clear (m : Mem) (lo hi : Nat) : Mem :=
  { m with cells := m.cells.filter (fun c => !(lo ≤ c.1 && c.1 < hi)) }

/-- SRAM bank `k` zeroed (R409). -/
def Mem.zeroBank (m : Mem) (k : Fin 8) : Mem :=
  { cells := m.cells.filter (fun c => !(0x20000000 + k.val * 0x10000 ≤ c.1 && c.1 < 0x20010000 + k.val * 0x10000))
    lost := m.lost.set k.val 0 }

/-! ## Little-endian words (R6) -/

/-- The number whose little-endian bytes are given. -/
def leNat : List Byte → Nat
  | [] => 0
  | b :: t => b.toNat + 256 * leNat t

/-- The number whose big-endian bytes are given. -/
def beNat (l : List Byte) : Nat := l.foldl (fun a b => 256 * a + b.toNat) 0

/-- The `n` little-endian bytes of a number. -/
def leBytes : Nat → Nat → List Byte
  | 0, _ => []
  | n + 1, v => BitVec.ofNat 8 v :: leBytes n (v / 256)

/-- The `n` big-endian bytes of a number. -/
def beBytes (n v : Nat) : List Byte := (leBytes n v).reverse

/-- The 32-bit little-endian word of memory at an address. -/
def Mem.word (m : Mem) (a : Nat) : W32 := BitVec.ofNat 32 (leNat (m.readN a 4))

/-- Eight words laid out as digest registers: byte 4j + i in bits 8i+7:8i of register j (R75, R244). -/
def wordOf (l : List Byte) (j : Nat) : W32 := BitVec.ofNat 32 (leNat ((l.drop (4 * j)).take 4))

/-- The bytes of eight registers, byte 4j + i in bits 8i+7:8i of register j. -/
def bytesOf (v : Vector W32 8) : List Byte := v.toList.flatMap (fun w => leBytes 4 w.toNat)

/-! ## CRCs (R50, R175, R254) -/

/-- One bit step of a reflected CRC. -/
def crcStep (poly c : Nat) : Nat := if c % 2 = 1 then (c / 2) ^^^ poly else c / 2

/-- A reflected CRC over bytes. -/
def crcRefl (poly : Nat) (init : Nat) (l : List Byte) : Nat :=
  l.foldl (fun c b => (List.range 8).foldl (fun c _ => crcStep poly c) (c ^^^ b.toNat)) init

/-- CRC-32 of R50. -/
def crc32 (l : List Byte) : Nat := crcRefl 0xEDB88320 0xFFFFFFFF l ^^^ 0xFFFFFFFF

/-- The 2-octet FCS of R175, polynomial 0x1021 reflected. -/
def crc16 (l : List Byte) : Nat := crcRefl 0x8408 0 l

/-- CRC8 of R254, most significant bit first. -/
def crc8 (l : List Byte) : Nat :=
  l.foldl (fun c b => (List.range 8).foldl
    (fun c _ => if c ≥ 128 then ((c * 2) % 256) ^^^ 7 else c * 2) (c ^^^ b.toNat)) 0

/-! ## Free values -/

/-- `n` undefined bytes (log 6). -/
def freeBytes (k n : Nat) : List Byte := (List.range n).map (fun i => Config.freeByte (k + i))

/-! ## Small updates used by many families -/

/-- Stall `n` updated. -/
def updStl (s : State) (n : Fin 32) (f : Stall → Stall) : State := { s with stl := upd s.stl n f }

/-- Paddock `p` updated. -/
def updPdk (s : State) (p : Fin 8) (f : Paddock → Paddock) : State :=
  { s with cfg := { s.cfg with pdk := upd s.cfg.pdk p f } }

/-- The paddock of a stall: 4p to 4p + 3. -/
def pdkOf (n : Fin 32) : Fin 8 := ⟨n.val / 4, by omega⟩

/-- The stall 4p + i of a paddock. -/
def stlOf (p : Fin 8) (i : Fin 4) : Fin 32 := ⟨4 * p.val + i.val, by omega⟩

/-- The four stalls of a paddock. -/
def stallsOf (p : Fin 8) : List (Fin 32) := (idx 4).map (stlOf p)

/-- Lane `j` of stall `n` updated. -/
def updLane (s : State) (n : Fin 32) (j : Fin 4) (f : Lane → Lane) : State :=
  updStl s n (fun t => { t with lane := upd t.lane j f })

/-- The blocks that BYPASS holds unavailable, as map indices 32 to 46, 50 to 57 (R304, R407, R410). -/
def bypassMask : BitVec 64 := 0x03FC7FFF00000000

/-- Whether a block counts as unusable (R304, R411). -/
def unusable (s : State) (i : Nat) : Bool :=
  s.bist.umap.getLsbD i || (s.clk.bypass && bypassMask.getLsbD i)

/-- Whether an on-command test of a block runs (R414 to R416). -/
def underTest (s : State) (i : Nat) : Bool :=
  match s.bist.run with | some r => r.target.val = i | none => false

/-- CLK_YARD periods in a millisecond. -/
def msCyc : Nat := 153600

/-- A 48-bit count. -/
def mod48 (n : Nat) : Nat := n % 2 ^ 48

end Sys2Proof.Machine
end

