-- ==== Sys2Proof/Machine/Domains.lean ====
section
/-!
DEFINITION. Domains: powering a domain up and down, with what is lost and what restarts (R96, R317, R319, R320, R321).
-/

namespace Sys2Proof.Machine

open Sys2Proof

/-- The bit of a domain in PWR_DOM_STAT and, where it has one, in PWR_DOM_ON (R341). -/
def domBit : Domain → Nat
  | .flash => 0 | .sense => 1 | .radio => 2 | .crypto => 3
  | .sram k => 8 + k.val
  | .paddock p => 16 + p.val
  | .host => 24 | .groom => 25 | .yard => 26

/-- Whether a domain is powered and clocked. -/
def domReady (s : State) (d : Domain) : Bool := bit s.pwr.ready (domBit d)

/-- Whether BIST has isolated a domain (R410). -/
def domIsolated (s : State) (d : Domain) : Bool := bit s.pwr.isolated (domBit d)

/-- A PIR channel starts afresh (R89): filter, pulse count and window cleared, the decision deasserted, SETTLE started.
With SETTLE = 0 the channel arms at the first sample below THR/2. `act` is that the channel is enabled. -/
def pirRestart (act : Bool) (p : Pir) : Pir :=
  { p with
    val := 0, det := false, armed := false, low := false, ages := [], quiet := 0, setl := 0, hit := none
    settle := act && fld p.cfg 29 24 != 0 }

/-- A lane loses its conversions and calibration, and recalibrates if enabled (R102, R319, R320). -/
def adlRestart (en : Bool) (l : Adl) : Adl :=
  { l with r0 := {}, r1 := {}, seq := 0, discards := 0, rdy := false, calRun := en }

/-- A current channel forgets its conversions; the registers stay (R319). -/
def csForget (c : Cs) : Cs := { c with x1 := none, x2 := none, sum := 0, cnt := 0, beyond := false }

/-- The lowest input set in SCAN, if any (R87). -/
def auxLowest (cfg : W32) : Option (Fin 8) := (idx 8).find? (fun i => bit cfg i.val)

/-- A daylight channel begins an integration: the CLK_YARD cycles of its TINT (R90). -/
def dayStart (d : Day) : Day :=
  { d with due := match fld d.cfg 1 0 with | 0 => 3072000 | 1 => 2560000 | _ => 15360000 }

/-- The SENSE domain becomes ready: enabled lanes recalibrate, the PIR channels start afresh, daylight channels start a
fresh integration, the auxiliary converter starts with the lowest input (R89, R320, R329). -/
def senseRestart (n : Sns) : Sns :=
  { n with
    adl := (idx 16).foldl (fun v k => upd v k (adlRestart (n.adlEn.getLsbD k.val))) n.adl
    cs := (idx 32).foldl (fun v k => upd v k csForget) n.cs
    pir := (idx 2).foldl (fun v k => upd v k (fun p => pirRestart (bit n.ctrl 2 && bit p.cfg 0) p)) n.pir
    day := (idx 2).foldl (fun v k => upd v k dayStart) n.day
    auxCfg := n.auxPend.getD n.auxCfg
    auxPend := none
    auxIn := if bit n.ctrl 1 then auxLowest (n.auxPend.getD n.auxCfg) else none }

/-- The SENSE domain goes down: work in progress is lost, the registers stay (R96, R319). -/
def senseStop (n : Sns) : Sns :=
  { n with
    adl := (idx 16).foldl (fun v k => upd v k (fun l => { l with rdy := false, calRun := false })) n.adl
    auxIn := none }

/-- A domain becomes ready (R317, R320). -/
def domUp (s : State) (d : Domain) : State :=
  let s := { s with pwr := { s.pwr with
      ready := withBit s.pwr.ready (domBit d) true
      waking := withBit s.pwr.waking (domBit d) false } }
  if d = .sense then { s with sns := senseRestart s.sns } else s

/-- A domain powers down; an SRAM bank that is off loses its contents (R317, R319). `keep` is retention of a bank. -/
def domDown (s : State) (d : Domain) (keep : Bool) : State :=
  let s := { s with pwr := { s.pwr with ready := withBit s.pwr.ready (domBit d) false } }
  match d with
  | .sram k => if keep then s else { s with mem := s.mem.lose k }
  | .sense => { s with sns := senseStop s.sns }
  | _ => s

/-- A domain is powered on demand: its PWR_DOM_ON bit and PWR_EVT.DEMAND are set (R320). -/
def domDemand (s : State) (d : Domain) : State :=
  let s := domUp s d
  { s with pwr := { s.pwr with
      domOn := if domBit d < 24 then withBit s.pwr.domOn (domBit d) true else s.pwr.domOn
      evt := withBit s.pwr.evt 3 true } }

end Sys2Proof.Machine
end

