-- ==== Sys2Proof/Machine/Bus.lean ====
section
/-!
DEFINITION. Bus: a yard transaction from its master's port to its response (R14 to R24, R38, R39), the gates of the
access tables (R342 to R346), and the accesses of the block's own masters.
-/

namespace Sys2Proof.Machine

open Sys2Proof

/-- The targets of the memory map (R23). -/
inductive Target where
  | brom | flash (b : Bool) | window | sram (k : Fin 8) | loft
  | sys | pwr | act | bist | pio | cfg | boot | irq
  | lpe | stall (n : Fin 32) | pdk (p : Fin 8) | echo | gal | galRam
  | sns | trx | rgy | cry | pkv | zlk | dli | spis | uart (u : Fin 2) | i2c (i : Fin 2)
  deriving DecidableEq, Repr

/-- The index a byte offset selects among `n` windows of `size` bytes. -/
def windowIdx (n size off : Nat) : Option (Fin n) :=
  if h : off / size < n then some ⟨off / size, h⟩ else none

/-- The target of an address (R23); none is DECERR. -/
def decodeTarget (a : Nat) : Option Target :=
  if a < 0x10000 then some .brom
  else if 0x08000000 ≤ a ∧ a < 0x08100000 then some (.flash false)
  else if 0x08100000 ≤ a ∧ a < 0x08200000 then some (.flash true)
  else if 0x0C000000 ≤ a ∧ a < 0x0C100000 then some .window
  else if 0x20000000 ≤ a ∧ a < 0x20080000 then (windowIdx 8 0x10000 (a - 0x20000000)).map .sram
  else if 0x28000000 ≤ a ∧ a < 0x28004000 then some .loft
  else if 0x40000000 ≤ a ∧ a < 0x40004000 then some .sys
  else if 0x40004000 ≤ a ∧ a < 0x40005000 then some .pwr
  else if 0x40010000 ≤ a ∧ a < 0x40011000 then some .act
  else if 0x40020000 ≤ a ∧ a < 0x40021000 then some .bist
  else if 0x40030000 ≤ a ∧ a < 0x40031000 then some .pio
  else if 0x40040000 ≤ a ∧ a < 0x40041000 then some .cfg
  else if 0x40050000 ≤ a ∧ a < 0x40051000 then some .boot
  else if 0x40060000 ≤ a ∧ a < 0x40061000 then some .irq
  else if 0x40100000 ≤ a ∧ a < 0x40101000 then some .lpe
  else if 0x40101000 ≤ a ∧ a < 0x40105000 then (windowIdx 32 0x200 (a - 0x40101000)).map .stall
  else if 0x40108000 ≤ a ∧ a < 0x40108800 then (windowIdx 8 0x100 (a - 0x40108000)).map .pdk
  else if 0x4010A000 ≤ a ∧ a < 0x4010B000 then some .echo
  else if 0x40110000 ≤ a ∧ a < 0x40111000 then some .gal
  else if 0x40120000 ≤ a ∧ a < 0x40130000 then some .galRam
  else if 0x40140000 ≤ a ∧ a < 0x40141000 then some .sns
  else if 0x40200000 ≤ a ∧ a < 0x40201000 then some .trx
  else if 0x40210000 ≤ a ∧ a < 0x40211000 then some .rgy
  else if 0x40300000 ≤ a ∧ a < 0x40301000 then some .cry
  else if 0x40310000 ≤ a ∧ a < 0x40311000 then some .pkv
  else if 0x40400000 ≤ a ∧ a < 0x40401000 then some .zlk
  else if 0x40410000 ≤ a ∧ a < 0x40411000 then some .dli
  else if 0x40420000 ≤ a ∧ a < 0x40421000 then some .spis
  else if 0x40430000 ≤ a ∧ a < 0x40432000 then (windowIdx 2 0x1000 (a - 0x40430000)).map .uart
  else if 0x40440000 ≤ a ∧ a < 0x40442000 then (windowIdx 2 0x1000 (a - 0x40440000)).map .i2c
  else none

/-- Memory targets, which take 8-, 16- and 32-bit accesses (R22). -/
def isMemory : Target → Bool
  | .brom | .flash _ | .window | .sram _ | .loft | .galRam => true
  | _ => false

/-- Whether a memory target accepts stores: flash, its window and the BROM do not (R24, R381). -/
def storable : Target → Bool
  | .sram _ | .loft | .galRam => true
  | _ => false

/-- The gate that covers a target (R342). -/
def gateOf : Target → Fin 25
  | .brom => 0 | .flash _ => 1 | .window => 1
  | .sram k => if k.val < 4 then 2 else 3
  | .loft => 4 | .sys => 5 | .pwr => 6 | .act => 7 | .bist => 8 | .pio => 9 | .cfg => 10 | .boot => 11 | .irq => 12
  | .lpe => 13 | .stall _ => 13 | .pdk _ => 13 | .echo => 13
  | .gal => 14 | .galRam => 14
  | .sns => 15 | .trx => 16 | .rgy => 17 | .cry => 18 | .pkv => 19 | .zlk => 20 | .dli => 21 | .spis => 22
  | .uart _ => 23 | .i2c _ => 24

/-- Memory gates honour execute rights (R342). -/
def memoryGate (g : Fin 25) : Bool := g.val < 5

/-- The domain a target lies in; none is LOFT, which is always on (R23). -/
def domainOf : Target → Option Domain
  | .brom | .loft | .sys | .pwr | .bist | .pio | .boot => none
  | .flash _ | .window => some .flash
  | .sram k => some (.sram k)
  | .stall n => some (.paddock (pdkOf n))
  | .sns => some .sense
  | .trx | .rgy => some .radio
  | .cry | .pkv => some .crypto
  | _ => some .yard

/-- The map index of the block a whole window belongs to, if any (R407, R411). -/
def blockOf (s : State) : Target → Option Nat
  | .brom => some 0
  | .flash b => some (if b then 9 else 8)
  | .window => some (if s.boot.bank then 9 else 8)
  | .sram k => some (16 + k.val)
  | .loft => some 10
  | .act => some 4 | .irq => some 5 | .cfg => some 6 | .pio => some 7
  | .lpe => some 40
  | .stall n => some (32 + (pdkOf n).val)
  | .pdk p => some (32 + p.val)
  | .echo => some 41 | .gal => some 42 | .galRam => some 42
  | .sns => some 43
  | .trx => some 47 | .rgy => some 49 | .cry => some 50 | .pkv => some 56
  | .zlk => some 57 | .dli => some 58 | .spis => some 59
  | .uart u => some (60 + u.val) | .i2c i => some (62 + i.val)
  | .sys | .pwr | .bist | .boot => none

/-- The sub-block of the SNS window that owns an offset, as a map index (R411). -/
def snsSubBlock (off : Nat) : Option Nat :=
  if 0x100 ≤ off ∧ off < 0x200 then some (32 + (off - 0x100) / 0x20)
  else if 0x200 ≤ off ∧ off < 0x280 then some (32 + (off - 0x200) / 16)
  else if 0x280 ≤ off ∧ off < 0x380 then some (32 + (off - 0x280) / 32)
  else if 0x400 ≤ off ∧ off < 0x490 then some 44
  else if 0x500 ≤ off ∧ off < 0x540 then some 45
  else if 0x600 ≤ off ∧ off < 0x640 then some 46
  else none

/-- Whether an access is answered DEAD (R13, R304, R411, R410). -/
def isDead (s : State) (t : Target) (a : Nat) : Bool :=
  (match blockOf s t with | some i => unusable s i | none => false)
    || (match domainOf t with | some d => domIsolated s d | none => false)
    || (t = .sns && (match snsSubBlock (a % 0x1000) with | some i => unusable s i | none => false))

/-- The bank address behind an active-bank window address (R24, R343). -/
def bankAddr (s : State) (t : Target) (a : Nat) : Nat :=
  if t = .window then (if s.boot.bank then 0x08100000 else 0x08000000) + (a - 0x0C000000) else a

/-- The region that decides an access at a gate: 0 to 7, or 8 for DEFAULT (R343). -/
def regionOf (g : Gate) (a : Nat) : Nat :=
  match (idx 8).find? (fun r => bit g.ctrl r.val && (g.rgn[r]).base.toNat ≤ a && a < (g.rgn[r]).limit.toNat + 32) with
  | some r => r.val
  | none => 8

/-- The permission word a gate applies (R343, R354). -/
def permWord (s : State) (g : Fin 25) (a : Nat) : W32 :=
  if unusable s 4 then 0x003CFFFF
  else
    let r := regionOf s.act.gate[g] a
    if h : r < 8 then (s.act.gate[g].rgn[r]).perm else s.act.gate[g].dflt

/-- The two bits of a permission word that belong to a master (R344). -/
def rights (w : W32) (m : Mid) : Nat := fld w (2 * midNum m + 1) (2 * midNum m)

/-- Whether rights permit a kind of access at a gate (R344). -/
def allowed (g : Fin 25) (r : Nat) : Kind → Bool
  | .read => 1 ≤ r
  | .write => 2 ≤ r
  | .fetch => r = 3 && memoryGate g

/-- Whether the gate permits a transaction. The writes of the base load are not checked against the tables it writes (R60, R348). -/
def gatePermits (s : State) (m : Mid) (t : Target) (a : Nat) (k : Kind) : Bool :=
  (m = .cfg && (match s.cfg.load with | some l => l.base | none => false))
    || allowed (gateOf t) (rights (permWord s (gateOf t) (bankAddr s t a)) m) k

/-- A violation is captured and counted (R345, R346, R354). -/
def captureDeny (s : State) (m : Mid) (t : Target) (a : W32) (k : Kind) : State :=
  if unusable s 4 then s
  else
    let g := gateOf t
    let r := regionOf s.act.gate[g] (bankAddr s t a.toNat)
    { s with act := { s.act with
        cnt := satInc s.act.cnt 65535
        gate := upd s.act.gate g (fun q => { q with
          viol := match q.viol with
            | none => some { addr := a, mid := m, kind := k, region := r, ovf := false }
            | some v => some { v with ovf := true } }) } }

/-- A SLVERR, DECERR or DEAD is counted and the first one captured (R39). -/
def captureErr (s : State) (m : Mid) (a : W32) (k : Kind) (c : RespCode) (tmo : Bool) : State :=
  let y := s.yard
  { s with yard := { y with
      slverrCnt := if c = .slverr then satInc y.slverrCnt 255 else y.slverrCnt
      decerrCnt := if c = .decerr then satInc y.decerrCnt 255 else y.decerrCnt
      deadCnt := if c = .dead then satInc y.deadCnt 255 else y.deadCnt
      tmoCnt := if tmo then satInc y.tmoCnt 255 else y.tmoCnt
      err := match y.err with
        | none => some { mid := m, kind := k, tmo := tmo, code := c, addr := a, ovf := false }
        | some e => some { e with ovf := true } } }

/-- The response a master receives (R18): an error also reads zero and is captured. -/
def respond (s : State) (m : Mid) (a : W32) (k : Kind) (c : RespCode) (d : W32) : State :=
  let s := match c with
    | .slverr | .decerr | .dead => captureErr s m a k c false
    | .okay | .deny => s
  { s with yard := { s.yard with resp := { mid := m, code := c, data := if c = .okay then d else 0 } } }

/-- The SPI slave notes the first response to MID 10 that is not OKAY (R274). -/
def noteSpis (s : State) : State :=
  let r := s.yard.resp
  if r.mid = .spis && !r.waits && r.code != .okay && !s.spis.err then
    { s with spis := { s.spis with err := true, respC := respNum r.code } }
  else s

/-- The place of a master in the round robin, which HOST-S and HOST-U share. -/
def place (m : Mid) : Nat := if m = .hostU then 0 else midNum m

/-- Transactions in the order of their masters: of errors in one cycle the lower MID is captured (R37). -/
def byMid (l : List Txn) : List Txn := (List.range 11).flatMap (fun m => l.filter (fun x => place x.mid = m))

/-- What the yard does with a transaction before its target sees it (R19). -/
inductive Verdict where
  | decerr | deny (t : Target) | dead | wait (d : Domain) | go (t : Target)
  deriving DecidableEq, Repr

/-- HOST-S and HOST-U share one place (R15, R16, R17). -/
def sameMaster (a b : Mid) : Bool :=
  a = b || ((a = .hostS || a = .hostU) && (b = .hostS || b = .hostU))

/-- The outstanding transactions that were issued before the one in question: all, or while a task of an engine goes on, those
before its own place (R16). -/
def earlier (s : State) : List Txn :=
  match s.yard.eng.pos with
  | some n => s.yard.waiting.take n
  | none => s.yard.waiting

/-- Whether an earlier transaction of a master still waits for a target: those of one master to one target keep their order (R16). -/
def behind (s : State) (m : Mid) (t : Target) : Bool :=
  (earlier s).any (fun x => sameMaster x.mid m && decodeTarget x.addr.toNat = some t)

/-- Whether an access to a domain may go on: it is ready, and for FLASH no NAP entry is under way (R19, R326). -/
def domOpen (s : State) (d : Domain) : Bool :=
  domReady s d && !(d = .flash && (match s.pwr.move with | .entering .nap _ => true | _ => false))

/-- The checking order of R19. -/
def verdict (s : State) (m : Mid) (t? : Option Target) (a : Nat) (k : Kind) : Verdict :=
  match t? with
  | none => .decerr
  | some t =>
    if !gatePermits s m t a k then .deny t
    else if isDead s t a then .dead
    else match domainOf t with
      | some d => if domOpen s d && !behind s m t then .go t else .wait d
      | none => .go t

/-- The tags a master's share holds, and the masters it is shared by (R15). -/
def tagShare : Mid → Nat
  | .hostS | .hostU => 32
  | .groom => 8 | .trxDma => 16 | .cryDma => 28 | .lpe => 16 | .cfg => 8 | .bist => 4 | .dbg => 4 | .zlkDma => 8 | .spis => 4

/-- The lowest tag that no outstanding transaction carries (R14). -/
def freeTag (w : List Txn) : Option (Fin 128) := (idx 128).find? (fun t => w.all (fun x => x.tag != t))

/-- Whether a master may issue: a tag of its share is free (R15). -/
def mayIssue (s : State) (m : Mid) : Bool :=
  (s.yard.waiting.filter (fun x => sameMaster x.mid m)).length < tagShare m && (freeTag s.yard.waiting).isSome

/-- Whether a master's next transaction stalls at its port: no tag of its share is free, or an earlier one of it is stalled there
(R15). -/
def stalled (s : State) (m : Mid) : Bool := !mayIssue s m || s.yard.port.any (fun x => sameMaster x.mid m)

/-- The count outstanding rises by this transaction, and PEAK with it (R42). -/
def issue (s : State) : State :=
  { s with yard := { s.yard with peak := max s.yard.peak (s.yard.waiting.length + 1) } }

/-- A transaction joins those that wait for a domain; the domain is powered on demand (R19 step 4, R320). -/
def enqueueTxn (s : State) (d : Domain) (x : Txn) : State :=
  { s with
    yard := { s.yard with waiting := s.yard.waiting ++ [x], resp := { mid := x.mid, waits := true } }
    pwr := { s.pwr with waking := withBit s.pwr.waking (domBit d) true } }

/-- Whether a register write would break the condition that a running test of a block holds (R409, R416). -/
def bistBreaks (s : State) (t : Target) (off : Nat) (d : W32) : Bool :=
  match t with
  | .echo => underTest s 41 && off < 0x100 && off % 0x40 = 0 && bit d 31
  | .gal => underTest s 42 && off = 0 && bit d 31
  | .sns => off = 0 && ((underTest s 44 && bit d 1) || (underTest s 45 && bit d 2) || (underTest s 46 && bit d 3))
  | .trx => (underTest s 47 || underTest s 48 || underTest s 49) && off = 0 && bit d 31
  | .pkv => underTest s 56 && off = 0 && bit d 0
  | .zlk => underTest s 57 && off = 0 && bit d 31
  | .dli => underTest s 58 && off = 0 && bit d 31
  | .spis => underTest s 59 && off = 0 && bit d 31
  | .uart u => underTest s (60 + u.val) && off = 0 && bit d 31
  | .i2c i => underTest s (62 + i.val) && off = 0 && bit d 31
  | _ => false

/-! ## Grants (R17) -/

/-- The place of the three masters that a target grants before the round robin. -/
def fixedRank : Mid → Option Nat
  | .lpe => some 0
  | .trxDma => some 1
  | .zlkDma => some 2
  | _ => none

/-- A number for each target. -/
def targetNum : Target → Nat
  | .brom => 0 | .flash b => if b then 2 else 1 | .window => 3 | .loft => 4 | .sys => 5 | .pwr => 6 | .act => 7 | .bist => 8
  | .pio => 9 | .cfg => 10 | .boot => 11 | .irq => 12 | .lpe => 13 | .echo => 14 | .gal => 15 | .galRam => 16 | .sns => 17
  | .trx => 18 | .rgy => 19 | .cry => 20 | .pkv => 21 | .zlk => 22 | .dli => 23 | .spis => 24
  | .uart u => 25 + u.val | .i2c i => 27 + i.val | .sram k => 32 + k.val | .pdk p => 40 + p.val | .stall n => 64 + n.val

/-- The rank of a master's request at a target: the lowest is granted. Before a first grant the round robin starts at MID 0
(log 63). -/
def grantRank (s : State) (t : Target) (m : Mid) : Nat :=
  match fixedRank m with
  | some r => r
  | none => 3 + (place m + 31 - place ((getCell s.yard.granted (targetNum t)).getD .spis)) % 16

/-- A target grants a master's request; the round robin moves unless the master is one of the three. -/
def grant (t : Target) (m : Mid) (s : State) : State :=
  if (fixedRank m).isSome then s
  else { s with yard := { s.yard with granted := putCell (targetNum t) m s.yard.granted } }

/-- One yard transaction. `perform` is what the target does: the read data, or none for SLVERR, and the state after it. -/
def access (m : Mid) (t? : Option Target) (a : W32) (z : Size) (k : Kind) (d : W32)
    (perform : State → Option W32 × State) (s : State) : State :=
  if stalled s m then
    { s with yard := { s.yard with
        port := s.yard.port ++ [{ tag := 0, mid := m, addr := a, size := z, kind := k, data := d, age := 0 }]
        resp := { mid := m, waits := true } } }
  else
    let s := issue s
    match verdict s m t? a.toNat k with
    | .decerr => respond s m a k .decerr 0
    | .deny t => respond (captureDeny s m t a k) m a k .deny 0
    | .dead => respond s m a k .dead 0
    | .wait dom =>
      enqueueTxn s dom { tag := (freeTag s.yard.waiting).getD 0, mid := m, addr := a, size := z, kind := k, data := d, age := 0 }
    | .go t =>
      let s := grant t m s
      if k = .write && bistBreaks s t (a.toNat % 0x1000) d then respond s m a k .slverr 0
      else match perform s with
      | (none, s') => respond s' m a k .slverr 0
      | (some v, s') => respond s' m a k .okay v

/-- An effect that is refused without any change of state, as an outcome: whether it was accepted, and the state after it. -/
def accepted (eff : State → Option State) (s : State) : Bool × State :=
  match eff s with
  | some s' => (true, s')
  | none => (false, s)

/-- A 32-bit write of a register whose effect is `eff`: whether it is accepted (else SLVERR), and the state after it. -/
def busWriteR (m : Mid) (t : Target) (a : Nat) (d : W32) (eff : State → Bool × State) (s : State) : State :=
  access m (some t) (BitVec.ofNat 32 a) .b32 .write d
    (fun s => match eff s with | (true, s') => (some 0, s') | (false, s') => (none, s')) s

/-- A 32-bit write of a register whose effect is `eff` (none is SLVERR, with no change of state). -/
def busWrite (m : Mid) (t : Target) (a : Nat) (d : W32) (eff : State → Option State) (s : State) : State :=
  busWriteR m t a d (accepted eff) s

/-- A 32-bit read of a register whose effect is `eff`. -/
def busRead (m : Mid) (t : Target) (a : Nat) (eff : State → W32 × State) (s : State) : State :=
  access m (some t) (BitVec.ofNat 32 a) .b32 .read 0 (fun s => (some (eff s).1, (eff s).2)) s

/-! ## The block's own masters (R21, R225, log 20): accesses in pieces of the sizes of R22 -/

/-- The next piece of a byte range: the largest aligned size that fits. -/
def pieceSize (a n : Nat) : Nat :=
  if a % 4 = 0 ∧ 4 ≤ n then 4 else if a % 2 = 0 ∧ 2 ≤ n then 2 else 1

/-- A byte range cut into pieces. -/
def pieces : Nat → Nat → Nat → List (Nat × Nat)
  | 0, _, _ => []
  | fuel + 1, a, n =>
    if n = 0 then [] else (a, pieceSize a n) :: pieces fuel (a + pieceSize a n) (n - pieceSize a n)

/-- The size of a piece. -/
def sizeOf (n : Nat) : Size := if n = 4 then .b32 else if n = 2 then .b16 else .b8

/-- The running task of an engine updated. -/
def updEng (s : State) (f : EngRun → EngRun) : State := { s with yard := { s.yard with eng := f s.yard.eng } }

/-- An access that the running task must wait for; the first one is kept. -/
def stickAt (m : Mid) (k : Kind) (a n : Nat) (d : List Byte) (s : State) : State :=
  updEng s (fun e => { e with stuck := some (e.stuck.getD
    { tag := 0, mid := m, addr := BitVec.ofNat 32 a, size := sizeOf n, kind := k, data := BitVec.ofNat 32 (leNat d), age := 0 }) })

/-- A piece refused with SLVERR, by its target or by the yard timeout. -/
def pieceErr (m : Mid) (k : Kind) (a : Nat) (tmo : Bool) (s : State) : (RespCode × List Byte) × State :=
  ((.slverr, []), captureErr s m (BitVec.ofNat 32 a) k .slverr tmo)

/-- One piece of an engine's access: its response, the bytes read, and the state after it. An off domain and a register target
are waited for (R19, R22): the task is carried out anew when the access can go on, with the responses it has had. -/
def dmaPiece (m : Mid) (k : Kind) (a n : Nat) (d : List Byte) (s : State) : (RespCode × List Byte) × State :=
  if s.yard.eng.pos.isNone && stalled s m then ((.slverr, []), stickAt m k a n d s)
  else
  let s := issue s
  match verdict s m (decodeTarget a) a k with
  | .decerr => ((.decerr, []), captureErr s m (BitVec.ofNat 32 a) k .decerr false)
  | .deny t => ((.deny, []), captureDeny s m t (BitVec.ofNat 32 a) k)
  | .dead => ((.dead, []), captureErr s m (BitVec.ofNat 32 a) k .dead false)
  | .wait dom => match s.yard.eng.refuse with
    | some (q, tmo) => if q = dom then pieceErr m k a tmo s else ((.slverr, []), stickAt m k a n d s)
    | none => ((.slverr, []), stickAt m k a n d s)
  | .go t =>
    if isMemory t then
      (if k != .write then ((.okay, s.mem.readN (bankAddr s t a) n), grant t m s)
       else if storable t then ((.okay, []), grant t m { s with mem := s.mem.writeN a d })
       else pieceErr m k a false (grant t m s))
    else if n != 4 then pieceErr m k a false (grant t m s)
    else match s.yard.eng.got with
      | r :: l => ((r.code, leBytes 4 r.data.toNat), updEng s (fun e => { e with got := l }))
      | [] => ((.slverr, []), stickAt m k a n d s)

/-- An engine reads a byte range, stopping at the first response other than OKAY; the bytes read before it are returned. -/
def dmaReadL (m : Mid) : List (Nat × Nat) → State → (RespCode × List Byte) × State
  | [], s => ((.okay, []), s)
  | (a, n) :: t, s =>
    match dmaPiece m .read a n [] s with
    | ((.okay, b), s1) =>
      match dmaReadL m t s1 with
      | ((c, l), s2) => ((c, b ++ l), s2)
    | ((c, _), s1) => ((c, []), s1)

/-- An engine reads `n` bytes from an address. -/
def dmaRead (m : Mid) (a n : Nat) (s : State) : (RespCode × List Byte) × State := dmaReadL m (pieces n a n) s

/-- An engine writes bytes, stopping at the first response other than OKAY; the count written is returned. -/
def dmaWriteL (m : Mid) : List (Nat × Nat) → List Byte → Nat → State → (RespCode × Nat) × State
  | [], _, w, s => ((.okay, w), s)
  | (a, n) :: t, l, w, s =>
    match dmaPiece m .write a n (l.take n) s with
    | ((.okay, _), s1) => dmaWriteL m t (l.drop n) (w + n) s1
    | ((c, _), s1) => ((c, w), s1)

/-- An engine writes bytes from an address up. -/
def dmaWrite (m : Mid) (a : Nat) (l : List Byte) (s : State) : (RespCode × Nat) × State :=
  dmaWriteL m (pieces l.length a l.length) l 0 s

/-- An engine overwrites a range with zeros, going on past refused pieces (R235); true when none was refused. -/
def dmaZeroL (m : Mid) : List (Nat × Nat) → State → Bool × State
  | [], s => (true, s)
  | (a, n) :: t, s =>
    match dmaPiece m .write a n (List.replicate n 0) s with
    | ((.okay, _), s1) => dmaZeroL m t s1
    | (_, s1) => ((false, (dmaZeroL m t s1).2))

/-- An engine zeroes `n` bytes from an address. -/
def dmaZero (m : Mid) (a n : Nat) (s : State) : Bool × State := dmaZeroL m (pieces n a n) s

/-! ## Tasks of the engines (log 20) -/

/-- Whether a task waits for an access. -/
def taskWaits (s : State) (k : Task) : Bool :=
  (s.yard.waiting ++ s.yard.port).any (fun x => match x.cont with | some c => c.task = k | none => false)

/-- A task's access takes its place among those that wait, or stalls at its master's port (R15, R19, R320). -/
def joinWait (x : Txn) (s : State) : State :=
  if s.yard.eng.pos.isNone && stalled s x.mid then { s with yard := { s.yard with port := s.yard.port ++ [x] } }
  else
    let s := issue s
    let x := { x with tag := (freeTag s.yard.waiting).getD 0 }
    let n := s.yard.eng.pos.getD s.yard.waiting.length
    let s := { s with yard := { s.yard with waiting := s.yard.waiting.take n ++ x :: s.yard.waiting.drop n } }
    match (decodeTarget x.addr.toNat).bind domainOf with
    | some d => if domReady s d then s else { s with pwr := { s.pwr with waking := withBit s.pwr.waking (domBit d) true } }
    | none => s

/-- A task is carried out by `f` with the responses it has had. One that must wait has no effect yet: its access waits, and the
task is carried out when that can go on. -/
def engineRun (k : Task) (got : List Resp) (f : State → State) (s : State) : State :=
  let t := f (updEng s (fun e => { e with got := got, stuck := none }))
  match t.yard.eng.stuck with
  | none => updEng t (fun _ => s.yard.eng)
  | some x => joinWait { x with cont := some { task := k, got := got } } s

/-- An event of an engine: nothing more while the same event still waits. -/
def engine (c : Instr) (f : State → State) (s : State) : State :=
  if taskWaits s (.event c) then s else engineRun (.event c) [] f s

/-- The access that a given-up task waits for, on its own. -/
def lastAccess (x : Txn) : Task :=
  .store x.mid x.addr.toNat (if x.kind = .write then leBytes (sizeBytes x.size) x.data.toNat else [])

/-- A task that waits is given up: the access it waits for completes, and nothing follows. -/
def dropTask (k : Task) (s : State) : State :=
  let f (x : Txn) : Txn := match x.cont with
    | some c => if c.task = k then { x with cont := some { task := lastAccess x, got := [] } } else x
    | none => x
  { s with yard := { s.yard with waiting := s.yard.waiting.map f, port := s.yard.port.map f } }

/-- What a task does that stores only. -/
def taskEffect : Task → State → State
  | .event _, s => s
  | .heldFrame, s => s
  | .store m a l, s => (dmaWrite m a l s).2
  | .setBit m a i b, s => match dmaRead m a 4 s with
    | ((.okay, l), s1) => (dmaWrite m a (leBytes 4 (withBit (BitVec.ofNat 32 (leNat l)) i b).toNat) s1).2
    | (_, s1) => s1

/-- An engine stores bytes, or rewrites a bit of a word, without waiting for it: a task of its own, issued now. -/
def post (k : Task) (s : State) : State :=
  updEng (engineRun k [] (taskEffect k) (updEng s (fun _ => {}))) (fun _ => s.yard.eng)

end Sys2Proof.Machine
end

