-- ==== Sys2Proof/Machine/Irq.lean ====
section
/-!
DEFINITION. Irq: pending levels of the interrupt sources, presentation, claim and completion (R25 to R28, R40, R43, R447).
-/

namespace Sys2Proof.Machine

open Sys2Proof

/-- Whether an event word has a bit of the mask set that its enable word enables. -/
def evtOn (evt en mask : W32) : Bool := evt &&& en &&& mask != 0

/-- A received character or an error condition that an enabled UART source follows (R285). -/
def uartPend (u : Uart) : Bool :=
  (bit u.ie 2 && u.err) || (bit u.ie 1 && u.tx.isEmpty) || (bit u.ie 0 && !u.rx.isEmpty)

/-- The sources with their conditions (R25); edge sources read their latch, bits 45 to 47. -/
def irqConds (s : State) : List (Nat × Bool) :=
  [(1, s.yard.err.isSome),
   (2, s.act.ie && (idx 25).any (fun g => (s.act.gate[g]).viol.isSome)),
   (3, (s.wdt[(0 : Fin 2)]).warn), (4, (s.wdt[(1 : Fin 2)]).warn),
   (5, evtOn s.pwr.evt s.pwr.evtEn 0x3F), (6, evtOn s.clk.evt s.clk.evtEn 0x3FF),
   (7, evtOn s.bist.evt s.bist.evtEn 3), (8, evtOn s.cfg.evt s.cfg.evtEn 0xFFFFFFFF),
   (9, s.boot.flDone && s.boot.flIe),
   (10, evtOn s.lpe.evt s.lpe.evtEn 1), (11, evtOn s.lpe.evt s.lpe.evtEn 2), (12, evtOn s.lpe.evt s.lpe.evtEn 4),
   (13, evtOn s.echoEvt s.echoEvtEn 0xF),
   (14, evtOn s.gal.evt s.gal.evtEn 1), (15, evtOn s.gal.evt s.gal.evtEn 2),
   (16, evtOn s.sns.evt s.sns.evtEn 7), (17, evtOn s.sns.evt s.sns.evtEn 8), (18, evtOn s.sns.evt s.sns.evtEn 0x10),
   (19, evtOn s.sns.evt s.sns.evtEn 0x20), (20, evtOn s.sns.evt s.sns.evtEn 0x40),
   (21, evtOn s.sns.evt s.sns.evtEn 0x180), (22, evtOn s.sns.evt s.sns.evtEn 0x600),
   (23, s.trg.dropCnt != 0),
   (24, evtOn s.trx.evt s.trx.evtEn 1), (25, evtOn s.trx.evt s.trx.evtEn 2), (26, evtOn s.trx.evt s.trx.evtEn 4),
   (27, evtOn s.trx.evt s.trx.evtEn 0x78), (28, evtOn s.rgy.evt s.rgy.evtEn 0xF),
   (29, evtOn s.cry.evt s.cry.evtEn 1), (30, evtOn s.cry.evt s.cry.evtEn 0x7E), (31, evtOn s.pkv.evt s.pkv.evtEn 1),
   (32, evtOn s.zlk.evt s.zlk.evtEn 1), (33, evtOn s.zlk.evt s.zlk.evtEn 2), (34, evtOn s.zlk.evt s.zlk.evtEn 0x1FC),
   (35, evtOn s.dli.evt s.dli.evtEn 0x7F), (36, s.spis.fromV),
   (37, uartPend (s.uart[(0 : Fin 2)])), (38, uartPend (s.uart[(1 : Fin 2)])),
   (39, (s.i2c[(0 : Fin 2)]).done && bit (s.i2c[(0 : Fin 2)]).ie 0),
   (40, (s.i2c[(1 : Fin 2)]).done && bit (s.i2c[(1 : Fin 2)]).ie 0),
   (41, s.pio.evt &&& s.pio.evtEn &&& 0xFF != 0), (42, s.pio.evt &&& s.pio.evtEn &&& 0xFF00 != 0),
   (43, s.pio.evt &&& s.pio.evtEn &&& 0xFF0000 != 0),
   (44, bit s.pwr.wakePend 1),
   (45, s.irq.edge.getLsbD 45), (46, s.irq.edge.getLsbD 46), (47, s.irq.edge.getLsbD 47),
   (48, s.yard.tmoCnt != 0)]

/-- The pending state of every source, one bit each (R25, R40, R43). -/
def irqPend (s : State) : BitVec 64 :=
  (irqConds s).foldl (fun w c => if c.2 then w ||| (1#64 <<< c.1) else w) 0

/-- The priority of a source (R43). -/
def prioOf (q : Irq) (n : Fin 64) : Nat :=
  fld (q.prio[n.val / 8]'(by omega)) (4 * (n.val % 8) + 2) (4 * (n.val % 8))

/-- The enables of a core. -/
def enOf (q : Irq) : Core → BitVec 64
  | .host => q.enHost
  | .groom => q.enGroom

/-- The threshold of a core. -/
def thrOf (q : Irq) : Core → Nat
  | .host => q.thrHost
  | .groom => q.thrGroom

/-- Whether a source is presented to a core (R26, R447). -/
def presented (s : State) (c : Core) (n : Fin 64) : Bool :=
  !unusable s 5 && (irqPend s).getLsbD n.val && (enOf s.irq c).getLsbD n.val
    && thrOf s.irq c < prioOf s.irq n && (s.irq.claimed[n]).isNone

/-- The better of two presented sources: the higher priority, then the lower number (R27). -/
def better (q : Irq) (a b : Fin 64) : Fin 64 := if prioOf q a < prioOf q b then b else a

/-- The source a claim by a core returns, if any (R27). -/
def bestSource (s : State) (c : Core) : Option (Fin 64) :=
  ((idx 64).filter (presented s c)).foldl (fun r n => match r with | none => some n | some a => some (better s.irq a n)) none

/-- Whether a core's external interrupt input is asserted (R26). -/
def irqInput (s : State) (c : Core) : Bool := (bestSource s c).isSome

/-- A claim by a core: the number returned and the state after it; an edge source is cleared (R27). -/
def claim (c : Core) (s : State) : W32 × State :=
  match bestSource s c with
  | none => (0, s)
  | some n =>
    (put n.val 0, { s with irq := { s.irq with
      claimed := s.irq.claimed.set n.val (some c)
      edge := s.irq.edge &&& ~~~ (1#64 <<< n.val) } })

/-- A completion by a core: only of a source that this core claimed (R27, R28). -/
def complete (c : Core) (d : W32) (s : State) : State :=
  let n := d.toNat % 64
  if h : n < 64 then
    if s.irq.claimed[n] = some c then { s with irq := { s.irq with claimed := s.irq.claimed.set n none } } else s
  else s

/-- An edge source is latched pending. -/
def edgePend (n : Nat) (s : State) : State :=
  { s with irq := { s.irq with edge := s.irq.edge ||| (1#64 <<< n) } }

/-- IRQ_DOORBELL (R43). -/
def effDoorbell (d : W32) (s : State) : State :=
  let s := if bit d 0 then edgePend 45 s else s
  if bit d 1 then edgePend 46 s else s

/-- The address of IRQ_CLAIM of a core. -/
def claimAddr : Core → Nat
  | .host => 0x40060048
  | .groom => 0x4006004C

/-- IRQ_CLAIM: a read of a claim register (R27). -/
def execIrqClaim (m : Mid) (c : Core) (s : State) : Host.Outcome State Fault Refusal :=
  .next (busRead m .irq (claimAddr c) (claim c) s)

/-- IRQ_COMPLETE: a write of a claim register (R27, R28). -/
def execIrqComplete (m : Mid) (c : Core) (data : W32) (s : State) : Host.Outcome State Fault Refusal :=
  .next (busWrite m .irq (claimAddr c) data (fun s => some (complete c data s)) s)

/-- TO_HOST: a doorbell to the host core (R43). -/
def execToHost (m : Mid) (s : State) : Host.Outcome State Fault Refusal :=
  .next (busWrite m .irq 0x40060050 1 (fun s => some (effDoorbell 1 s)) s)

/-- TO_GROOM: a doorbell to the groom core (R43). -/
def execToGroom (m : Mid) (s : State) : Host.Outcome State Fault Refusal :=
  .next (busWrite m .irq 0x40060050 2 (fun s => some (effDoorbell 2 s)) s)

end Sys2Proof.Machine
end

