-- ==== Sys2Proof/Machine/Partner.lean ====
section
/-!
DEFINITION. Partner: the partner table, its learned clock errors, and zone time (R190, R192, R193).
-/

namespace Sys2Proof.Machine

open Sys2Proof

/-- The radio updated. -/
def updTrx (s : State) (f : Trx → Trx) : State := { s with trx := f s.trx }

/-- Nothing is being sent, received or acknowledged. -/
def radioQuiet (t : Trx) : Bool := t.tx.isNone && !t.rxOn && t.ackDue.isNone

/-- A channel written during a frame or an attempt takes effect at its end (R199). -/
def chanApply (s : State) : State :=
  match s.trx.chanPend with
  | some c => if radioQuiet s.trx then updTrx s (fun t => { t with chan := c, chanPend := none }) else s
  | none => s

/-- The clock error that an entry predicts over a span of own cycles (R192). -/
def ptDrift (e : Partner) (span : Int) : Int := rhaDiv (e.drift.toInt * span) 100000000

/-- The partner's zone time that an entry predicts at own time `t` (R192). -/
def ptPred (e : Partner) (t : BitVec 48) : BitVec 48 := t + e.ofs + BitVec.ofInt 48 (ptDrift e (t - e.ref).toInt)

/-- The entry a sender's address selects: the lowest-indexed VALID one (R192, R199). -/
def ptFind (t : Trx) (src : BitVec 16) : Option (Fin 64) :=
  (idx 64).find? (fun i => (t.pt[i]).valid && (t.pt[i]).addr == src)

/-- The PARENT entry in use (R190, R199). -/
def ptParent (t : Trx) : Option (Fin 64) := (idx 64).find? (fun i => (t.pt[i]).valid && (t.pt[i]).parent)

/-- The zone time at own time `t` (R190). -/
def zoneAt (x : Trx) (t : BitVec 48) : BitVec 48 :=
  match ptParent x with
  | some i => ptPred (x.pt[i]) t
  | none => t

/-- The timing fields after a frame (R193). -/
def ptTiming (cfg : W32) (u : PtUpd) (e : Partner) : Partner :=
  let m := u.tsf - u.rx
  let span := (u.rx - e.ref).toInt
  let dsh := fld cfg 10 8
  if e.upd = 0 then { e with ofs := m, ref := u.rx, drift := 0, dunc := fld cfg 31 16, upd := 1 }
  else if 2 ^ 27 ≤ span then
    let err := (m - e.ofs).toInt - ptDrift e span
    let d := rhaDiv (err * 100000000) span.toNat
    let drift := if e.upd = 1 then d else e.drift.toInt + rhaDiv d (2 ^ dsh)
    let dunc : Int := if e.upd = 1 then e.dunc else max 1 (e.dunc + rhaDiv (d.natAbs - e.dunc) (2 ^ dsh))
    { e with
      drift := BitVec.ofInt 16 (clampI (-32767) 32767 drift), dunc := (clampI 0 65535 dunc).toNat
      ofs := m, ref := u.rx, upd := min (e.upd + 1) 255 }
  else e

/-- An entry after a frame: its timing, and for a SYNC frame SPER and SPH of the updated entry (R193). -/
def ptEntry (cfg : W32) (u : PtUpd) (e : Partner) : Partner :=
  let e := ptTiming cfg u e
  match u.sync with
  | some (per, next) => { e with sper := per, sph := next + (u.tsf - ptPred e u.rx).setWidth 32 }
  | none => e

/-- The partner update of a delivered frame (R193). -/
def ptApply (u : PtUpd) (s : State) : State :=
  match ptFind s.trx u.src with
  | some i => updTrx s (fun t => { t with pt := upd t.pt i (ptEntry t.ptCfg u) })
  | none => s

/-- A partner update, which waits while TRX_TIME waits for its advance (R329) and is not made while the SYSPLL coasts (R298). -/
def ptUpdate (u : PtUpd) (s : State) : State :=
  if s.clk.sys.st = .coast then s
  else if s.pwr.tadj then updTrx s (fun t => { t with ptWait := t.ptWait ++ [u] }) else ptApply u s

/-- The updates that waited are made (R329), unless the SYSPLL coasts (R298). -/
def ptFlush (s : State) : State :=
  s.trx.ptWait.foldl (fun s u => ptUpdate u s) (updTrx s (fun t => { t with ptWait := [] }))

/-- An entry's identity written (R204): a valid entry with a different ADDR has its hardware fields cleared. -/
def ptWriteId (d : W32) (e : Partner) : Partner :=
  let a := d.extractLsb' 0 16
  if bit d 31 && a != e.addr then { valid := true, parent := bit d 30, addr := a }
  else { e with valid := bit d 31, parent := bit d 30, addr := a }

end Sys2Proof.Machine
end

