-- ==== Sys2Proof/Machine/Clocks.lean ====
section
/-!
DEFINITION. Clocks: oscillators, the two synthesizers, tuning, and the sleep-clock table (R286 to R316).
-/

namespace Sys2Proof.Machine

open Sys2Proof

/-- The clock system updated. -/
def updClk (s : State) (f : Clk → Clk) : State := { s with clk := f s.clk }

/-- A bit of SYS_CLK_EVT set (R312, R316). -/
def clkEvt (i : Nat) (c : Clk) : Clk := { c with evt := withBit c.evt i true }

/-! ## Sleep-clock learning (R307 to R310) -/

/-- Where a temperature lies in the table: the lower point and the weight of the upper one (R308). -/
def slkPos (t : Int) : Nat := (clampI 0 10560 (t + 2560)).toNat

/-- Entry `i` of the table. -/
def slkAt (v : Vector SlkEntry 16) (i : Nat) : SlkEntry := if h : i < 16 then v[i] else {}

/-- Linear interpolation between two points (R308). -/
def slkMix (a b : Int) (w : Nat) : Int := a + rhaDiv ((b - a) * w) 704

/-- The predicted error p at a temperature (R308). -/
def slkPred (v : Vector SlkEntry 16) (t : Int) : Int :=
  let i := slkPos t / 704
  if i = 15 then (slkAt v 15).e.toInt else slkMix (slkAt v i).e.toInt (slkAt v (i + 1)).e.toInt (slkPos t % 704)

/-- The interpolated uncertainty dp at a temperature (R308). -/
def slkUnc (v : Vector SlkEntry 16) (t : Int) : Int :=
  let i := slkPos t / 704
  if i = 15 then (slkAt v 15).d else slkMix (slkAt v i).d (slkAt v (i + 1)).d (slkPos t % 704)

/-- SUNC (R308). -/
def sunc (s : State) : Nat :=
  min (slkUnc s.clk.slk s.sns.temp.toInt + fld s.clk.slkCfg 15 0).toNat 65535

/-- One entry of a pair updated with weight `wj` (R309). -/
def slkBump (m r : Int) (wj lsh : Nat) (x : SlkEntry) : SlkEntry :=
  if wj = 0 then x
  else if x.upd = 0 then { e := BitVec.ofInt 24 (satS 24 m), d := 200, upd := 1 }
  else
    { e := BitVec.ofInt 24 (satS 24 (x.e.toInt + rhaDiv (r * wj) (704 * 2 ^ lsh)))
      d := (clampI 1 65535 (x.d + rhaDiv ((r.natAbs - x.d : Int) * wj) (704 * 2 ^ lsh))).toNat
      upd := min (x.upd + 1) 255 }

/-- The table after a measurement `m` at a temperature (R309). -/
def slkUpdate (v : Vector SlkEntry 16) (lsh : Nat) (m t : Int) : Vector SlkEntry 16 :=
  let i := slkPos t / 704
  let w := slkPos t % 704
  let r := m - slkPred v t
  let fresh := (idx 16).all (fun j => (v[j]).upd == 0)
  let v := if fresh then (idx 16).foldl (fun v j => upd v j (fun x => { x with e := BitVec.ofInt 24 (satS 24 m) })) v else v
  (idx 16).foldl (fun v j =>
    if j.val = i then upd v j (slkBump m r (704 - w) lsh)
    else if j.val = i + 1 then upd v j (slkBump m r w lsh) else v) v

/-- The XLF cycles of a measurement (R307). -/
def slkM (cfg : W32) : Nat := if fld cfg 29 28 = 0 then 256 else if fld cfg 29 28 = 1 then 1024 else 4096

/-- The error that a count of ROOT cycles measures, in 0.01 ppm (R307). -/
def slkMeasure (cfg : W32) (c : Nat) : Int := rhaDiv (((18750 * slkM cfg : Nat) - (c : Int)) * 100000000) c

/-- Whether an entry to SLUMBER is under way. -/
def toSlumber (s : State) : Bool := match s.pwr.move with | .entering .slumber _ => true | _ => false

/-- Whether a measurement is running: the four conditions of R307 hold. One still running when an entry to SLUMBER starts is discarded
without SLK_DISC (R311). -/
def slkActive (s : State) : Bool :=
  bit s.clk.slkCfg 31 && s.clk.sys.st = .locked && s.clk.xlfOk && s.sns.tempValid && !toSlumber s

/-- After a change that may end a condition of R307, a measurement in progress is discarded with SLK_DISC. -/
def slkLapse (old new : State) : State :=
  if slkActive old && !slkActive new then updClk new (clkEvt 9) else new

/-- The CLK_YARD cycles of `k` XLF cycles at error `e` (R310). -/
def sleepCycles (k : Nat) (e : Int) : Int := rhaDiv ((k : Int) * 468750000000) (100000000 + e).toNat

/-! ## Synthesizers (R290 to R303) -/

/-- The comparison frequency of a reference path (R290). -/
def compHz (path : Nat) : Nat := if path = 1 then 76800000 else if path = 2 then 19200000 else 38400000

/-- The divider word NINT × 2^24 + FRAC of a carrier on a path (R300). -/
def divWord (carrier path : Nat) : Nat := (rhaDiv ((4 * carrier * 2 ^ 24 : Nat) : Int) (compHz path)).toNat

/-- The distance of FRAC from an integer on a path (R301). -/
def divDist (carrier path : Nat) : Nat :=
  let f := divWord carrier path % 2 ^ 24
  min f (2 ^ 24 - f)

/-- The path a tune uses (R301). -/
def choosePath (cfg : W32) (inUse carrier : Nat) : Nat :=
  let g := fld cfg 7 0 * 4096
  if !bit cfg 31 then fld cfg 17 16
  else if inUse ≠ 2 && g ≤ divDist carrier inUse then inUse
  else if g ≤ divDist carrier 0 then 0
  else if g ≤ divDist carrier 1 then 1
  else if divDist carrier 0 < divDist carrier 1 then 1 else 0

/-- The RFPLL tunes to a carrier: a small step keeps it LOCKED, any other tune is a large step with a band search
(R302); while a search or an acquisition runs the tune waits (R311). -/
def tune (carrier : Nat) (c : Clk) : Clk :=
  let path := choosePath c.rf.cfg (if c.rf.st = .off then 0 else c.rf.path) carrier
  let div := divWord carrier path
  let small := c.rf.st = .locked && path = c.rf.path && ((carrier : Int) - c.carrier).natAbs ≤ 2000000
  if c.rf.st = .search ∨ c.rf.st = .acquire then { c with want := if carrier = c.carrier then none else some carrier }
  else
    { c with
      carrier := carrier, want := none, nint := div / 2 ^ 24, frac := div % 2 ^ 24
      rf := { c.rf with path := path, st := if small then .locked else .search } }

/-- The RFPLL is powered down. -/
def rfOff (c : Clk) : Clk := { c with rf := { c.rf with st := .off, coastCyc := 0 }, want := none, rfPower := false }

/-- The SYSPLL starts: band search (R291, R296); a FAILED one is not started again. -/
def sysStart (c : Clk) : Clk :=
  if c.sys.st = .off ∧ c.xtalOk then { c with sys := { c.sys with st := .search } } else c

/-- XTAL is started without the SYSPLL, for a sniff (R334). -/
def xtalOnly (c : Clk) : Clk := { c with xtalOn := true }

/-- XTAL is started; SYSPLL follows at XTAL_OK, at once if XTAL already runs (R289, R329). -/
def xtalStart (c : Clk) : Clk := sysStart { c with xtalOn := true }

/-- XTAL is turned off in SLUMBER, unless KEEP holds it or LTICK runs from it (R289, R305). -/
def xtalRest (c : Clk) : Clk := if bit c.xtalCfg 30 || !c.xlfOk then c else { c with xtalOn := false, xtalOk := false }

/-- A locked synthesizer coasts (R293). The LPE notes a SYSPLL coast (R298, R137). -/
def coastStart (x : Pll) (s : State) : State :=
  match x with
  | .sys => { s with
      clk := { s.clk with sys := { s.clk.sys with st := .coast, coastCyc := 0, lol := false, lor := false } }
      lpe := { s.lpe with coastSeen := true } }
  | .rf => { s with clk := { s.clk with rf := { s.clk.rf with st := .coast, coastCyc := 0, lol := false, lor := false } } }

/-- XTAL_FAIL is declared (R289); without XLF either, XLF_FAIL reads 1 as well (R314). -/
def xtalFail (c : Clk) : Clk :=
  let c := clkEvt 5 { c with xtalOk := false }
  if c.xlfOk then c else clkEvt 6 c

/-- The state of a synthesizer. -/
def pllSt (s : State) : Pll → PllState
  | .sys => s.clk.sys.st
  | .rf => s.clk.rf.st

/-- A synthesizer. -/
def pllOf (s : State) : Pll → PllSt
  | .sys => s.clk.sys
  | .rf => s.clk.rf

/-- Whether a loss is declared: from LOCKED, in the cycle in which a coast began, or during a reference switch; each of the two losses
(`ref`: of reference) once in a coast (R293, R311). -/
def lossApplies (s : State) (x : Pll) (ref : Bool) : Bool :=
  let p := pllOf s x
  p.st = .locked || (p.st = .coast && !(if ref then p.lor else p.lol) && (p.switching || p.coastCyc = 0))

/-- A loss starts a coast unless the synthesizer already coasts; it is noted in it. -/
def lossCoast (s : State) (x : Pll) (ref : Bool) : State :=
  let note (p : PllSt) : PllSt := if ref then { p with lor := true } else { p with lol := true }
  let s := if pllSt s x = .locked then coastStart x s else s
  match x with
  | .sys => updClk s (fun c => { c with sys := note c.sys })
  | .rf => updClk s (fun c => { c with rf := note c.rf })

/-- Loss of lock: coast, event and count (R293). -/
def lossLock (x : Pll) (s : State) : State :=
  if lossApplies s x false then
    updClk (slkLapse s (lossCoast s x false)) (fun c => match x with
      | .sys => clkEvt 0 { c with cntSysLol := satInc c.cntSysLol 255 }
      | .rf => clkEvt 3 { c with cntRfLol := satInc c.cntRfLol 255 })
  else s

/-- Loss of reference: coast, event and count; for the SYSPLL also XTAL_FAIL (R289, R293). -/
def lossRef (x : Pll) (s : State) : State :=
  if lossApplies s x true then
    updClk (slkLapse s (lossCoast s x true)) (fun c => match x with
      | .sys => xtalFail (clkEvt 1 { c with cntSysLor := satInc c.cntSysLor 255 })
      | .rf => clkEvt 4 { c with cntRfLor := satInc c.cntRfLor 255 })
  else s

/-- Lock declared: from ACQUIRE, or as a relock from COAST, which sets SYS_RELOCK (R292, R294, R297). A tune that waited
for a search follows (R311). -/
def lockPll (x : Pll) (s : State) : State :=
  match x with
  | .sys =>
    updClk s (fun c =>
      if c.sys.st = .acquire then { c with sys := { c.sys with st := .locked } }
      else if c.sys.st = .coast then
        clkEvt 2 { c with sys := { c.sys with st := .locked, coastCyc := 0, switching := false } }
      else c)
  | .rf =>
    updClk s (fun c =>
      if c.rf.st = .acquire ∨ c.rf.st = .coast then
        let c := { c with rf := { c.rf with st := .locked, coastCyc := 0 } }
        match c.want with
        | some f => tune f c
        | none => c
      else c)

/-! ## Register effects (R304, R316) -/

/-- SYS_CLK_CTRL: BYPASS, accepted only while the SYSPLL is FAILED (R304). Every GDn goes low. -/
def effBypass (d : W32) (s : State) : Option State :=
  if !bit d 31 || s.clk.bypass then some s
  else if s.clk.sys.st = .failed then
    some { s with
      clk := { s.clk with bypass := true, fast := false }
      stl := (idx 32).foldl (fun v n => upd v n (fun t => { t with gate := false })) s.stl
      lpe := { s.lpe with pwmBase := 0 } }
  else none

/-- SYS_SYSPLL_CFG: a change of REFSEL is accepted only in LOCKED and coasts through the switch (R290, R292, R297). -/
def effSysCfg (d : W32) (s : State) : Option State :=
  let v := d &&& 0x00033300
  if fld v 17 16 = 3 then none
  else if fld v 17 16 = fld s.clk.sys.cfg 17 16 then some (updClk s (fun c => { c with sys := { c.sys with cfg := v } }))
  else if s.clk.sys.st = .locked then
    let t := coastStart .sys (updClk s (fun c => { c with sys := { c.sys with cfg := v, path := fld v 17 16, switching := true } }))
    some (slkLapse s t)
  else none

/-- SYS_RFPLL_CFG (R290, R303). -/
def effRfCfg (d : W32) (s : State) : Option State :=
  if fld d 17 16 = 3 then none else some (updClk s (fun c => { c with rf := { c.rf with cfg := d &&& 0x800333FF } }))

/-- SYS_SLK_CFG (R316). -/
def effSlkCfg (d : W32) (s : State) : Option State :=
  if fld d 29 28 = 3 then none else some (slkLapse s (updClk s (fun c => { c with slkCfg := d &&& 0xB700FFFF })))

/-- SYS_CLK_CNT_CLR (R316). -/
def effClkCntClr (d : W32) (s : State) : State :=
  if bit d 0 then updClk s (fun c => { c with cntSysLol := 0, cntSysLor := 0, cntRfLol := 0, cntRfLor := 0 }) else s

/-- SYS_SLK_E_i (R309, R316). -/
def effSlkE (i : Fin 16) (d : W32) (s : State) : State :=
  updClk s (fun c => { c with slk := upd c.slk i (fun x => { x with upd := fld d 31 24, e := d.extractLsb' 0 24 }) })

/-- SYS_SLK_D_i (R309, R316). -/
def effSlkD (i : Fin 16) (d : W32) (s : State) : State :=
  updClk s (fun c => { c with slk := upd c.slk i (fun x => { x with d := fld d 15 0 }) })

/-! ## Commands that touch only the clock system -/

/-- XTAL_FAIL: the swing is below threshold while XTAL_OK reads 1 (R289, R313). -/
def execXtalFail (s : State) : Host.Outcome State Fault Refusal :=
  .next (if s.clk.xtalOk then updClk s xtalFail else s)

/-- XTAL_OK: XTAL_OK sets, and a SYSPLL that is to run starts its band search (R289, R291, R296). In SLUMBER the SYSPLL
stays off unless an exit is under way. -/
def execXtalOk (s : State) : Host.Outcome State Fault Refusal :=
  .next (if s.clk.xtalOn && !s.clk.xtalOk then
    updClk s (fun c =>
      let c := { c with xtalOk := true }
      if s.pwr.state = .slumber && s.pwr.move = .none then c else sysStart c)
  else s)

/-- BAND_SEARCH_END: the band is shown and the loop closes to acquire (R291). -/
def execBandSearchEnd (x : Pll) (band : BitVec 6) (s : State) : Host.Outcome State Fault Refusal :=
  .next (updClk s (fun c => match x with
    | .sys => if c.sys.st = .search then { c with sys := { c.sys with st := .acquire, band := band.toNat % 32 } } else c
    | .rf => if c.rf.st = .search then { c with rf := { c.rf with st := .acquire, band := band.toNat } } else c))

/-- Once the SYSPLL has locked the core buck runs from CLK_PER ÷ 12 (R427). -/
def buckSync (s : State) : State := if s.clk.sys.st = .locked then { s with sup := { s.sup with buck := .per12 } } else s

/-- LOCK: the synthesizer declares lock (R292); the SYSPLL's first one synchronises the core buck (R427). -/
def execLock (x : Pll) (s : State) : Host.Outcome State Fault Refusal := .next (buckSync (lockPll x s))

/-- REACQUIRE: a coasting synthesizer re-acquires from the frozen control value (R294, R297). -/
def execReacquire (x : Pll) (s : State) : Host.Outcome State Fault Refusal :=
  .next (if pllSt s x = .coast then lockPll x s else s)

/-- RFPLL_RESEARCH: an RFPLL that did not relock runs a band search (R294). -/
def execRfpllResearch (s : State) : Host.Outcome State Fault Refusal :=
  .next (updClk s (fun c => if c.rf.st = .coast then { c with rf := { c.rf with st := .search } } else c))

/-- SYSPLL_FAILED: a start that has not reached LOCKED ends in FAILED (R296, R313). -/
def execSyspllFailed (s : State) : Host.Outcome State Fault Refusal :=
  .next (updClk s (fun c => if c.sys.st = .search ∨ c.sys.st = .acquire then { c with sys := { c.sys with st := .failed } } else c))

/-- REFERENCE_SWITCH: a write of SYS_SYSPLL_CFG (R297). -/
def execReferenceSwitch (m : Mid) (data : W32) (s : State) : Host.Outcome State Fault Refusal :=
  .next (busWrite m .sys 0x40000020 data (effSysCfg data) s)

/-- BYPASS: a write of SYS_CLK_CTRL with BYPASS = 1 (R304). -/
def execBypass (m : Mid) (s : State) : Host.Outcome State Fault Refusal :=
  .next (busWrite m .sys 0x4000000C 0x80000000 (effBypass 0x80000000) s)

/-- In SLUMBER the instant at which LTICK takes another source is kept (R310, R311). -/
def noteMove (xlf : Bool) (s : State) : State :=
  if s.pwr.state = .slumber then
    { s with pwr := { s.pwr with sleep := s.pwr.sleep.map (fun p => { p with moves := p.moves ++ [(s.pwr.ltime, xlf)] }) } }
  else s

/-- XLF_OK: 256 cycles in band; LTICK moves to XLF (R305, R306). In SLUMBER an XTAL that ran for want of XLF is turned off, unless a sniff
or an exit needs it (R289). -/
def execXlfOk (s : State) : Host.Outcome State Fault Refusal :=
  .next (if s.clk.xlfOk then s
    else noteMove true (updClk s (fun c =>
      let c := clkEvt 7 { c with xlfOk := true, ltXlf := true }
      if s.pwr.state = .slumber && s.pwr.move = .none && !c.rfPower then xtalRest c else c)))

/-- XLF_FAIL: XLF_OK clears, XTAL is started if it is off, and LTICK moves to it (R305, R306, R307); in SLUMBER the
instant of the move is kept (R311). -/
def execXlfFail (s : State) : Host.Outcome State Fault Refusal :=
  .next (if s.clk.xlfOk then
    noteMove false (slkLapse s (updClk s (fun c => clkEvt 6 { c with xlfOk := false, ltXlf := false, xtalOn := true })))
  else s)

/-- SLEEP_CLOCK_MEASUREMENT: a measurement of `c` ROOT cycles ends, at the TEMP published last (R307, R309). -/
def execSleepClockMeasurement (c : Nat) (s : State) : Host.Outcome State Fault Refusal :=
  .next (if slkActive s && c != 0 then
    let m := slkMeasure s.clk.slkCfg c
    updClk s (fun k => clkEvt 8 { k with
      slkValid := true, slkLast := BitVec.ofInt 24 (satS 24 m), slkT := s.sns.tempData
      slk := slkUpdate k.slk (fld k.slkCfg 26 24) m s.sns.tempData.toInt })
  else s)

/-- CLK_CNT_CLR (R316). -/
def execClkCntClr (m : Mid) (s : State) : Host.Outcome State Fault Refusal :=
  .next (busWrite m .sys 0x4000004C 1 (fun s => some (effClkCntClr 1 s)) s)

/-- CLOAD_STEP: the crystal load moves one step toward CLOAD, 1 ms after the step before it (R431). -/
def execCloadStep (s : State) : Host.Outcome State Fault Refusal :=
  .next (if s.clk.cloadDue != 0 then s else updClk s (fun c =>
    let t := fld c.xtalCfg 5 0
    { c with cloadDue := if c.cload = t then 0 else 153600, cload := if c.cload < t then c.cload + 1 else if t < c.cload then c.cload - 1 else c.cload }))

end Sys2Proof.Machine
end

