-- ==== Sys2Proof/Machine/Limits.lean ====
section
/-!
DEFINITION. Limits: the radio's settings in force within the limits that bind (R198, R203), and spans of TRX_TIME (R189).
-/

namespace Sys2Proof.Machine

open Sys2Proof

/-- A field in force: a value written outside the limits acts as the nearest limit (log 75). -/
def within (lo hi x : Nat) : Nat := max lo (min hi x)

/-- PRE in force, octets. -/
def preOf (t : Trx) : Nat := max 4 (fld t.pre 27 16)
/-- CCA_TIME in force, µs. -/
def ccaUs (t : Trx) : Nat := within 32 400 (fld t.lbt 28 20)
/-- BO_UNIT in force, µs. -/
def boUnit (t : Trx) : Nat := within 20 1000 (fld t.bo 9 0)
/-- ACK_DLY in force, µs. -/
def ackDly (t : Trx) : Nat := within 100 1000 (fld t.ack 25 16)
/-- INT in force, ms. -/
def sniffInt (t : Trx) : Nat := within 10 10000 (fld t.sniffCfg 13 0)
/-- GMIN in force, µs. -/
def gminUs (t : Trx) : Nat := max 8 (fld t.gmin 9 0)

/-- CLK_YARD cycles of µs. -/
def usCyc (us : Nat) : Nat := (us * 1536 + 5) / 10

/-- The cycles of TRX_TIME since an instant, in 48 bits. -/
def sinceT (t : Trx) (a : Nat) : Nat := (BitVec.ofNat 48 t.time - BitVec.ofNat 48 a).toNat

/-- The cycles of TRX_TIME until an instant, negative once it has passed. -/
def untilT (t : Trx) (a : Nat) : Int := (BitVec.ofNat 48 a - BitVec.ofNat 48 t.time).toInt

/-- The turnaround before the first preamble bit, µs (R182). -/
def turnUs : Nat := 40

/-- Whether a TIMED or SYNC attempt's assessment listens: CCA_TIME up to the start of the turnaround (R184). -/
def timedListens (t : Trx) : Bool :=
  match t.tx with
  | some x => x.stage = .timed && bit (x.w[1]) 29 && !x.clear && untilT t x.start ≤ usCyc (turnUs + ccaUs t)
  | none => false

/-- Whether PA_EN has risen for a timed launch: PA_LEAD before the first preamble bit (R171). -/
def paLead (t : Trx) : Bool :=
  match t.tx with
  | some x => x.stage = .timed && (x.clear || !bit (x.w[1]) 29) && untilT t x.start ≤ usCyc (fld t.pa 7 0)
  | none => false

end Sys2Proof.Machine
end

