-- ==== Sys2Proof/Machine/Levels.lean ====
section
/-!
DEFINITION. Levels: FAULT_N, the radio's state, and the levels of the general-purpose pins (R153, R358 to R364, R400).
-/

namespace Sys2Proof.Machine

open Sys2Proof

/-! ## FAULT_N (R153, R400) -/

/-- The output settings in force: those a parked stall froze with, else the register's (R69). -/
def outOf (t : Stall) : W32 := match t.frz with | some f => f.out | none => t.out

/-- The stall part of FAULT_N: an FN stall is ACTIVE with no retry pending (R153). -/
def stallFault (s : State) : Bool := (idx 32).any (fun n => bit (outOf s.stl[n]) 28 && (s.stl[n]).active && !(s.stl[n]).retryPend)

/-- Whether a required paddock cannot give light (R400). -/
def reqFault (s : State) : Bool :=
  (idx 8).any (fun p => s.cfg.reqPdk.getLsbD p.val
    && (unusable s (32 + p.val) || (s.cfg.pdk[p]).state = .unusable || ((s.cfg.pdk[p]).empty && (s.cfg.pdk[p]).state != .loading)))

/-- Whether a condition holds FAULT_N low (R400). -/
def faultCond (s : State) : Bool :=
  !s.boot.released || 2 ≤ s.boot.level || reqFault s || unusable s 40 || s.boot.force || stallFault s

/-- Whether the device drives FAULT_N low, the latch of SLUMBER included (R335, R400). -/
def faultLow (s : State) : Bool := s.pwr.faultHeld.getD (faultCond s)

/-! ## The radio's state (R203) -/

/-- Whether the radio is powered and enabled. -/
def trxOn (s : State) : Bool := bit s.trx.ctrl 31 && domReady s .radio && !unusable s 47

/-- TRX_STAT.STATE (R203): send acknowledgement while one is due, receive from the sync word to the end of the frame, off
while disabled and between sniffs (R194, R300). -/
def trxState (s : State) : Nat :=
  let t := s.trx
  match t.tx with
  | some x => match x.stage with
    | .onAir => 5
    | .awaitAck => if t.ackDue.isSome then 7 else 6
    | .assess => 4
    | .timed => if t.ackDue.isSome then 7 else if t.rxOn then 2 else if timedListens t then 4 else 1
    | .sealing | .ready | .backoff | .again => if t.ackDue.isSome then 7 else if t.rxOn then 2 else 1
  | none =>
    if !bit t.ctrl 31 then 0
    else if t.ackDue.isSome then 7 else if t.rxOn then 2 else if t.sniffing then 3
    else if bit t.ctrl 30 || !bit t.ctrl 29 then 1 else 0

/-- Whether a frame of this device is on air. -/
def onAir (s : State) : Bool := match s.trx.tx with | some t => t.stage = .onAir | none => false

/-- Whether the receiver is on: RXON, a sniff, an assessment, a back-off or an awaited acknowledgement (R171, R183, R188). -/
def receiverOn (s : State) : Bool :=
  trxOn s && !onAir s && (bit s.trx.ctrl 30 || s.trx.sniffing || s.trx.rxOn || timedListens s.trx
    || (match s.trx.tx with | some t => t.stage = .assess || t.stage = .backoff || t.stage = .awaitAck | none => false))

/-! ## Pads (R358 to R363) -/

/-- What a driver does at a pad: a level, release, or a level the spec leaves open. -/
inductive PadDrive where
  | level (b : Bool) | release | varies
  deriving DecidableEq, Repr

/-! ## Lines that the ports drive (R252, R270) -/

/-- The bits of an octet, least significant first. -/
def lsbBits (b : Byte) : List Bool := (List.range 8).map b.getLsbD

/-- A burst on the line in half-bits of 62.5 ns: each bit changes level at its middle, low to high for 1 (R252). -/
def manchester (l : List Byte) : List Bool := l.flatMap (fun b => (lsbBits b).flatMap (fun v => [!v, v]))

/-- The time since the last Troax burst began, in tenths of a CLK_YARD cycle; a half-bit lasts 96 of them. -/
def burstAge (s : State) : Nat := 10 * s.time - s.zlk.burstAt

/-- Whether ZLK_DE is high: from a burst's first half-bit to 62.5 ns after its last (R252). Its rise comes 125 ns before the event that
sends the burst (log 50). -/
def zlkDe (s : State) : Bool :=
  s.zlk.state != .off && s.zlk.sent != [] && burstAge s < 96 * (16 * s.zlk.sent.length + 1)

/-- The level of ZLK_TXD: high between bursts (R252). -/
def zlkTxd (s : State) : Bool :=
  !zlkDe s || ((manchester s.zlk.sent)[burstAge s / 96]?).getD true

/-- A DALI frame in half-bits, true while the bus is active: a start bit of 1, then the data, most significant bit first; a 1 goes from
active to idle at its middle (R270, log 78). -/
def dliHalves (data : W32) (len : Nat) : List Bool :=
  (true :: (List.range len).reverse.map (bit data)).flatMap (fun v => [v, !v])

/-- CLK_YARD cycles of a DALI half-bit, 416.67 µs (R270). -/
def dliHalf : Nat := 64000

/-- The half-bits of the frame last sent. -/
def dliLine (d : Dli) : List Bool := match d.sent.getLast? with | some (w, n) => dliHalves w n | none => []

/-- Whether the DALI engine drives its bus active (R270). -/
def dliActive (s : State) : Bool :=
  match s.dli.run with
  | .sending _ => ((dliLine s.dli)[(s.time - s.dli.sendAt) / dliHalf]?).getD false
  | _ => false

/-- What an output function drives; none is an input function (R358, R252, R270, R275, R276, R171). A UART character or an I2C transfer
moves its line, and no one level is stated for it. -/
def funDrive (s : State) (f : Nat) : Option PadDrive :=
  let utxd (u : Uart) : PadDrive := if u.cur.isSome then .varies else .level true
  let urts (u : Uart) : PadDrive :=
    .level (if bit u.ctrl 31 && bit u.ctrl 29 then (if bit u.ctrl 28 then 14 ≤ u.rx.length else false) else true)
  let i2c (i : I2c) : PadDrive := if i.busy || i.held then .varies else .release
  match f with
  | 0 => some (.level (zlkTxd s))
  | 2 => some (.level (zlkDe s))
  | 3 => some (.level (dliActive s != bit s.dli.ctrl 29))
  | 8 => some .release
  | 9 => some (.level (!s.spis.toV))
  | 10 => some (utxd s.uart[(0 : Fin 2)])
  | 12 => some (urts s.uart[(0 : Fin 2)])
  | 14 => some (utxd s.uart[(1 : Fin 2)])
  | 16 => some (urts s.uart[(1 : Fin 2)])
  | 18 => some (i2c s.i2c[(0 : Fin 2)])
  | 19 => some (i2c s.i2c[(0 : Fin 2)])
  | 20 => some (i2c s.i2c[(1 : Fin 2)])
  | 21 => some (i2c s.i2c[(1 : Fin 2)])
  | 22 => some (.level (bit s.trx.pa 31 && (onAir s || paLead s.trx)))
  | 23 => some (.level (bit s.trx.pa 30 && receiverOn s))
  | _ => none

/-- The functions that name a pin. -/
def funsOf (s : State) (i : Fin 24) : List Nat := ((idx 24).filter (fun f => s.pio.fsel[f] = i.val)).map Fin.val

/-- What the pad of a pin would drive from its registers and functions: two functions on one pin leave it open (R360, R361,
R362, R363). -/
def regDrive (s : State) (i : Fin 24) : PadDrive :=
  match funsOf s i with
  | [] =>
    if s.pio.dir.getLsbD i.val then
      (if bit (s.pio.cfg[i]) 5 && s.pio.out.getLsbD i.val then .release else .level (s.pio.out.getLsbD i.val))
    else .release
  | [f] => (funDrive s f).getD .release
  | _ => .varies

/-- Whether a pin's group is held (R368). -/
def pinHeld (s : State) (i : Fin 24) : Bool := s.pio.hold.getLsbD (i.val / 8)

/-- What the pad drives: the latched image while its group is held; with PIO unusable every pad stays in its reset state (R368, R371). -/
def padDrive (s : State) (i : Fin 24) : PadDrive :=
  if unusable s 7 then .release
  else if pinHeld s i then (if s.pio.heldDrive.getLsbD i.val then .level (s.pio.heldLevel.getLsbD i.val) else .release)
  else regDrive s i

/-- The pull in force at a pad (R362, R368). -/
def padPull (s : State) (i : Fin 24) : Nat :=
  if unusable s 7 then 1 else fld (if pinHeld s i then s.pio.heldCfg[i] else s.pio.cfg[i]) 1 0

/-- The level of a pin's node: the driver's, the outside driver's, else the pull's; opposing drivers, an open driver and a
floating node give a free value (R361, R362). -/
def nodeLevel (s : State) (i : Fin 24) : Bool :=
  let u := Config.freeBit (s.free + i.val)
  match padDrive s i, s.pio.ext[i] with
  | .varies, _ => u
  | .level a, some b => if a = b then a else u
  | .level a, none => a
  | .release, some b => b
  | .release, none =>
    match padPull s i with
    | 1 => false
    | 2 => true
    | 3 => s.pio.keep.getLsbD i.val
    | _ => u

/-- PIO_IN (R363). -/
def pioIn (s : State) : BitVec 24 :=
  (idx 24).foldl (fun w i => if nodeLevel s i then w ||| (1#24 <<< i.val) else w) 0

end Sys2Proof.Machine
end

