-- ==== Sys2Proof/Machine/Wake.lean ====
section
/-!
DEFINITION. Wake: wake events, the abort of an entry, and the fence of an entry to SLUMBER (R322, R325, R327, R329, R330, R332).
-/

namespace Sys2Proof.Machine

open Sys2Proof

/-- The power controller updated. -/
def updPwr (s : State) (f : Pwr → Pwr) : State := { s with pwr := f s.pwr }

/-- A bit of PWR_EVT set. -/
def pwrEvt (i : Nat) (p : Pwr) : Pwr := { p with evt := withBit p.evt i true }

/-- STATE codes (R341). -/
def pwrNum : PwrState → Nat
  | .run => 0 | .runFast => 1 | .doze => 2 | .nap => 3 | .slumber => 4

/-- The codes of the wake sources (R332); FENCE is 7. -/
def wakeCode : WakeSrc → Nat
  | .timer => 1 | .sniff => 2 | .pio => 3 | .hostIrq => 4 | .groomIrq => 5 | .dbg => 6 | .fence => 7 | .groomReq => 8

/-- Whether a source wakes from a state, or aborts an entry to it (R332). -/
def wakes (p : Pwr) (src : WakeSrc) (st : PwrState) : Bool :=
  let en := bit p.wakeEn (wakeCode src)
  match src, st with
  | .fence, _ => false
  | .groomReq, .nap => true
  | .groomIrq, .doze => true
  | .hostIrq, .doze => true
  | .hostIrq, .nap => en
  | .sniff, .slumber => en
  | .timer, .doze | .timer, .nap | .timer, .slumber => en
  | .pio, .doze | .pio, .nap | .pio, .slumber => en
  | .dbg, .doze | .dbg, .nap | .dbg, .slumber => en
  | _, _ => false

/-- PWR_LASTWAKE and PWR_LASTWAKE_T written (R325, R327, R329). -/
def lastWake (code : Nat) (prior : PwrState) (aborted : Bool) (p : Pwr) : Pwr :=
  { p with lastWake := put 1 31 ||| putB aborted 30 ||| put (pwrNum prior) 8 ||| put code 0, lastT := p.ltime }

/-- An entry in progress is aborted by a source (R325): the latches are released, the cores go on. -/
def abortEntry (code : Nat) (s : State) : State :=
  match s.pwr.move with
  | .entering _ prior =>
    { s with
      pwr := lastWake code prior true (pwrEvt 1 { s.pwr with
        move := .none, faultHeld := none, abortCnt := satInc s.pwr.abortCnt 65535 })
      pio := { s.pio with hold := 0 } }
  | _ => s

/-- An action that would make refuser LPE, TRX, CRY or ZLK hold aborts an entry to SLUMBER with FENCE (R325). -/
def fence (s : State) : State :=
  match s.pwr.move with
  | .entering .slumber _ => abortEntry 7 s
  | _ => s

/-- The exit from a low-power state starts (R327, R329, R330). DOZE is left at once. -/
def startExit (code : Nat) (s : State) : State :=
  match s.pwr.state with
  | .doze =>
    updClk (updPwr s (fun p => lastWake code .doze false { p with state := p.dozeFrom }))
      (fun c => { c with fast := s.pwr.dozeFrom = .runFast && !c.bypass })
  | .nap => updPwr s (fun p => lastWake code .nap false { p with move := .exiting .run })
  | .slumber =>
    updClk (updPwr s (fun p => lastWake code .slumber false
      { p with move := .exiting (if p.exitNap then .nap else .run), tadj := true })) xtalStart
  | _ => s

/-- A wake event (R332): its PWR_WAKE_PEND bit is set, and it aborts an entry, starts an exit, or does neither. -/
def wake (src : WakeSrc) (s : State) : State :=
  let s := if wakeCode src ≤ 6 then updPwr s (fun p => { p with wakePend := withBit p.wakePend (wakeCode src) true }) else s
  match s.pwr.move with
  | .entering t _ => if wakes s.pwr src t then abortEntry (wakeCode src) s else s
  | .none => if wakes s.pwr src s.pwr.state then startExit (wakeCode src) s else s
  | _ => s

end Sys2Proof.Machine
end

