-- ==== Sys2Proof/Machine/Routes.lean ====
section
/-!
DEFINITION. Routes: trigger routes, from a source event to a scene post, a radio launch and a Troax scene (R29 to R32, R40,
R44, R447).
-/

namespace Sys2Proof.Machine

open Sys2Proof

/-- Dropped route actions counted (R31, R32). -/
def countDrop (k : Nat) (s : State) : State := { s with trg := { s.trg with dropCnt := satAdd s.trg.dropCnt k 65535 } }

/-- Whether a paddock counts as UNUSABLE (R31, R411). -/
def pdkUnusable (s : State) (p : Fin 8) : Bool := (s.cfg.pdk[p]).state = .unusable || unusable s (32 + p.val)

/-- A scene is posted to a stall: held there until its next sample instant in a LIVE paddock, discarded and counted when its
paddock is UNUSABLE (R31); a post of a scene whose EN is 0 is ignored (R123). -/
def postScene (sc : Nat) (s : State) (n : Fin 32) : State :=
  if pdkUnusable s (pdkOf n) then countDrop 1 s
  else updStl s n (fun t => if !bit (t.scn[sc % 8]'(by omega)) 31 then t else { t with posts := t.posts ||| (1#8 <<< (sc % 8)) })

/-- A scene is posted to every stall of a mask. -/
def postMask (sc : Nat) (mask : W32) (s : State) : State :=
  ((idx 32).filter (fun n => bit mask n.val)).foldl (postScene sc) s

/-- Whether a slot can be launched: armed, not in flight, and the TRX available and not under test (R32, R201, R420). -/
def canLaunch (s : State) (k : Fin 4) : Bool :=
  (s.trx.arm[k]).armed && !(s.trx.arm[k]).inflight && domReady s .radio && !unusable s 47
    && (match s.bist.run with | some r => r.target.val != 47 | none => true)

/-- A slot is launched (R181): INFLIGHT is set and a queued attempt not yet on air is abandoned without counting a try
(R199). An entry to SLUMBER is aborted (R325). -/
def launchSlot (k : Fin 4) (s : State) : State :=
  let s := fence s
  let t := s.trx
  let keep := match t.tx with
    | some x => if x.src = .queue ∧ x.stage ≠ .onAir ∧ x.stage ≠ .awaitAck then none else some x
    | none => none
  chanApply { s with trx := { t with
      arm := upd t.arm k (fun a => { a with inflight := true })
      launched := t.launched ++ [k]
      tx := keep } }

/-- Whether the device is joined to a running zone (R258); an unusable ZLK counts as never joined (R281). -/
def zlkJoined (s : State) : Bool := !unusable s 57 && (s.zlk.state = .follower || s.zlk.state = .leader)

/-- A scene is placed in the one-entry Troax scene queue (R266). -/
def zlkQueue (sc : Nat) (s : State) : State :=
  { s with zlk := { s.zlk with
      cntRepl := if s.zlk.pend then satInc s.zlk.cntRepl 255 else s.zlk.cntRepl
      qScene := sc % 8, qGroup := s.zlk.group, pend := true } }

/-- Route `r` fires: each of its enabled actions is carried out, or dropped and counted (R30, R31, R32). -/
def fireRoute (r : Fin 32) (s : State) : State :=
  let w := s.trg.route[r]
  let sc := fld w 10 8
  let s := if bit w 13 then postMask sc s.trg.mask[r] s else s
  let k : Fin 4 := ⟨fld w 17 16 % 4, Nat.mod_lt _ (by decide)⟩
  let s := if bit w 14 then (if canLaunch s k then launchSlot k s else countDrop 1 s) else s
  if bit w 15 then (if zlkJoined s then zlkQueue sc s else countDrop 1 s) else s

/-- Whether route `r` fires on a source code. -/
def routeHits (s : State) (src : Nat) (r : Fin 32) : Bool := bit (s.trg.route[r]) 31 && fld (s.trg.route[r]) 5 0 = src && src != 0

/-- A source event: every enabled route whose SRC matches fires once; each firing sets TRG_FIRED and is recorded in TRG_LAST
(R30). An unusable IRQ block fires no route (R447). -/
def fire (src : Nat) (s : State) : State :=
  if unusable s 5 then s
  else
    let rs := (idx 32).filter (routeHits s src)
    if rs.isEmpty then s
    else
      let t := rs.foldl (fun t r => fireRoute r t) s
      edgePend 47 { t with trg := { t.trg with last := src } }

/-- Several sources fire in one cycle: each fires its own routes, and TRG_LAST records the lower code (R37). -/
def fireAll (srcs : List Nat) (s : State) : State :=
  let t := srcs.foldl (fun t c => fire c t) s
  match srcs.find? (fun c => (idx 32).any (routeHits s c)) with
  | some c => if unusable s 5 then t else { t with trg := { t.trg with last := c } }
  | none => t

/-- A source fires in the cycle in which the sources of `l` have fired: TRG_LAST records the lowest code that fired a route (R37). -/
def fireWith (l : List Nat) (src : Nat) (s : State) : State :=
  let t := fire src s
  match l.find? (fun c => c < src && (idx 32).any (routeHits s c)) with
  | some c => if unusable s 5 then t else { t with trg := { t.trg with last := c } }
  | none => t

/-- Whether a route source code is reserved (R29). -/
def srcReserved (c : Nat) : Bool := c = 3 || (0x18 ≤ c && c < 0x20)

/-- TRG_ROUTE_r (R29, R44). -/
def effRoute (r : Fin 32) (d : W32) (s : State) : Option State :=
  if s.trg.lock then some s
  else if srcReserved (fld d 5 0) then none
  else some { s with trg := { s.trg with route := s.trg.route.set r.val (d &&& 0x8003E73F) } }

/-- TRG_MASK_r (R44). -/
def effMask (r : Fin 32) (d : W32) (s : State) : State :=
  if s.trg.lock then s else { s with trg := { s.trg with mask := s.trg.mask.set r.val d } }

/-- TRG_LOCK (R44). -/
def effTrgLock (d : W32) (s : State) : State :=
  if bit d 0 then { s with trg := { s.trg with lock := true } } else s

/-- TRG_FIRE (R44): the software sources 0x38 + k. -/
def effTrgFire (d : W32) (s : State) : State :=
  fireAll (((List.range 8).filter (fun k => bit d k)).map (fun k => 0x38 + k)) s

/-- TRG_DROP_CNT (R40, R44). -/
def effDropCnt (d : W32) (s : State) : State :=
  if bit d 31 then { s with trg := { s.trg with dropCnt := 0 } } else s

/-- SYS_YERR_STAT (R39, R42). -/
def effYerrStat (d : W32) (s : State) : State :=
  if bit d 31 then { s with yard := { s.yard with err := none } }
  else if bit d 30 then { s with yard := { s.yard with err := s.yard.err.map (fun e => { e with ovf := false }) } }
  else s

/-- SYS_YERR_CLR (R42): the count outstanding includes the write itself. -/
def effYerrClr (d : W32) (s : State) : State :=
  let s := if bit d 0 then { s with yard := { s.yard with slverrCnt := 0, decerrCnt := 0, deadCnt := 0, tmoCnt := 0 } } else s
  if bit d 1 then { s with yard := { s.yard with peak := s.yard.waiting.length + 1 } } else s

/-- SYS_YARD_CFG (R42, R44). -/
def effYardCfg (d : W32) (s : State) : State :=
  if s.trg.lock then s else { s with yard := { s.yard with cfg := d &&& 0x1FF } }

/-- YERR_VALID_CLEAR: a write of SYS_YERR_STAT with VALID = 1 (R39). -/
def execYerrValidClear (m : Mid) (ovf : Bool) (s : State) : Host.Outcome State Fault Refusal :=
  let d := put 1 31 ||| putB ovf 30
  .next (busWrite m .sys 0x40000804 d (fun s => some (effYerrStat d s)) s)

/-- CNT_CLR (R42). -/
def execCntClr (m : Mid) (s : State) : Host.Outcome State Fault Refusal :=
  .next (busWrite m .sys 0x40000810 1 (fun s => some (effYerrClr 1 s)) s)

/-- PEAK_CLR (R42). -/
def execPeakClr (m : Mid) (s : State) : Host.Outcome State Fault Refusal :=
  .next (busWrite m .sys 0x40000810 2 (fun s => some (effYerrClr 2 s)) s)

/-- TRG_FIRE (R44). -/
def execTrgFire (m : Mid) (sw : Byte) (s : State) : Host.Outcome State Fault Refusal :=
  .next (busWrite m .irq 0x40060304 (sw.setWidth 32) (fun s => some (effTrgFire (sw.setWidth 32) s)) s)

/-- TRG_LOCK (R44). -/
def execTrgLock (m : Mid) (s : State) : Host.Outcome State Fault Refusal :=
  .next (busWrite m .irq 0x40060300 1 (fun s => some (effTrgLock 1 s)) s)

/-- TRG_DROP_CNT_CLR (R40). -/
def execTrgDropCntClr (m : Mid) (s : State) : Host.Outcome State Fault Refusal :=
  .next (busWrite m .irq 0x40060308 0x80000000 (fun s => some (effDropCnt 0x80000000 s)) s)

end Sys2Proof.Machine
end

