-- ==== Sys2Proof/Machine/Act.lean ====
section
/-!
DEFINITION. Act: the registers of the access tables (R347 to R349, R356, R357), and those of the IRQ block and the yard.
-/

namespace Sys2Proof.Machine

open Sys2Proof

/-- The access tables updated. -/
def updAct (s : State) (f : Act → Act) : State := { s with act := f s.act }

/-- Whether a master may write ACT registers (R347). -/
def actWriter (m : Mid) : Bool := m = .hostS || m = .cfg

/-- ACT_LOCK (R349, R356). -/
def effActLock (d : W32) (s : State) : Option State :=
  let lock (f : Vector Gate 25 → Vector Gate 25) : Option State := some (updAct s (fun a => { a with gate := f a.gate }))
  if bit d 30 && 25 ≤ fld d 4 0 then none
  else if bit d 31 then lock (fun v => (idx 25).foldl (fun v g => upd v g (fun q => { q with locked := true })) v)
  else if h : fld d 4 0 < 25 then
    (if bit d 30 then lock (fun v => upd v ⟨fld d 4 0, h⟩ (fun q => { q with locked := true })) else some s)
  else some s

/-- ACT_VIOL_CNT (R356). -/
def effViolCnt (d : W32) (s : State) : State := if bit d 31 then updAct s (fun a => { a with cnt := 0 }) else s

/-- ACT_g_VIOL_INFO (R346, R357). -/
def effViolInfo (g : Fin 25) (d : W32) (s : State) : State :=
  if bit d 31 then updAct s (fun a => { a with gate := upd a.gate g (fun q => { q with viol := none }) }) else s

/-- A region, default or control register of a gate; a locked gate answers SLVERR (R349, R357). -/
def effGate (g : Fin 25) (o : Nat) (d : W32) (s : State) : Option State :=
  let w (f : Gate → Gate) : Option State :=
    if (s.act.gate[g]).locked then none else some (updAct s (fun a => { a with gate := upd a.gate g f }))
  if h : o < 0x60 then
    let r : Fin 8 := ⟨o / 12, by omega⟩
    match o % 12 with
    | 0 => w (fun q => { q with rgn := upd q.rgn r (fun x => { x with base := d &&& 0xFFFFFFE0 }) })
    | 4 => w (fun q => { q with rgn := upd q.rgn r (fun x => { x with limit := d &&& 0xFFFFFFE0 }) })
    | _ => w (fun q => { q with rgn := upd q.rgn r (fun x => { x with perm := d &&& 0x003FFFFF }) })
  else if o = 0x60 then w (fun q => { q with dflt := d &&& 0x003FFFFF })
  else if o = 0x64 then w (fun q => { q with ctrl := d &&& 0xFF })
  else if o = 0x6C then some (effViolInfo g d s)
  else some s

/-- A write of an ACT register (R347, R356, R357). -/
def actWrite (m : Mid) (off : Nat) (d : W32) (s : State) : Option State :=
  if !actWriter m then none
  else if off = 0 then some (updAct s (fun a => { a with ie := bit d 0 }))
  else if off = 4 then effActLock d s
  else if off = 0x10 then some (effViolCnt d s)
  else if 0x80 ≤ off then
    match windowIdx 25 0x80 (off - 0x80) with
    | some g => effGate g ((off - 0x80) % 0x80) d s
    | none => some s
  else some s

/-- The bits of a set of gates. -/
def gateMap (s : State) (f : Gate → Bool) : W32 :=
  (idx 25).foldl (fun w g => withBit w g.val (f s.act.gate[g])) 0

/-- A read of a gate register (R357). -/
def gateRead (q : Gate) (o : Nat) : W32 :=
  if h : o < 0x60 then
    let r : Fin 8 := ⟨o / 12, by omega⟩
    match o % 12 with
    | 0 => (q.rgn[r]).base
    | 4 => (q.rgn[r]).limit
    | _ => (q.rgn[r]).perm
  else if o = 0x60 then q.dflt
  else if o = 0x64 then q.ctrl
  else match q.viol with
    | none => 0
    | some v =>
      if o = 0x68 then v.addr
      else if o = 0x6C then
        put 1 31 ||| putB v.ovf 30 ||| put (midNum v.mid) 8 ||| put (kindNum v.kind) 4 ||| put v.region 0
      else 0

/-- A read of an ACT register (R356, R357). -/
def actRead (off : Nat) (s : State) : W32 :=
  if off = 0 then putB s.act.ie 0
  else if off = 8 then gateMap s (fun q => q.locked)
  else if off = 0xC then gateMap s (fun q => q.viol.isSome)
  else if off = 0x10 then put s.act.cnt 0
  else if 0x80 ≤ off then
    match windowIdx 25 0x80 (off - 0x80) with
    | some g => gateRead s.act.gate[g] ((off - 0x80) % 0x80)
    | none => 0
  else 0

/-! ## IRQ block and yard registers (R42, R43, R44) -/

/-- A half of a 64-bit word of source bits replaced; bits of sources 0 and 49 to 63 are reserved (R43). -/
def setHalf (w : BitVec 64) (hi : Bool) (d : W32) : BitVec 64 :=
  let v : BitVec 64 := if hi then (d.setWidth 64) <<< 32 else d.setWidth 64
  let m : BitVec 64 := if hi then 0x0001FFFF00000000 else 0xFFFFFFFE
  (w &&& ~~~ (if hi then 0xFFFFFFFF00000000 else 0xFFFFFFFF : BitVec 64)) ||| (v &&& m)

/-- The writable priority fields of IRQ_PRIO_j: sources 1 to 48 (R25, R43). -/
def prioMask (j : Nat) : W32 := if j = 0 then 0x77777770 else if j < 6 then 0x77777777 else if j = 6 then 7 else 0

/-- A write of an IRQ or trigger-route register (R43, R44). -/
def irqWrite (off : Nat) (d : W32) (s : State) : Option State :=
  let q (f : Irq → Irq) : Option State := some { s with irq := f s.irq }
  match off with
  | 0x10 => q (fun i => { i with enHost := setHalf i.enHost false d })
  | 0x14 => q (fun i => { i with enHost := setHalf i.enHost true d })
  | 0x18 => q (fun i => { i with enGroom := setHalf i.enGroom false d })
  | 0x1C => q (fun i => { i with enGroom := setHalf i.enGroom true d })
  | 0x40 => q (fun i => { i with thrHost := fld d 2 0 })
  | 0x44 => q (fun i => { i with thrGroom := fld d 2 0 })
  | 0x48 => some (complete .host d s)
  | 0x4C => some (complete .groom d s)
  | 0x50 => some (effDoorbell d s)
  | 0x300 => some (effTrgLock d s)
  | 0x304 => some (effTrgFire d s)
  | 0x308 => some (effDropCnt d s)
  | _ =>
    if h : 0x20 ≤ off ∧ off < 0x40 then q (fun i => { i with prio := i.prio.set ((off - 0x20) / 4) (d &&& prioMask ((off - 0x20) / 4)) })
    else if h : 0x200 ≤ off ∧ off < 0x300 then
      let r : Fin 32 := ⟨(off - 0x200) / 8, by omega⟩
      if off % 8 = 0 then effRoute r d s else some (effMask r d s)
    else some s

/-- A read of an IRQ or trigger-route register; a read of a claim register claims (R27, R43, R44). -/
def irqRead (off : Nat) (s : State) : W32 × State :=
  let v (w : W32) : W32 × State := (w, s)
  match off with
  | 0x00 => v ((irqPend s).setWidth 32)
  | 0x04 => v (((irqPend s) >>> 32).setWidth 32)
  | 0x10 => v (s.irq.enHost.setWidth 32)
  | 0x14 => v ((s.irq.enHost >>> 32).setWidth 32)
  | 0x18 => v (s.irq.enGroom.setWidth 32)
  | 0x1C => v ((s.irq.enGroom >>> 32).setWidth 32)
  | 0x40 => v (put s.irq.thrHost 0)
  | 0x44 => v (put s.irq.thrGroom 0)
  | 0x48 => claim .host s
  | 0x4C => claim .groom s
  | 0x300 => v (putB s.trg.lock 0)
  | 0x308 => v (put s.trg.dropCnt 0)
  | 0x30C => v (put s.trg.last 0)
  | _ =>
    if h : 0x20 ≤ off ∧ off < 0x40 then v (s.irq.prio[(off - 0x20) / 4]'(by omega))
    else if h : 0x200 ≤ off ∧ off < 0x300 then
      (if off % 8 = 0 then v (s.trg.route[(off - 0x200) / 8]'(by omega)) else v (s.trg.mask[(off - 0x200) / 8]'(by omega)))
    else v 0

/-- A write of a yard register in SYS (R42). -/
def yardWrite (off : Nat) (d : W32) (s : State) : State :=
  match off with
  | 0x800 => effYardCfg d s
  | 0x804 => effYerrStat d s
  | 0x810 => effYerrClr d s
  | _ => s

/-- SYS_YERR_STAT (R39, R42). -/
def yerrStat (y : Yard) : W32 :=
  match y.err with
  | none => 0
  | some e =>
    put 1 31 ||| putB e.ovf 30 ||| put (midNum e.mid) 8 ||| put (kindNum e.kind) 4 ||| putB e.tmo 3 ||| put (respNum e.code) 0

/-- A read of a yard register in SYS (R42); the count outstanding includes the read itself. -/
def yardRead (off : Nat) (s : State) : W32 :=
  match off with
  | 0x800 => s.yard.cfg
  | 0x804 => yerrStat s.yard
  | 0x808 => match s.yard.err with | some e => e.addr | none => 0
  | 0x80C => put s.yard.slverrCnt 24 ||| put s.yard.decerrCnt 16 ||| put s.yard.deadCnt 8 ||| put s.yard.tmoCnt 0
  | 0x814 => put (min s.yard.peak 255) 8 ||| put (min (s.yard.waiting.length + 1) 255) 0
  | _ => 0

/-! ## Commands -/

/-- ALL: every gate is locked (R349). -/
def execAll (m : Mid) (s : State) : Host.Outcome State Fault Refusal :=
  .next (busWrite m .act 0x40010004 0x80000000 (actWrite m 4 0x80000000) s)

/-- ONE: gate GATE is locked (R349). -/
def execOne (m : Mid) (gate : BitVec 5) (s : State) : Host.Outcome State Fault Refusal :=
  .next (busWrite m .act 0x40010004 (put 1 30 ||| gate.setWidth 32) (actWrite m 4 (put 1 30 ||| gate.setWidth 32)) s)

/-- VIOL_CLEAR: a gate's violation capture is cleared (R346). -/
def execViolClear (m : Mid) (g : Fin 25) (s : State) : Host.Outcome State Fault Refusal :=
  let off := 0x80 + g.val * 0x80 + 0x6C
  .next (busWrite m .act (0x40010000 + off) 0x80000000 (actWrite m off 0x80000000) s)

/-- VIOL_CNT_CLR (R356). -/
def execViolCntClr (m : Mid) (s : State) : Host.Outcome State Fault Refusal :=
  .next (busWrite m .act 0x40010010 0x80000000 (actWrite m 0x10 0x80000000) s)

end Sys2Proof.Machine
end

