-- ==== Sys2Proof/Machine/P256.lean ====
section
/-!
DEFINITION. P256: ECDSA verification over P-256 as the PKV, the loader and the boot ROM make it (R51, R244).
-/

namespace Sys2Proof.Machine

open Sys2Proof

/-- The field prime. -/
def ecP : Nat := 0xFFFFFFFF00000001000000000000000000000000FFFFFFFFFFFFFFFFFFFFFFFF

/-- The order of the base point. -/
def ecN : Nat := 0xFFFFFFFF00000000FFFFFFFFFFFFFFFFBCE6FAADA7179E84F3B9CAC2FC632551

/-- The coefficient b. -/
def ecB : Nat := 0x5AC635D8AA3A93E7B3EBBD55769886BC651D06B0CC53B0F63BCE3C3E27D2604B

/-- A point in Jacobian coordinates; z = 0 is the point at infinity. -/
structure EcPt where
  x : Nat
  y : Nat
  z : Nat
  deriving DecidableEq, Repr

/-- The base point. -/
def ecG : EcPt :=
  { x := 0x6B17D1F2E12C4247F8BCE6E563A440F277037D812DEB33A0F4A13945D898C296
    y := 0x4FE342E2FE1A7F9B8EE7EB4A7C0F9E162BCE33576B315ECECBB6406837BF51F5
    z := 1 }

/-- Subtraction modulo the field prime, of reduced numbers. -/
def ecSub (a b : Nat) : Nat := (a + ecP - b) % ecP

/-- A power modulo `m`, over the bits of the exponent from bit `k - 1` down. -/
def powBits (m b e : Nat) : Nat → Nat → Nat
  | 0, r => r
  | k + 1, r => powBits m b e k (if e.testBit k then (r * r % m) * b % m else r * r % m)

/-- The inverse modulo a prime `m` of 256 bits. -/
def invMod (m a : Nat) : Nat := powBits m (a % m) (m - 2) 256 1

/-- A point doubled (a = -3). -/
def ecDouble (q : EcPt) : EcPt :=
  if q.z = 0 ∨ q.y = 0 then { x := 1, y := 1, z := 0 }
  else
    let d := q.z * q.z % ecP
    let g := q.y * q.y % ecP
    let b := q.x * g % ecP
    let al := 3 * ecSub q.x d * ((q.x + d) % ecP) % ecP
    let x := ecSub (al * al % ecP) (8 * b % ecP)
    { x := x
      y := ecSub (al * ecSub (4 * b % ecP) x % ecP) (8 * g * g % ecP)
      z := ecSub (ecSub ((q.y + q.z) * (q.y + q.z) % ecP) g) d }

/-- Two points added. -/
def ecAdd (q r : EcPt) : EcPt :=
  if q.z = 0 then r
  else if r.z = 0 then q
  else
    let zq := q.z * q.z % ecP
    let zr := r.z * r.z % ecP
    let u1 := q.x * zr % ecP
    let u2 := r.x * zq % ecP
    let s1 := q.y * r.z * zr % ecP
    let s2 := r.y * q.z * zq % ecP
    if u1 = u2 then (if s1 = s2 then ecDouble q else { x := 1, y := 1, z := 0 })
    else
      let h := ecSub u2 u1
      let w := ecSub s2 s1
      let hh := h * h % ecP
      let hhh := h * hh % ecP
      let v := u1 * hh % ecP
      let x := ecSub (ecSub (w * w % ecP) hhh) (2 * v % ecP)
      { x := x
        y := ecSub (w * ecSub v x % ecP) (s1 * hhh % ecP)
        z := h * q.z * r.z % ecP }

/-- u·G + v·Q, over the bits of both factors from bit `k - 1` down; `gq` is G + Q. -/
def ecMul2 (u v : Nat) (q gq : EcPt) : Nat → EcPt → EcPt
  | 0, a => a
  | k + 1, a =>
    let d := ecDouble a
    ecMul2 u v q gq k (match u.testBit k, v.testBit k with
      | true, true => ecAdd d gq
      | true, false => ecAdd d ecG
      | false, true => ecAdd d q
      | false, false => d)

/-- Whether a public key is a point of the curve with coordinates below p (R244). -/
def ecKeyOk (x y : Nat) : Bool := x < ecP && y < ecP && (y * y) % ecP == (x * x * x + 3 * (ecP - x) + ecB) % ecP

/-- Whether R and S lie in 1 to n - 1. -/
def ecSigOk (r s : Nat) : Bool := 0 < r && r < ecN && 0 < s && s < ecN

/-- The ECDSA equation, for a good key and a signature in range. -/
def ecHolds (x y e r s : Nat) : Bool :=
  let w := invMod ecN s
  let q : EcPt := { x := x, y := y, z := 1 }
  let t := ecMul2 (e * w % ecN) (r * w % ecN) q (ecAdd ecG q) 256 { x := 1, y := 1, z := 0 }
  if t.z = 0 then false
  else
    let zi := invMod ecP t.z
    (t.x * (zi * zi % ecP) % ecP) % ecN == r

/-- RESULT of a verification (R244): 1 VALID, 2 INVALID, 3 BADKEY, 4 BADSIG. -/
def ecVerify (x y e r s : Nat) : Nat :=
  if !ecKeyOk x y then 3 else if !ecSigOk r s then 4 else if ecHolds x y e r s then 1 else 2

end Sys2Proof.Machine
end

