-- ==== Sys2Proof/Machine/Sha256.lean ====
section
/-!
DEFINITION. Sha256: SHA-256 and HMAC, as the loader, the firmware check and unit HX use them (R51, R229, R384).
-/

namespace Sys2Proof.Machine

open Sys2Proof

/-- The round constants, in eight rows. -/
def shaK : List W32 :=
  [0x428A2F98, 0x71374491, 0xB5C0FBCF, 0xE9B5DBA5, 0x3956C25B, 0x59F111F1, 0x923F82A4, 0xAB1C5ED5] ++
  [0xD807AA98, 0x12835B01, 0x243185BE, 0x550C7DC3, 0x72BE5D74, 0x80DEB1FE, 0x9BDC06A7, 0xC19BF174] ++
  [0xE49B69C1, 0xEFBE4786, 0x0FC19DC6, 0x240CA1CC, 0x2DE92C6F, 0x4A7484AA, 0x5CB0A9DC, 0x76F988DA] ++
  [0x983E5152, 0xA831C66D, 0xB00327C8, 0xBF597FC7, 0xC6E00BF3, 0xD5A79147, 0x06CA6351, 0x14292967] ++
  [0x27B70A85, 0x2E1B2138, 0x4D2C6DFC, 0x53380D13, 0x650A7354, 0x766A0ABB, 0x81C2C92E, 0x92722C85] ++
  [0xA2BFE8A1, 0xA81A664B, 0xC24B8B70, 0xC76C51A3, 0xD192E819, 0xD6990624, 0xF40E3585, 0x106AA070] ++
  [0x19A4C116, 0x1E376C08, 0x2748774C, 0x34B0BCB5, 0x391C0CB3, 0x4ED8AA4A, 0x5B9CCA4F, 0x682E6FF3] ++
  [0x748F82EE, 0x78A5636F, 0x84C87814, 0x8CC70208, 0x90BEFFFA, 0xA4506CEB, 0xBEF9A3F7, 0xC67178F2]

/-- The eight chaining words. -/
structure ShaSt where
  a : W32 := 0x6A09E667
  b : W32 := 0xBB67AE85
  c : W32 := 0x3C6EF372
  d : W32 := 0xA54FF53A
  e : W32 := 0x510E527F
  f : W32 := 0x9B05688C
  g : W32 := 0x1F83D9AB
  h : W32 := 0x5BE0CD19
  deriving DecidableEq, Repr

/-- The next word of the message schedule, from the words so far, latest first. -/
def shaNext (r : List W32) : W32 :=
  let w (i : Nat) : W32 := (r[i]?).getD 0
  let s0 := (w 14).rotateRight 7 ^^^ (w 14).rotateRight 18 ^^^ (w 14) >>> 3
  let s1 := (w 1).rotateRight 17 ^^^ (w 1).rotateRight 19 ^^^ (w 1) >>> 10
  s1 + w 6 + s0 + w 15

/-- The message schedule extended by `n` words. -/
def shaExtend : Nat → List W32 → List W32
  | 0, r => r
  | n + 1, r => shaExtend n (shaNext r :: r)

/-- One round. -/
def shaRound (x : ShaSt) (k w : W32) : ShaSt :=
  let s1 := x.e.rotateRight 6 ^^^ x.e.rotateRight 11 ^^^ x.e.rotateRight 25
  let ch := (x.e &&& x.f) ^^^ (~~~ x.e &&& x.g)
  let t1 := x.h + s1 + ch + k + w
  let s0 := x.a.rotateRight 2 ^^^ x.a.rotateRight 13 ^^^ x.a.rotateRight 22
  let mj := (x.a &&& x.b) ^^^ (x.a &&& x.c) ^^^ (x.b &&& x.c)
  { a := t1 + (s0 + mj), b := x.a, c := x.b, d := x.c, e := x.d + t1, f := x.e, g := x.f, h := x.g }

/-- The rounds over a schedule. -/
def shaRounds : List W32 → List W32 → ShaSt → ShaSt
  | k :: ks, w :: ws, x => shaRounds ks ws (shaRound x k w)
  | _, _, x => x

/-- The big-endian words of a list of bytes. -/
def beWords : List Byte → List W32
  | a :: b :: c :: d :: t => (a ++ b ++ c ++ d) :: beWords t
  | _ => []

/-- One 64-byte block taken in. -/
def shaBlock (x : ShaSt) (l : List Byte) : ShaSt :=
  let y := shaRounds shaK (shaExtend 48 (beWords l).reverse).reverse x
  { a := x.a + y.a, b := x.b + y.b, c := x.c + y.c, d := x.d + y.d
    e := x.e + y.e, f := x.f + y.f, g := x.g + y.g, h := x.h + y.h }

/-- `n` blocks taken in. -/
def shaBlocks : Nat → List Byte → ShaSt → ShaSt
  | 0, _, x => x
  | n + 1, l, x => shaBlocks n (l.drop 64) (shaBlock x (l.take 64))

/-- The message with its padding. -/
def shaPad (l : List Byte) : List Byte :=
  l ++ [0x80] ++ List.replicate ((119 - l.length % 64) % 64) 0 ++ beBytes 8 (8 * l.length)

/-- The chaining words as bytes. -/
def shaBytes (x : ShaSt) : List Byte :=
  ([x.a, x.b, x.c, x.d, x.e, x.f, x.g, x.h]).flatMap (fun w => beBytes 4 w.toNat)

/-- SHA-256. -/
def sha256 (l : List Byte) : List Byte :=
  let p := shaPad l
  shaBytes (shaBlocks (p.length / 64) p {})

/-- A key made a block of HMAC. -/
def hmacKey (k : List Byte) : List Byte :=
  let k := if 64 < k.length then sha256 k else k
  k ++ List.replicate (64 - k.length) 0

/-- HMAC-SHA-256. -/
def hmac256 (k m : List Byte) : List Byte :=
  let b := hmacKey k
  sha256 (b.map (· ^^^ 0x5C) ++ sha256 (b.map (· ^^^ 0x36) ++ m))

end Sys2Proof.Machine
end

