-- ==== Sys2Proof/Machine/Image.lean ====
section
/-!
DEFINITION. Image: the format of Lyngo images and the fifteen checks of the loader's first pass (R45 to R57, R205, R206).
-/

namespace Sys2Proof.Machine

open Sys2Proof

/-- A check that fails with a status code and an image offset (R73). -/
abbrev Chk (α : Type) := Except (Nat × Nat) α

/-- A condition that fails with a code at an offset. -/
def need (b : Bool) (code off : Nat) : Chk Unit := if b then .ok () else .error (code, off)

/-- A slice of bytes. -/
def slice (l : List Byte) (off n : Nat) : List Byte := (l.drop off).take n

/-- Little-endian fields of an image (R45). -/
def u8 (l : List Byte) (o : Nat) : Nat := leNat (slice l o 1)

/-- A 2-byte field. -/
def u16 (l : List Byte) (o : Nat) : Nat := leNat (slice l o 2)

/-- A 4-byte field. -/
def u32 (l : List Byte) (o : Nat) : Nat := leNat (slice l o 4)

/-- The offset of the first non-zero byte of a range, if any. -/
def firstNonZero (l : List Byte) (lo hi : Nat) : Option Nat :=
  ((List.range (hi - lo)).map (· + lo)).find? (fun i => u8 l i != 0)

/-- A range that must be zero. -/
def needZero (l : List Byte) (lo hi code base : Nat) : Chk Unit :=
  match firstNonZero l lo hi with
  | some i => .error (code, base + i)
  | none => .ok ()

/-! ## Steps 1 to 8: the header (R46, R57) -/

/-- What the header's checks are made against. -/
structure ImgCtx where
  base   : Bool
  pdk    : Nat
  baseId : Nat
  avail  : Nat

/-- The length limit of a kind. -/
def imgLimit (base : Bool) : Nat := if base then 98304 else 24576

/-- Steps 1 to 8 on the 64 header bytes. -/
def chkHeader (c : ImgCtx) (l : List Byte) : Chk Unit := do
  need (u32 l 0 = 0x474E594C) 0x10 0
  need (u16 l 4 = 1) 0x11 4
  need (u16 l 6 = 0x40) 0x11 6
  needZero l 0x20 0x3C 0x11 0
  let n := u32 l 8
  need (n % 4 = 0 && 64 + 16 * u8 l 0x0E + 4 + 128 ≤ n && n ≤ imgLimit c.base && n ≤ c.avail) 0x12 8
  need (crc32 (l.take 0x3C) = u32 l 0x3C) 0x13 0x3C
  need (u32 l 0x10 = 0x32334B42) 0x14 0x10
  need (u8 l 0x0C = if c.base then 1 else 2) 0x15 0x0C
  need (u8 l 0x0D = if c.base then 0xFF else c.pdk) 0x16 0x0D
  need (if c.base then u32 l 0x14 != 0 else u32 l 0x14 = c.baseId) 0x17 0x14

/-! ## Steps 9 and 10: key and signature (R51) -/

/-- Whether an OTP slot admits a public key: ACTIVE, with the key's hash (R51, R395). -/
def keyAdmits (otp : Vector OtpKey 4) (slot : Nat) (hash : List Byte) : Bool :=
  if h : slot < 4 then otp[slot].active && !otp[slot].revoke && otp[slot].hash == hash else false

/-- The public key of an image of `n` bytes. -/
def imgKey (l : List Byte) (n : Nat) : List Byte := slice l (n - 128) 64

/-- The digest over the signed range. -/
def imgDigest (l : List Byte) (n : Nat) : List Byte := sha256 (l.take (n - 64))

/-- RESULT of the signature's verification. -/
def imgVerify (l : List Byte) (n : Nat) : Nat :=
  let f (o : Nat) : Nat := beNat (slice l (n - 128 + o) 32)
  ecVerify (f 0) (f 32) (beNat (imgDigest l n)) (f 64) (f 96)

/-! ## Steps 11 to 15: sections (R47 to R49, R52 to R56) -/

/-- Step 11: the table entries from entry `i`, whose body starts at `pos`; `prev` is the entry before, as TYPE and PADDOCK. SECT_COUNT
has no check of its own, and reserved bytes of an entry that are not zero are an error of the table (the model's choice, log 81). -/
def chkEntries (l : List Byte) (last : Nat) : Nat → Nat → Nat → Option (Nat × Nat) → Chk (List Sect)
  | 0, i, pos, _ =>
    if pos = last then .ok [] else .error (0x30, if i = 0 then 0 else 64 + 16 * (i - 1))
  | k + 1, i, pos, prev => do
    let e := 64 + 16 * i
    let t := u8 l e
    let p := u8 l (e + 1)
    let len := u32 l (e + 8)
    let up := match prev with
      | none => true
      | some q => q.1 < t || (q.1 = t && q.2 < p)
    need (up && u16 l (e + 2) = 0 && u32 l (e + 4) = pos && len != 0 && len % 4 = 0) 0x30 e
    let r ← chkEntries l last k (i + 1) (pos + len) (some (t, p))
    .ok ({ type := t, pdk := p, entry := e, off := pos, len := len, crc := u32 l (e + 12), items := [] } :: r)

/-- Whether a section type belongs to a paddock. -/
def pdkType (t : Nat) : Bool := t = 7 || t = 8

/-- Step 12: the types, counts and PADDOCK values of R49. -/
def chkTypes (base : Bool) (pdk : Nat) (ss : List Sect) : Chk Unit := do
  let bad (s : Sect) : Bool :=
    if base then !(1 ≤ s.type && s.type ≤ 9 && (if pdkType s.type then s.pdk ≤ 7 else s.pdk = 0xFF))
    else !(pdkType s.type && s.pdk = pdk)
  match ss.find? bad with
  | some s => .error (0x31, s.entry)
  | none => need (ss.any (fun s => s.type = if base then 1 else 8)) 0x31 0

/-- The allowed windows of a write-record section, inclusive (R52). -/
def windowsOf (t : Nat) : List (Nat × Nat) :=
  match t with
  | 2 => [(0x40004000, 0x40004FFF)]
  | 3 => [(0x40030000, 0x40030FFF)]
  | 4 => [(0x40140000, 0x40140FFF)]
  | 6 => [(0x40060200, 0x40060303), (0x40000800, 0x40000803)]
  | 9 => [(0x40010000, 0x40010FFF)]
  | _ => []

/-- Write records (R52); `base` is the body's image offset. -/
def chkRecords (b : List Byte) (base : Nat) : Nat → Nat → Chk (List Item)
  | 0, _ => .ok []
  | fuel + 1, pos => do
    if pos = b.length then .ok []
    else
      let a := u32 b pos
      let n := u16 b (pos + 4)
      need (pos + 8 ≤ b.length && u16 b (pos + 6) = 0 && 1 ≤ n && n ≤ 1024 && a % 4 = 0 && pos + 8 + 4 * n ≤ b.length)
        0x33 (base + pos)
      let r ← chkRecords b base fuel (pos + 8 + 4 * n)
      .ok ({ rel := pos, addr := a, count := n, vals := pos + 8 } :: r)

/-- Frame records of paddock `p` (R56). -/
def chkFrameRecs (b : List Byte) (base p : Nat) : Nat → Nat → Chk (List Item)
  | 0, pos => do
    need (pos = b.length) 0x33 (base + pos)
    .ok []
  | k + 1, pos => do
    let o := u16 b pos
    let w := u8 b (pos + 2)
    let n := u8 b (pos + 3)
    need (pos + 4 ≤ b.length && o % 4 = 0 && w ≤ 4 && 1 ≤ n && n ≤ 128 && o + 4 * n ≤ (if w < 4 then 0x200 else 0x100)
      && pos + 4 + 4 * n ≤ b.length) 0x33 (base + pos)
    let r ← chkFrameRecs b base p k (pos + 4 + 4 * n)
    let at0 := if w < 4 then 0x40101000 + (4 * p + w) * 0x200 else 0x40108000 + p * 0x100
    .ok ({ rel := pos, addr := at0 + o, count := n, vals := pos + 4 } :: r)

/-- A FRAME body (R56); reserved bytes of its header that are not zero are an error (the model's choice, log 81). -/
def chkFrame (b : List Byte) (base p : Nat) : Chk (List Item) := do
  need (u16 b 0 != 0 && u16 b 2 = 0) 0x33 base
  chkFrameRecs b base p (u16 b 0) 4

/-- LUT entries (R55); reserved bytes that are not zero are an error (the model's choice, log 81). -/
def chkLut (b : List Byte) (base : Nat) : Nat → Nat → Chk (List Item)
  | 0, pos => do
    need (pos = b.length) 0x33 (base + pos)
    .ok []
  | k + 1, pos => do
    need (u16 b (pos + 2) = 0 && u16 b (pos + 70) = 0) 0x33 (base + pos)
    let r ← chkLut b base k (pos + 72)
    .ok ({ rel := pos, addr := u16 b pos, count := 33, vals := pos + 4 } :: r)

/-- The HEADER body with its field ranges (R53). -/
def chkHeaderBody (b : List Byte) (base : Nat) : Chk Unit := do
  need (b.length = 32) 0x33 base
  need (u8 b 0 ≤ 31) 0x33 base
  need (u8 b 1 ≤ 1) 0x33 (base + 1)
  need (1 ≤ u16 b 4 && u16 b 4 ≤ 500) 0x33 (base + 4)
  needZero b 6 8 0x33 base
  needZero b 0x18 0x20 0x33 base

/-! ## The regulatory profile (R205, R206) -/

/-- A field of a sub-band that its MODE does not use must be zero, one that it uses must meet its range. -/
def subField (used : Bool) (v : Nat) (ok : Bool) (off : Nat) : Chk Unit := need (if used then ok else v = 0) 0x33 off

/-- One sub-band in use. -/
def chkSub (b : List Byte) (o base : Nat) : Chk Unit := do
  let m := u8 b (o + 8)
  let pm := (BitVec.ofNat 8 (u8 b (o + 9))).toInt
  let duty := m = 1
  let dwell := m = 2
  need (779000000 ≤ u32 b o) 0x33 (base + o)
  need (u32 b o ≤ u32 b (o + 4) && u32 b (o + 4) ≤ 960000000) 0x33 (base + o + 4)
  need (m ≤ 3) 0x33 (base + o + 8)
  subField (m != 0) (u8 b (o + 9)) (-40 ≤ pm && pm ≤ 32) (base + o + 9)
  subField (m != 0) (u16 b (o + 10)) true (base + o + 10)
  subField duty (u32 b (o + 12)) (1000 ≤ u32 b (o + 12) && u32 b (o + 12) ≤ 3600000) (base + o + 12)
  subField duty (u32 b (o + 16)) (1 ≤ u32 b (o + 16) && u32 b (o + 16) ≤ 1000000) (base + o + 16)
  subField dwell (u32 b (o + 20)) (1000 ≤ u32 b (o + 20) && u32 b (o + 20) ≤ 60000) (base + o + 20)
  subField dwell (u32 b (o + 24)) (u32 b (o + 24) ≤ u32 b (o + 20) * 1000) (base + o + 24)
  needZero b (o + 28) (o + 32) 0x33 base

/-- A list of checks in order. -/
def allOk : List (Chk Unit) → Chk Unit
  | [] => .ok ()
  | c :: t => do
    c
    allOk t

/-- Whether a frequency lies inside a DWELL sub-band of a profile. -/
def inDwell (b : List Byte) (f : Nat) : Bool :=
  (List.range (u8 b 2)).any (fun s =>
    let o := 0x10 + 32 * s
    u8 b (o + 8) = 2 && u32 b o ≤ f && f ≤ u32 b (o + 4))

/-- The REGPROFILE body (R206). -/
def chkProfile (b : List Byte) (base : Nat) : Chk Unit := do
  need (b.length = 784) 0x33 base
  need (u8 b 2 ≤ 8) 0x33 (base + 2)
  need (u8 b 3 ≤ 128) 0x33 (base + 3)
  need (u16 b 4 ≤ 500) 0x33 (base + 4)
  needZero b 6 8 0x33 base
  needZero b 0x0C 0x10 0x33 base
  allOk ((List.range 8).map (fun s =>
    let o := 0x10 + 32 * s
    if s < u8 b 2 then chkSub b o base else needZero b o (o + 32) 0x33 base))
  allOk ((List.range 128).map (fun h =>
    let o := 0x110 + 4 * h
    if h < u8 b 3 then need (inDwell b (u32 b o)) 0x33 (base + o) else need (u32 b o = 0) 0x33 (base + o)))

/-! ## The whole first pass -/

/-- The body of a section. -/
def bodyOf (l : List Byte) (s : Sect) : List Byte := slice l s.off s.len

/-- Step 14 for one section: its records. -/
def chkBody (l : List Byte) (s : Sect) : Chk Sect := do
  let b := bodyOf l s
  match s.type with
  | 1 =>
    chkHeaderBody b s.off
    .ok s
  | 5 =>
    chkProfile b s.off
    .ok { s with items := [{ rel := 0, addr := 0x40210400, count := 196, vals := 0 }] }
  | 7 =>
    let i ← chkLut b s.off (b.length / 72) 0
    .ok { s with items := i }
  | 8 =>
    let i ← chkFrame b s.off s.pdk
    .ok { s with items := i }
  | _ =>
    let i ← chkRecords b s.off (b.length + 1) 0
    .ok { s with items := i }

/-- Step 14 for every section. -/
def chkBodies (l : List Byte) : List Sect → Chk (List Sect)
  | [] => .ok []
  | s :: t => do
    let a ← chkBody l s
    let r ← chkBodies l t
    .ok (a :: r)

/-- Whether a record's target lies in its section's windows or owned tables (step 15). -/
def itemOk (s : Sect) (i : Item) : Bool :=
  match s.type with
  | 7 => 64 * s.pdk ≤ i.addr && i.addr < 64 * s.pdk + 64
  | 5 | 8 => true
  | t => (windowsOf t).any (fun w => w.1 ≤ i.addr && i.addr + 4 * i.count ≤ w.2 + 1)

/-- Step 15. -/
def chkRange (ss : List Sect) : Chk Unit :=
  match (ss.flatMap (fun s => (s.items.filter (fun i => !itemOk s i)).map (fun i => s.off + i.rel))).head? with
  | some o => .error (0x34, o)
  | none => .ok ()

/-- Steps 11 to 15 on an image whose header passed. -/
def chkSections (base : Bool) (pdk : Nat) (l : List Byte) : Chk (List Sect) := do
  let n := u8 l 0x0E
  let ss ← chkEntries l (u32 l 8 - 128) n 0 (64 + 16 * n) none
  chkTypes base pdk ss
  match ss.find? (fun s => crc32 (bodyOf l s) != s.crc) with
  | some s => .error (0x32, s.entry)
  | none =>
    let r ← chkBodies l ss
    chkRange r
    .ok r

/-- The outcome of a check as a code and an offset; zero is a pass. -/
def codeOf {α : Type} : Chk α → Nat × Nat
  | .ok _ => (0, 0)
  | .error e => e

end Sys2Proof.Machine
end

