-- ==== Sys2Proof/Machine/Operands.lean ====
section
/-!
DEFINITION. Operands: the sense bus, from which lanes, models, publications and probes take their values (R77, R78, R105).
-/

namespace Sys2Proof.Machine

open Sys2Proof

/-- A saturated Q2.22 result of board scaling: `x` in 2^-s, gain and offset in Q2.22 (R82, R87). -/
def scaled (x : Int) (sh : Nat) (gain ofs : W32) : Int := rhaDiv (x * s24 gain + s24 ofs * 2 ^ sh) (2 ^ sh)

/-- The sense bus value of an auxiliary input (R87). -/
def auxValue (a : Aux) : BitVec 24 := BitVec.ofInt 24 <| satS 24 (scaled a.data 24 a.bgain a.bofs)

/-- The current a daylight code means, in fA (R92). -/
def dayCode (c : Nat) : Nat := (c % 4096) * 4096 * 4 ^ (c / 4096 % 16)

/-- The full scale of a daylight channel in fA; zero acts as the smallest non-zero code (R103). -/
def dayFull (d : Day) : Nat := if dayCode (fld d.fs 15 0) = 0 then 4096 else dayCode (fld d.fs 15 0)

/-- A daylight result in fA (R90). -/
def dayCurrent (d : Day) : Nat := d.mant * 4 ^ d.exp

/-- The sense bus value of a daylight channel (R92). -/
def dayValue (d : Day) : BitVec 24 := BitVec.ofInt 24 <| satS 24 (rhaDiv ((dayCurrent d * 2 ^ 22 : Nat) : Int) (dayFull d))

/-- Whether a code names nothing on the sense bus: the reserved codes (R77, R105). -/
def codeReserved (c : Nat) : Bool := (0x2D ≤ c && c < 0x30) || (0x80 ≤ c && c < 0xFF)

/-- The map index of the block that a sense bus code belongs to (R411). -/
def codeBlock (c : Nat) : Nat :=
  if c < 32 then 32 + c / 4
  else if c < 0x28 then 44
  else if c < 0x2A then 46
  else if c = 0x2A then 43
  else if c < 0x2D then 45
  else if c < 0x40 then 57
  else if c < 0x60 then 32 + (c - 0x40) / 4
  else 32 + (c - 0x60) / 4

/-- The value last published at a sense bus code, as a Q2.22 integer (R77, R105). -/
def senseVal (s : State) (c : Nat) : Int :=
  if h : c < 32 then (s.sns.cs[c]).val.toInt
  else if h : 0x20 ≤ c ∧ c < 0x28 then (s.sns.aux[c - 0x20]'(by omega)).pub.toInt
  else if h : 0x28 ≤ c ∧ c < 0x2A then (s.sns.day[c - 0x28]'(by omega)).pub.toInt
  else if c = 0x2A then satS 24 (s.sns.tempData.toInt * 512)
  else if h : 0x2B ≤ c ∧ c < 0x2D then (s.sns.pir[c - 0x2B]'(by omega)).val.toInt
  else if h : 0x30 ≤ c ∧ c < 0x40 then (s.zlk.rv[c - 0x30]'(by omega)).val.toInt
  else if h : 0x40 ≤ c ∧ c < 0x60 then (s.stl[c - 0x40]'(by omega)).cmd.toInt
  else if h : 0x60 ≤ c ∧ c < 0x80 then (s.stl[c - 0x60]'(by omega)).spr.toInt
  else 0

/-- A value of the sense bus: zero for a reserved code, and for one of an unusable block (R411). -/
def senseBus (s : State) (c : Nat) : Int :=
  if c < 0x80 && !unusable s (codeBlock c) then senseVal s c else 0

/-- Whether a value of the sense bus is a stale remote value (R128, R265). -/
def senseStale (s : State) (c : Nat) : Bool :=
  if h : 0x30 ≤ c ∧ c < 0x40 then (s.zlk.rv[c - 0x30]'(by omega)).stale else false

/-- A value published at a code within 2 ms of an OC or SHORT_RAMP fault is compared with VSHORT in every stall whose VSEL
names it, both as FAULT was entered; a lower one adds SHORT_OUT to CAUSES (R150, log 30). -/
def published (c : Nat) (s : State) : State :=
  { s with stl := (idx 32).foldl (fun v n => upd v n (fun t =>
      if t.shortCyc != 0 && t.shortSel = c && senseBus s c < t.shortTh then
        { t with causes := t.causes ||| (1#9 <<< 3) }
      else t)) s.stl }

end Sys2Proof.Machine
end

