-- ==== Sys2Proof/Machine/Sensing.lean ====
section
/-!
DEFINITION. Sensing: ADC lanes and their calibration, auxiliary inputs, PIR and daylight channels, die temperature, and the
SNS registers (R76 to R103).
-/

namespace Sys2Proof.Machine

open Sys2Proof

/-- The sensing block updated. -/
def updSns (s : State) (f : Sns → Sns) : State := { s with sns := f s.sns }

/-- A bit of SNS_EVT set. -/
def snsEvt (i : Nat) (n : Sns) : Sns := { n with evt := withBit n.evt i true }

/-- Whether the sensing front ends run: the SENSE domain is on and the block usable (R96, R304). -/
def snsOn (s : State) : Bool := domReady s .sense && !unusable s 43

/-- The ADC lane of a stall (R76). -/
def laneOf (n : Fin 32) : Fin 16 := ⟨n.val / 2, by omega⟩

/-- The stall of a slot of a lane: A serves 2k, B serves 2k + 1 (R76). -/
def slotStall (k : Fin 16) (b : Bool) : Fin 32 := ⟨2 * k.val + (if b then 1 else 0), by split <;> omega⟩

/-- The paddock of a lane (R76). -/
def lanePdk (k : Fin 16) : Fin 8 := ⟨k.val / 2, by omega⟩

/-- Whether a slot of a lane uses range 1, ±100 mV (R80). -/
def slotRange (l : Adl) (b : Bool) : Bool := bit l.cfg (if b then 1 else 0)

/-- The estimates of a range. -/
def rangeCal (l : Adl) (r : Bool) : RangeCal := if r then l.r1 else l.r0

/-- The estimates of a range replaced. -/
def setRangeCal (l : Adl) (r : Bool) (c : RangeCal) : Adl := if r then { l with r1 := c } else { l with r0 := c }

/-- Whether a lane converts: enabled, calibrated, in a usable paddock (R79, R101, R102). -/
def laneOn (s : State) (k : Fin 16) : Bool :=
  snsOn s && s.sns.adlEn.getLsbD k.val && (s.sns.adl[k]).rdy && !unusable s (32 + (lanePdk k).val)

/-- PERIOD of a stall, in ticks (R117). -/
def periodOf (t : Stall) : Nat := fld t.timing 7 0

/-- Whether a stall samples in a tick (R117). -/
def sampleTick (t : Stall) (tick : Nat) : Bool :=
  (((tick : Int) - (fld t.timing 23 16 : Nat)) % (periodOf t : Nat) : Int) = 0

/-- Whether a stall's conversions are averaged: AVG of its slot with a period of two ticks or more (R81). -/
def averaged (s : State) (n : Fin 32) : Bool :=
  bit (s.sns.adl[laneOf n]).cfg (if n.val % 2 = 1 then 5 else 4) && 2 ≤ periodOf s.stl[n]

/-! ## Conversions (R79 to R82, R98) -/

/-- The limit of the modulator, 1.25 of range in 2^-30 (R98). -/
def rawMax : Int := 1342177280

/-- Whether a raw conversion lies beyond the modulator's limit. -/
def rawBeyond (raw : Int) : Bool := raw < -rawMax || rawMax < raw

/-- The exact corrected and scaled conversion, in 2^-82 (R82). -/
def convert (l : Adl) (b : Bool) (c : Cs) (raw : Int) : Int :=
  let e := rangeCal l (slotRange l b)
  (clampI (-rawMax) rawMax raw - e.ofs) * e.gain * s24 c.bgain + s24 c.bofs * 2 ^ 60

/-- An exact conversion rounded to Q2.22, before saturation. -/
def convRound (y : Int) (d : Nat) : Int := rhaDiv y (2 ^ 60 * d)

/-- The flags and counts of an over-range conversion or a saturated result (R98). -/
def adcOver (k : Fin 16) (b : Bool) (n : Sns) : Sns :=
  snsEvt 0 { n with adl := upd n.adl k (fun l =>
    { l with
      ovrCnt := satInc l.ovrCnt 255
      ovrA := l.ovrA || !b
      ovrB := l.ovrB || b }) }

/-- CS_n is published: value, VALID, SUBST and OVR; a saturated result counts as R98 says, unless the conversion it comes from
has counted (`own`). -/
def publishCs (n : Fin 32) (v : Int) (subst beyond own : Bool) (s : State) : State :=
  let s := if overS 24 v && !own then updSns s (adcOver (laneOf n) (n.val % 2 = 1)) else s
  let s := updSns s (fun q => { q with cs := upd q.cs n (fun c =>
    { c with valid := true, subst := subst, ovr := beyond || overS 24 v, val := BitVec.ofInt 24 (satS 24 v), now := true
             sum := 0, cnt := 0, beyond := false }) })
  published n.val s

/-- A conversion joins the stall's two previous ones and, when averaged, its sum. -/
def noteConv (n : Fin 32) (y : Int) (avg beyond : Bool) (s : State) : State :=
  updSns s (fun q => { q with cs := upd q.cs n (fun c =>
    { c with
      x2 := c.x1, x1 := some y
      sum := if avg then c.sum + y else 0
      cnt := if avg then c.cnt + 1 else 0
      beyond := c.beyond || beyond }) })

/-- The substitute 2·x1 − x2 of R85. -/
def substitute (c : Cs) : Int :=
  match c.x1, c.x2 with
  | some a, some b => 2 * a - b
  | some a, none => a
  | none, _ => 0

/-- ADC_RESULT: a slot conversion of stall `n` in a tick (R79, R81, R82, R98). -/
def execAdcResult (n : Fin 32) (tick : W32) (raw : BitVec 32) (s : State) : Host.Outcome State Fault Refusal :=
  .next (if !laneOn s (laneOf n) then s
    else
      let b := n.val % 2 = 1
      let beyond := rawBeyond raw.toInt
      let avg := averaged s n
      let y := convert s.sns.adl[laneOf n] b s.sns.cs[n] raw.toInt
      let t := if beyond then updSns s (adcOver (laneOf n) b) else s
      let t := noteConv n y avg beyond t
      let c := t.sns.cs[n]
      if !avg then publishCs n (convRound y 1) false beyond beyond t
      else if sampleTick s.stl[n] tick.toNat then publishCs n (convRound c.sum c.cnt) false c.beyond beyond t
      else t)

/-! ## Calibration (R83 to R85, R99, R102) -/

/-- Whether a reference conversion lies within 2 % of range of its expected value; `ref` is 0 for +0.8, 1 for −0.8, 2 for
zero (R83, R84). -/
def refOk (ref : Nat) (raw : Int) : Bool :=
  let e : Int := if ref = 0 then 40 else if ref = 1 then -40 else 0
  (50 * raw - e * 1073741824).natAbs ≤ 1073741824

/-- gain_est from the reference estimates and the VREF factor (R84). -/
def gainOf (tf rp rn : Int) : Int := rhaDiv (8 * tf * 1073741824) (5 * (rp - rn)).toNat

/-- A 1/16 step of an estimate (R84). -/
def step16 (e raw : Int) : Int := e + rhaDiv (raw - e) 16

/-- The estimates after a reference conversion (R84). -/
def refUpdate (tf : Int) (ref : Nat) (raw : Int) (c : RangeCal) : RangeCal :=
  let c := if ref = 0 then { c with rp := step16 c.rp raw }
    else if ref = 1 then { c with rn := step16 c.rn raw } else { c with ofs := step16 c.ofs raw }
  { c with gain := gainOf tf c.rp c.rn }

/-- A discarded reference conversion: counted, and CAL_FAIL after 8 in succession (R84, R99). -/
def calDiscard (k : Fin 16) (n : Sns) : Sns :=
  let l := n.adl[k]
  let d := l.discards + 1
  let n := { n with adl := n.adl.set k.val ({ l with
    calErr := satInc l.calErr 255, discards := d, calFail := l.calFail || 8 ≤ d }) }
  if 8 ≤ d && !l.calFail then snsEvt 1 n else n

/-- The use of a reference conversion: none while VREF is bad; an estimate update, or a discard (R84, R99, R100). -/
def useReference (k : Fin 16) (b : Bool) (ref : Nat) (raw : Int) (n : Sns) : Sns :=
  let l := n.adl[k]
  if !n.vrefOk then n
  else if !refOk ref raw then calDiscard k n
  else if l.calFail then n
  else
    let r := slotRange l b
    let l := { setRangeCal l r (refUpdate n.tFactor ref raw (rangeCal l r)) with discards := 0 }
    { n with adl := n.adl.set k.val l }

/-- CAL_REFERENCE: the lane's reference slot of this tick; its stall gets the mean of the rest, or the substitute (R83, R84,
R85). -/
def execCalReference (k : Fin 16) (tick : W32) (raw : BitVec 32) (s : State) : Host.Outcome State Fault Refusal :=
  .next (if !(laneOn s k && bit s.sns.ctrl 0 && tick.toNat % 512 = 32 * k.val) then s
    else
      let l := s.sns.adl[k]
      let b := l.seq % 2 = 1
      let n := slotStall k b
      let t := updSns s (fun q =>
        let q := useReference k b (l.seq % 3) raw.toInt q
        { q with adl := upd q.adl k (fun l => { l with seq := (l.seq + 1) % 6 }) })
      let c := s.sns.cs[n]
      if averaged s n then
        (if !sampleTick s.stl[n] tick.toNat then t
         else if c.cnt = 0 then publishCs n (convRound (substitute c) 1) true c.beyond false t
         else publishCs n (convRound c.sum c.cnt) false c.beyond false t)
      else publishCs n (convRound (substitute c) 1) true false false t)

/-- The mean of the accepted conversions of a reference; none accepted leaves the estimate. -/
def refMean (old : Int) (l : List (BitVec 32)) (ref : Nat) : Int :=
  let a := (l.map BitVec.toInt).filter (refOk ref)
  if a.isEmpty then old else rhaDiv a.sum a.length

/-- A start-up calibration run's conversions with their references, in the order taken. -/
def runConvs (r : CalRun) : List (Nat × Int) :=
  r.zero.map (fun x => (2, x.toInt)) ++ r.plus.map (fun x => (0, x.toInt)) ++ r.minus.map (fun x => (1, x.toInt))

/-- The estimates of a range from its start-up run (R102). -/
def startCal (tf : Int) (r : CalRun) (c : RangeCal) : RangeCal :=
  let rp := refMean c.rp r.plus 0
  let rn := refMean c.rn r.minus 1
  { gain := gainOf tf rp rn, ofs := refMean c.ofs r.zero 2, rp := rp, rn := rn, done := true }

/-- The run of one range of a lane: every conversion tested, then the means taken (R102). -/
def calRange (k : Fin 16) (r : Bool) (run : CalRun) (n : Sns) : Sns :=
  let n := (runConvs run).foldl (fun n x =>
    if refOk x.1 x.2 then { n with adl := upd n.adl k (fun l => { l with discards := 0 }) } else calDiscard k n) n
  { n with adl := upd n.adl k (fun l => setRangeCal l r (startCal n.tFactor run (rangeCal l r))) }

/-- Whether a slot of a lane selects a range. -/
def selects (l : Adl) (r : Bool) : Bool := slotRange l false = r || slotRange l true = r

/-- Whether a range of a lane is to be calibrated: selected and not yet done (R102). -/
def calNeeded (l : Adl) (r : Bool) : Bool := selects l r && !(rangeCal l r).done

/-- LANE_RDY: start-up calibration of the ranges a lane needs ends (R102). While VREF is bad the estimates stay frozen and no
conversion counts (R100); such a range is calibrated at the next occasion (log 69). -/
def execLaneRdy (k : Fin 16) (r0 r1 : CalRun) (s : State) : Host.Outcome State Fault Refusal :=
  .next (let l := s.sns.adl[k]
    if !(snsOn s && s.sns.adlEn.getLsbD k.val && l.calRun && !unusable s (32 + (lanePdk k).val)) then s
    else updSns s (fun n =>
      let n := if calNeeded l false && n.vrefOk then calRange k false r0 n else n
      let n := if calNeeded l true && n.vrefOk then calRange k true r1 n else n
      { n with
        adl := upd n.adl k (fun l => { l with rdy := true, calRun := false, seq := 0 })
        cs := upd (upd n.cs (slotStall k false) csForget) (slotStall k true) csForget }))

/-- SNS_ADL_EN: a lane newly enabled runs start-up calibration and leaves CAL_FAIL; one disabled stops (R99, R102). -/
def effAdlEn (d : W32) (s : State) : State :=
  updSns s (fun n => { n with
    adlEn := d.setWidth 16
    adl := (idx 16).foldl (fun v k => upd v k (fun l =>
      if bit d k.val && !n.adlEn.getLsbD k.val then { adlRestart true l with calFail := false }
      else if bit d k.val then l
      else { l with rdy := false, calRun := false })) n.adl })

/-- Whether a paddock is LIVE or PARKING, which bars the settings of R95. -/
def pdkBusy (s : State) (p : Fin 8) : Bool := (s.cfg.pdk[p]).state = .live || (s.cfg.pdk[p]).state = .parking

/-- SNS_ADL_k_CFG (R95, R102). -/
def effAdlCfg (k : Fin 16) (d : W32) (s : State) : Option State :=
  if pdkBusy s (lanePdk k) then none
  else some (updSns s (fun n => { n with adl := upd n.adl k (fun l =>
    let l := { l with cfg := d &&& 0x33 }
    if n.adlEn.getLsbD k.val && (calNeeded l false || calNeeded l true) then { l with rdy := false, calRun := true } else l) }))

/-- VREF_BAD (R100). The event is raised only while SENSE works: no sense event occurs in SLUMBER (R96). -/
def execVrefBad (s : State) : Host.Outcome State Fault Refusal :=
  .next (updSns s (fun n =>
    let m := { n with vrefOk := false }
    if snsOn s && s.pwr.state != .slumber then snsEvt 2 m else m))

/-- VREF_RETURN (R100). -/
def execVrefReturn (s : State) : Host.Outcome State Fault Refusal :=
  .next (updSns s (fun n => { n with vrefOk := true }))

/-- START_UP_CALIBRATION: a write of SNS_ADL_EN (R102). -/
def execStartUpCalibration (m : Mid) (en : BitVec 16) (s : State) : Host.Outcome State Fault Refusal :=
  .next (busWrite m .sns 0x40140004 (en.setWidth 32) (fun s => some (effAdlEn (en.setWidth 32) s)) s)

/-- ADL_CFG: a write of SNS_ADL_k_CFG (R95, R102). -/
def execAdlCfg (m : Mid) (k : Fin 16) (data : W32) (s : State) : Host.Outcome State Fault Refusal :=
  .next (busWrite m .sns (0x40140100 + k.val * 0x10) data (effAdlCfg k data) s)

/-! ## Auxiliary inputs (R87) -/

/-- The next input of a scan above `i`, wrapping to the lowest. -/
def auxNext (cfg : W32) (i : Fin 8) : Option (Fin 8) :=
  match (idx 8).find? (fun j => i.val < j.val && bit cfg j.val) with
  | some j => some j
  | none => auxLowest cfg

/-- Whether `i` is the highest input of a scan. -/
def auxHighest (cfg : W32) (i : Fin 8) : Bool := bit cfg i.val && !(idx 8).any (fun j => i.val < j.val && bit cfg j.val)

/-- DATA of an auxiliary input, from V_in and V_ref in nV (R87). -/
def auxData (vin vref : Nat) : Nat :=
  if vref ≤ vin then 0xFFFFFF else min (rhaDiv ((vin * 2 ^ 24 : Nat) : Int) vref).toNat 0xFFFFFF

/-- AUX_CONVERSION: the input under conversion reads `vin`, with `vexc` at AUX_EXC, both in nV (R87). -/
def execAuxConversion (vin vexc : Nat) (s : State) : Host.Outcome State Fault Refusal :=
  .next (match s.sns.auxIn with
    | none => s
    | some i =>
      if !(snsOn s && !unusable s 44) then s
      else
        let vref := if bit (s.sns.aux[i]).cfg 0 then vexc else 1200000000
        let t := updSns s (fun n =>
          let cfg := n.auxPend.getD n.auxCfg
          let m := { n with
            aux := upd n.aux i (fun a =>
              let a := { a with valid := true, data := auxData vin vref }
              { a with pub := auxValue a })
            auxCfg := cfg, auxPend := none, auxIn := auxNext cfg i }
          if auxHighest n.auxCfg i then snsEvt 3 m else m)
        published (0x20 + i.val) t)

/-- SNS_AUX_CFG: held until the end of the conversion in progress; from idle the scan starts at once (R87). -/
def effAuxCfg (d : W32) (s : State) : State :=
  let v := d &&& 0x3FF
  updSns s (fun n => match n.auxIn with
    | some _ => { n with auxPend := some v }
    | none => { n with auxCfg := v, auxPend := none, auxIn := if bit n.ctrl 1 then auxLowest v else none })

/-- AUX_CFG: a write of SNS_AUX_CFG (R87). -/
def execAuxCfg (m : Mid) (data : W32) (s : State) : Host.Outcome State Fault Refusal :=
  .next (busWrite m .sns 0x40140400 data (fun s => some (effAuxCfg data s)) s)

/-! ## PIR channels (R88, R89, R100) -/

/-- Whether a PIR channel is enabled. -/
def pirActive (n : Sns) (j : Fin 2) : Bool := bit n.ctrl 2 && bit (n.pir[j]).cfg 0

/-- Whether the PIR channels run. -/
def pirOn (s : State) (j : Fin 2) : Bool := snsOn s && !unusable s 45 && pirActive s.sns j

/-- WIN in samples. -/
def pirWin (p : Pir) : Nat := max (fld p.cfg 15 12) 1 * 500

/-- The pulse count that asserts the decision. -/
def pirCount (p : Pir) : Nat := max (fld p.cfg 9 8) 1

/-- A sample passes: the pulses counted age, and one older than WIN no longer counts (R89). -/
def pirAge (p : Pir) : Pir := { p with ages := (p.ages.map (· + 1)).filter (· ≤ pirWin p) }

/-- A PIR channel after a sample while it counts pulses (R89). The result says whether the decision asserts. -/
def pirDetect (v : BitVec 24) (p : Pir) : Bool × Pir :=
  let a := v.toInt.natAbs
  let thr := s24 p.thr
  let pulse := p.low && thr < a
  let ages := if pulse then (pirAge p).ages ++ [0] else (pirAge p).ages
  let fires := pulse && !p.det && pirCount p ≤ ages.length
  (fires, { p with
    val := v
    low := (p.low && !pulse) || (2 * a : Int) < thr
    armed := p.armed || (2 * a : Int) < thr
    ages := ages
    quiet := if pulse then 0 else p.quiet + 1
    det := p.det || fires })

/-- The other PIR channel. -/
def pirOther (j : Fin 2) : Fin 2 := ⟨1 - j.val, by omega⟩

/-- Whether the other channel's decision has asserted at this same sample (R97). -/
def pirBoth (s : State) (j : Fin 2) : Bool := (s.sns.pir[pirOther j]).hit = some s.time

/-- PIR_SAMPLE: channel `j` takes the filtered value `v` (R88, R89). While it settles or is saturated it counts no pulses. Two
assertions at one sample both fire, and TRG_LAST records the lower code (R37, R97). -/
def execPirSample (j : Fin 2) (v : BitVec 24) (s : State) : Host.Outcome State Fault Refusal :=
  .next (if !pirOn s j then s
    else
      let p := s.sns.pir[j]
      let r := if p.settle || p.sat then (false, { pirAge p with val := v, quiet := p.quiet + 1 }) else pirDetect v p
      let q := { r.2 with setl := if p.settle then p.setl + 1 else 0, hit := if r.1 then some s.time else none }
      let t := updSns s (fun n => { n with pir := upd (n.pir.set j.val q) (pirOther j) (fun o => { o with hit := none }) })
      let both := if pirBoth s j then [1 + (pirOther j).val] else []
      let t := if r.1 then fireWith both (1 + j.val) (updSns t (snsEvt (5 + j.val))) else t
      published (0x2B + j.val) t)

/-- HOLD in samples; with HOLD = 0 it ends at the next sample without a pulse (log 70). -/
def pirHold (p : Pir) : Nat := max (fld p.cfg 23 16 * 1000) 1

/-- PIR_HOLD_END: HOLD seconds have passed without a pulse (R89); a pulse in the sample at which they end has restarted HOLD
(R97). -/
def execPirHoldEnd (j : Fin 2) (s : State) : Host.Outcome State Fault Refusal :=
  .next (let p := s.sns.pir[j]
    if pirOn s j && p.det && pirHold p ≤ p.quiet then
      updSns s (fun n => { n with pir := upd n.pir j (fun p => { p with det := false }) })
    else s)

/-- SETTLE_END: SETTLE seconds have passed; the channel is armed if its last sample lay below THR/2 (R89). -/
def execSettleEnd (j : Fin 2) (s : State) : Host.Outcome State Fault Refusal :=
  .next (let p := s.sns.pir[j]
    if pirOn s j && p.settle && fld p.cfg 29 24 * 1000 ≤ p.setl then
      updSns s (fun n => { n with pir := upd n.pir j (fun p =>
        let b : Bool := (2 * p.val.toInt.natAbs : Int) < s24 p.thr
        { p with settle := false, armed := b, low := b }) })
    else s)

/-- A change that may enable or disable PIR channels: one enabled starts afresh, one not enabled reads no decision (R89). -/
def pirChange (old new : Sns) : Sns :=
  { new with pir := (idx 2).foldl (fun v j => upd v j (fun p =>
      if pirActive new j && !pirActive old j then pirRestart true p
      else if pirActive new j then p
      else { p with det := false, settle := false })) new.pir }

/-- SNS_PIRj_CFG (R89, R103). -/
def effPirCfg (j : Fin 2) (d : W32) (s : State) : State :=
  updSns s (fun n => pirChange n { n with pir := upd n.pir j (fun p => { p with cfg := d &&& 0x3FFFF301 }) })

/-- PIR_ENABLE: a write of SNS_PIRj_CFG with EN = 1 (R89). -/
def execPirEnable (m : Mid) (j : Fin 2) (data : W32) (s : State) : Host.Outcome State Fault Refusal :=
  let d := withBit data 0 true
  .next (busWrite m .sns (0x40140500 + j.val * 0x20) d (fun s => some (effPirCfg j d s)) s)

/-- PIR_SAT: pulse counting is suspended (R100). -/
def execPirSat (j : Fin 2) (s : State) : Host.Outcome State Fault Refusal :=
  .next (if pirOn s j then updSns s (fun n => { n with pir := upd n.pir j (fun p => { p with sat := true }) }) else s)

/-- PIR_SAT_CLEAR: counting resumes under the arming rule (R100). -/
def execPirSatClear (j : Fin 2) (s : State) : Host.Outcome State Fault Refusal :=
  .next (if pirOn s j && (s.sns.pir[j]).sat then
    updSns s (fun n => { n with pir := upd n.pir j (fun p => { p with sat := false, armed := false, low := false }) })
  else s)

/-! ## Daylight channels (R90, R92, R100) -/

/-- MANT of a current, in 10^-3 fA, at an exponent (R90). -/
def dayMant (i : Nat) (e : Nat) : Nat := (rhaDiv (i : Int) (1000 * 4 ^ e)).toNat

/-- EXP, MANT and SAT of a net current in 10^-3 fA (R90, R100). -/
def dayEncode (i : Int) : Nat × Nat × Bool :=
  if i ≤ 0 then (0, 0, false)
  else match (List.range 8).find? (fun e => dayMant i.toNat e < 2 ^ 24) with
    | some e => (e, dayMant i.toNat e, false)
    | none => (7, 0xFFFFFF, true)

/-- DAY_RESULT: an integration has lasted its TINT and ends with this net photodiode current, in 10^-3 fA; the next one begins
(R90, R92, R100). -/
def execDayResult (d : Fin 2) (current : Int) (s : State) : Host.Outcome State Fault Refusal :=
  .next (if !(snsOn s && !unusable s 46 && bit s.sns.ctrl 3 && (s.sns.day[d]).due = 0) then s
    else
      let r := dayEncode current
      let t := updSns s (fun n => { n with day := upd n.day d (fun c =>
        let c := dayStart { c with exp := r.1, mant := r.2.1, sat := r.2.2, valid := true }
        { c with pub := dayValue c }) })
      let t := published (0x28 + d.val) t
      let c := t.sns.day[d]
      if !c.high && dayCode (fld c.thr 31 16) < dayCurrent c then
        fire (4 + 2 * d.val) (updSns t (fun n => snsEvt (7 + 2 * d.val) { n with day := upd n.day d (fun c => { c with high := true }) }))
      else if c.high && dayCurrent c < dayCode (fld c.thr 15 0) then
        fire (5 + 2 * d.val) (updSns t (fun n => snsEvt (8 + 2 * d.val) { n with day := upd n.day d (fun c => { c with high := false }) }))
      else t)

/-! ## Die temperature (R84, R93, R310, R331) -/

/-- t(T) in Q2.30 from the OTP coefficients and T in 1/64 °C (R84). -/
def vrefFactor (c1 c2 : Int) (t : Int) : Int :=
  let d := t - 1600
  rhaDiv (1073741824 * (4096000000000 + 64 * c1 * d + c2 * d * d)) 4096000000000

/-- The parts of a SLUMBER interval, in LTICK cycles, and whether each ran from XLF. -/
def sleepParts (back : W32) : List (W32 × Bool) → List (Nat × Bool)
  | [] => []
  | [(a, x)] => [((back - a).toNat, x)]
  | (a, x) :: (b, y) :: t => ((b - a).toNat, x) :: sleepParts back ((b, y) :: t)

/-- E of the XLF in a SLUMBER interval: the mean of the predictions, or P_entry where XLF failed in it (R310, R311). -/
def sleepE (p : SleepPoint) (wakeP : Int) : Int :=
  if p.moves.dropLast.any (·.2) then p.pred else rhaDiv (p.pred + wakeP) 2

/-- The CLK_YARD cycles of the last SLUMBER interval, with P_wake given: parts timed by XTAL are exact (R310, R311). -/
def sleepInterval (p : SleepPoint) (wakeP : Int) : Int :=
  ((sleepParts p.back p.moves).map (fun k => sleepCycles k.1 (if k.2 then sleepE p wakeP else 0))).sum

/-- At the first TEMP after SLUMBER, TRX_TIME is advanced by the corrected sleep interval, TADJ clears, and the partner
updates that waited are made (R329). -/
def advanceTrx (s : State) : State :=
  match s.pwr.tadj && s.pwr.move = .none, s.pwr.sleep with
  | true, some p =>
    let y := sleepInterval p (slkPred s.clk.slk s.sns.temp.toInt)
    ptFlush { s with
      trx := { s.trx with time := mod48 (s.trx.time + y.toNat) }
      pwr := { s.pwr with tadj := false, sleep := none } }
  | _, _ => s

/-- The drop from RUN-FAST at 115 °C or more (R331). -/
def fastDrop (s : State) : State :=
  if s.pwr.state = .runFast && 7360 ≤ s.sns.temp.toInt then
    updClk (updPwr s (fun p => pwrEvt 4 { p with state := .run })) (fun c => { c with fast := false })
  else s

/-- TEMP published, with TEMP_HI and its re-arming (R93). -/
def publishTemp (t : BitVec 16) (n : Sns) : Sns :=
  let thr := (n.tempThr.setWidth 16).toInt
  let n := { n with tempData := t, tempValid := true }
  if n.tempArmed && thr ≤ t.toInt then snsEvt 4 { n with tempArmed := false }
  else if t.toInt ≤ thr - 128 then { n with tempArmed := true }
  else n

/-- TEMP_MEASUREMENT: the die temperature in 1/64 °C. The sensor runs while TEMP_EN is 1, a lane is enabled, or
the advance of TRX_TIME after SLUMBER waits for it (R84, R93, R329). -/
def execTempMeasurement (t : BitVec 16) (s : State) : Host.Outcome State Fault Refusal :=
  .next (if !(snsOn s && (bit s.sns.ctrl 4 || s.sns.adlEn != 0 || s.pwr.tadj)) then s
    else
      let s := updSns s (fun n => { n with temp := t, tFactor := vrefFactor s.boot.otpC1 s.boot.otpC2 t.toInt })
      let s := if bit s.sns.ctrl 4 then published 0x2A (updSns s (publishTemp t)) else s
      fastDrop (advanceTrx s))

/-! ## Registers (R95, R103) -/

/-- SNS_CTRL: enabling the auxiliary converter starts its scan, enabling daylight starts an integration (R87, R90, R103). -/
def effSnsCtrl (d : W32) (s : State) : State :=
  updSns s (fun n =>
    let m := { n with ctrl := d &&& 0x1F }
    let m := if bit d 1 && !bit n.ctrl 1 then { m with auxIn := auxLowest n.auxCfg }
      else if bit d 1 then m
      else { m with auxIn := none, auxCfg := n.auxPend.getD n.auxCfg, auxPend := none }
    let m := if bit d 3 && !bit n.ctrl 3 then
        { m with day := (idx 2).foldl (fun v k => upd v k dayStart) m.day } else m
    pirChange n m)

/-- SNS_DAYd_THR: HI at or below LO is refused (R92). -/
def effDayThr (d : Fin 2) (v : W32) (s : State) : Option State :=
  if dayCode (fld v 31 16) ≤ dayCode (fld v 15 0) then none
  else some (updSns s (fun n => { n with day := upd n.day d (fun c => { c with thr := v }) }))

/-- SNS_CS_n_BGAIN and SNS_CS_n_BOFS (R95). -/
def effBoard (n : Fin 32) (ofs : Bool) (d : W32) (s : State) : Option State :=
  if pdkBusy s (pdkOf n) then none
  else some (updSns s (fun q => { q with cs := upd q.cs n (fun c =>
    if ofs then { c with bofs := d &&& 0xFFFFFF } else { c with bgain := d &&& 0xFFFFFF }) }))

/-- The write-one-to-clear of a word. -/
def w1c (w d : W32) : W32 := w &&& ~~~ d

/-- A write of an ADC lane register (R103). -/
def adlWrite (k : Fin 16) (o : Nat) (d : W32) (s : State) : Option State :=
  match o with
  | 0x0 => effAdlCfg k d s
  | 0xC => some (updSns s (fun n => { n with adl := upd n.adl k (fun l =>
      { l with ovrA := l.ovrA && !bit d 0, ovrB := l.ovrB && !bit d 1 }) }))
  | _ => some s

/-- A write of an auxiliary input's register (R103). -/
def auxWrite (i : Fin 8) (o : Nat) (d : W32) (s : State) : State :=
  updSns s (fun n => { n with aux := upd n.aux i (fun a => match o with
    | 0x0 => { a with cfg := d &&& 1 }
    | 0x8 => { a with bgain := d &&& 0xFFFFFF }
    | 0xC => { a with bofs := d &&& 0xFFFFFF }
    | _ => a) })

/-- A write of a daylight register (R90, R92, R103). -/
def dayWrite (d : Fin 2) (o : Nat) (v : W32) (s : State) : Option State :=
  let w (f : Day → Day) : Option State := some (updSns s (fun n => { n with day := upd n.day d f }))
  match o with
  | 0x0 => if fld v 1 0 = 3 then none else w (fun c => { c with cfg := v &&& 3 })
  | 0x8 => effDayThr d v s
  | 0xC => w (fun c => { c with fs := v &&& 0xFFFF })
  | _ => some s

/-- A write of an SNS register (R103). -/
def snsWrite (off : Nat) (d : W32) (s : State) : Option State :=
  let w (f : Sns → Sns) : Option State := some (updSns s f)
  if off = 0x000 then some (effSnsCtrl d s)
  else if off = 0x004 then some (effAdlEn d s)
  else if off = 0x00C then w (fun n => { n with evt := w1c n.evt d })
  else if off = 0x010 then w (fun n => { n with evtEn := d &&& 0x7FF })
  else if h : 0x100 ≤ off ∧ off < 0x200 then adlWrite ⟨(off - 0x100) / 16, by omega⟩ (off % 16) d s
  else if h : 0x280 ≤ off ∧ off < 0x380 then effBoard ⟨(off - 0x280) / 8, by omega⟩ (off % 8 = 4) d s
  else if off = 0x400 then some (effAuxCfg d s)
  else if h : 0x410 ≤ off ∧ off < 0x490 then some (auxWrite ⟨(off - 0x410) / 16, by omega⟩ (off % 16) d s)
  else if off = 0x500 then some (effPirCfg 0 d s)
  else if off = 0x504 then w (fun n => { n with pir := upd n.pir 0 (fun p => { p with thr := d &&& 0xFFFFFF }) })
  else if off = 0x520 then some (effPirCfg 1 d s)
  else if off = 0x524 then w (fun n => { n with pir := upd n.pir 1 (fun p => { p with thr := d &&& 0xFFFFFF }) })
  else if h : 0x600 ≤ off ∧ off < 0x640 then dayWrite ⟨(off - 0x600) / 0x20, by omega⟩ (off % 0x20) d s
  else if off = 0x704 then w (fun n => { n with tempThr := d &&& 0xFFFF })
  else some s

/-- A read of an ADC lane register (R103). -/
def adlRead (l : Adl) (o : Nat) : W32 :=
  match o with
  | 0x0 => l.cfg
  | 0x4 => BitVec.ofInt 32 (rangeCal l (slotRange l false)).gain
  | 0x8 => BitVec.ofInt 32 (rangeCal l (slotRange l false)).ofs
  | 0xC => put l.ovrCnt 16 ||| put l.calErr 8 ||| putB l.calFail 2 ||| putB l.ovrB 1 ||| putB l.ovrA 0
  | _ => 0

/-- A read of an auxiliary input's register (R103). -/
def auxRead (a : Aux) (o : Nat) : W32 :=
  match o with
  | 0x0 => a.cfg
  | 0x4 => putB a.valid 31 ||| put a.data 0
  | 0x8 => a.bgain
  | 0xC => a.bofs
  | _ => 0

/-- A read of a PIR register (R103). -/
def pirRead (p : Pir) (o : Nat) : W32 :=
  match o with
  | 0x0 => p.cfg
  | 0x4 => p.thr
  | 0x8 => putB p.det 31 ||| putB p.settle 30 ||| putB p.sat 29 ||| p.val.setWidth 32
  | _ => 0

/-- A read of a daylight register (R103). -/
def dayRead (c : Day) (o : Nat) : W32 :=
  match o with
  | 0x0 => c.cfg
  | 0x4 => put c.exp 28 ||| putB c.sat 27 ||| putB c.valid 26 ||| putB c.high 25 ||| put c.mant 0
  | 0x8 => c.thr
  | 0xC => c.fs
  | _ => 0

/-- LANE_RDY of every lane. -/
def laneRdyMap (n : Sns) : W32 := (idx 16).foldl (fun w k => withBit w k.val (n.adl[k]).rdy) 0

/-- A read of an SNS register (R103). -/
def snsRead (off : Nat) (s : State) : W32 :=
  let n := s.sns
  if off = 0x000 then n.ctrl
  else if off = 0x004 then n.adlEn.setWidth 32
  else if off = 0x008 then putB n.vrefOk 31 ||| laneRdyMap n
  else if off = 0x00C then n.evt
  else if off = 0x010 then n.evtEn
  else if h : 0x100 ≤ off ∧ off < 0x200 then adlRead (n.adl[(off - 0x100) / 16]'(by omega)) (off % 16)
  else if h : 0x200 ≤ off ∧ off < 0x280 then
    let c := n.cs[(off - 0x200) / 4]'(by omega)
    putB c.valid 31 ||| putB c.subst 30 ||| putB c.ovr 29 ||| c.val.setWidth 32
  else if h : 0x280 ≤ off ∧ off < 0x380 then
    let c := n.cs[(off - 0x280) / 8]'(by omega)
    if off % 8 = 4 then c.bofs else c.bgain
  else if off = 0x400 then n.auxPend.getD n.auxCfg
  else if h : 0x410 ≤ off ∧ off < 0x490 then auxRead (n.aux[(off - 0x410) / 16]'(by omega)) (off % 16)
  else if h : 0x500 ≤ off ∧ off < 0x540 then pirRead (n.pir[(off - 0x500) / 0x20]'(by omega)) (off % 0x20)
  else if h : 0x600 ≤ off ∧ off < 0x640 then dayRead (n.day[(off - 0x600) / 0x20]'(by omega)) (off % 0x20)
  else if off = 0x700 then putB n.tempValid 31 ||| n.tempData.setWidth 32
  else if off = 0x704 then n.tempThr
  else 0

end Sys2Proof.Machine
end

