-- ==== Sys2Proof/Machine/Stalls.lean ====
section
/-!
DEFINITION. Stalls: what the loop engine, the output stage and the paddocks share: open lanes, joining and leaving the
schedule, freezing, entering FAULT, and the drive of the gates (R66 to R70, R125, R126, R142, R145, R149 to R151, R163).
-/

namespace Sys2Proof.Machine

open Sys2Proof

/-- The loop engine runs: the YARD domain is ready and the LPE usable. -/
def lpeOn (s : State) : Bool := domReady s .yard && !unusable s 40

/-- The state of a paddock. -/
def pdkState (s : State) (p : Fin 8) : PdkState := (s.cfg.pdk[p]).state

/-- Whether the loop engine serves a stall. -/
def stallOn (s : State) (n : Fin 32) : Bool := lpeOn s && !pdkUnusable s (pdkOf n) && domReady s (.paddock (pdkOf n))

/-- Whether lane `j` of a stall counts as open (R126); at its samples in UNPARKING the lanes count as the frame closes them
(R70). -/
def laneOpen (s : State) (n : Fin 32) (j : Fin 4) : Bool :=
  let t := s.stl[n]
  !bit (t.lane[j]).ctrl 31 || !t.en
    || (match pdkState s (pdkOf n) with
      | .live => false
      | .parking => t.frozen
      | .unparking => !t.run
      | _ => true)

/-- Whether an input that a lane selects is stale (R128). -/
def laneStale (s : State) (l : Lane) : Bool := senseStale s (fld l.ctrl 7 0) || senseStale s (fld l.ctrl 15 8)

/-- FROZEN of a lane as it reads (R126). -/
def laneFrozen (s : State) (n : Fin 32) (j : Fin 4) : Bool :=
  let l := (s.stl[n]).lane[j]
  if (s.stl[n]).run then l.frozen else bit l.ctrl 30 && (laneOpen s n j || laneStale s l)

/-- RAMPING (R121). -/
def ramping (t : Stall) : Bool := t.spr != t.sp

/-- The frozen settings, or the registers' (R69). -/
def protOf (t : Stall) : W32 := match t.frz with | some f => f.prot | none => t.prot

/-- PWM settings in force (R69). -/
def pwmOf (t : Stall) : W32 := match t.frz with | some f => f.pwm | none => t.pwm

/-- RETRY.MAX in force (R69). -/
def retryOf (t : Stall) : Nat := match t.frz with | some f => f.retry | none => t.retryMax

/-- The command in force at the output stage: the held one while parked (R67, R70). -/
def cmdOf (t : Stall) : BitVec 24 := match t.frz with | some _ => t.held | none => t.cmd

/-- d20 of the command in force (R139). -/
def d20Of (t : Stall) : Nat := (rhaDiv (cmdOf t).toInt 4).toNat

/-- Whether GDn may be driven at all (R74, R138, R142, R145, R304, R430). -/
def drives (s : State) (n : Fin 32) : Bool :=
  let t := s.stl[n]
  let p := pdkOf n
  domReady s (.paddock p) && !pdkUnusable s p && !underTest s (32 + p.val) && !s.clk.bypass && !s.sup.vgdUv && !s.sup.hot
    && fld (outOf t) 31 30 != 0 && !t.active && t.pendC.isNone && (s.cfg.pdk[p]).lived
    && (match t.frz with
      | some f => (s.cfg.pdk[p]).hold && f.en
      | none => (match pdkState s p with
        | .live | .parking | .unparking => t.en
        | _ => false))

/-- The gate of a stall goes low and its period ends without counting. -/
def gateLow (t : Stall) : Stall := { t with gate := false, onTime := 0, tripped := false, dac := 0, volt := 0 }

/-- The gates that may no longer be driven go low. -/
def cutGates (s : State) : State :=
  { s with stl := (idx 32).foldl (fun v n => if drives s n then v else upd v n gateLow) s.stl }

/-- The LINEAR output in a CLK_YARD cycle: every CLK_PER cycle the DAC takes the upper 12 bits of d20 with the carry of the lower 8,
and the voltage moves towards code / 4096 × 0.9 × VGD by no more than LSLEW (R141). -/
def linearStep (per : Bool) (t : Stall) : Stall :=
  let x := t.linAcc.toNat + d20Of t
  let t := if per then { t with dac := x / 256, linAcc := BitVec.ofNat 8 x } else t
  let goal := t.dac * Config.vgd * 675 / 2
  let d := 5000000 * 4 ^ fld (outOf t) 21 20
  { t with volt := if t.volt < goal then min goal (t.volt + d) else max goal (t.volt - d) }

/-- A stall joins the schedule at its next sample tick, with its ramp, filters, model and lanes starting afresh (R70, R115,
R122, R125, R146). `at0` is the tick boundary that takes it in, if it has come (R120). -/
def joinStall (at0 : Option W32) (t : Stall) : Stall :=
  { t with
    joining := true, joinT := at0, leaving := false, first := true, missRun := 0, samp := none, result := none, due := none
    pl := { t.pl with fresh := true }
    naSt := { t.naSt with fresh := true }
    nbSt := { t.nbSt with fresh := true }
    lane := (idx 4).foldl (fun v j => upd v j (fun l => { l with dec := 0, fresh := true, join := true })) t.lane }

/-- Enabling a stall: RUN of the over-current count is zero, the held command zero, and it joins if its paddock is LIVE, after
the update that it still owes if EN was cleared since its last sample (R125, R145, R147, R151). `now` is the time. -/
def enableStall (live : Bool) (now : Nat) (at0 : Option W32) (t : Stall) : Stall :=
  let t := { t with en := true, ocRun := 0, runCyc := 0, since := 0, rise := now, held := if live then 0 else t.held }
  if live && t.due.isNone then joinStall at0 t else t

/-- A stall leaves the schedule (R66, R125). -/
def leaveStall (t : Stall) : Stall :=
  { t with
    run := false, joining := false, joinT := none, leaving := false, first := true, samp := none, result := none, due := none }

/-- A CFG_EVT bit set (R75). -/
def cfgEvt (i : Nat) (s : State) : State := { s with cfg := { s.cfg with evt := withBit s.cfg.evt i true } }

/-- A PARKING paddock whose four stalls have frozen is PARKED (R66). -/
def parkCheck (p : Fin 8) (s : State) : State :=
  if pdkState s p = .parking && (s.cfg.pdk[p]).begun && (stallsOf p).all (fun n => (s.stl[n]).frozen) then
    cfgEvt 5 (updPdk s p (fun q => { q with state := .parked, begun := false }))
  else s

/-- An UNPARKING paddock whose four stalls have made their first output update is LIVE (R70). -/
def liveCheck (p : Fin 8) (s : State) : State :=
  if pdkState s p = .unparking && (s.cfg.pdk[p]).begun && (stallsOf p).all (fun n => (s.stl[n]).updated) then
    cfgEvt 4 (updPdk s p (fun q => { q with
      state := .live, begun := false, hold := false, holdRun := false, heldCyc := 0, lived := true }))
  else s

/-- A stall freezes: lanes open, out of the schedule, its output in the park mode with the settings it froze with (R66, R67,
R69). One outside the schedule freezes with a held command of zero. -/
def freezeStall (hold : Bool) (t : Stall) : Stall :=
  let f : Frozen := { out := t.out, pwm := t.pwm, prot := t.prot, retry := t.retryMax, en := t.en }
  let u := { leaveStall t with frozen := true, held := if hold && t.run then t.cmd else 0, frz := some f }
  if hold then u else gateLow u

/-! ## Ticks (R117, R118, R120) -/

/-- The CLK_YARD cycles of a tick. -/
def tickLen : Nat := 768

/-- Whether this cycle is a tick boundary. -/
def tickNow (s : State) : Bool := s.lpe.tickDue = tickLen

/-- The tick to which a sample taken now belongs: slot B is published in the next tick (R79). -/
def tickOf (s : State) (n : Fin 32) : W32 := s.lpe.tick - BitVec.ofNat 32 (n.val % 2)

/-- Whether the update instant of a stall's last sample has come (R118). -/
def dueNow (s : State) (n : Fin 32) : Bool := match (s.stl[n]).due with | some d => d ≤ s.time | none => false

/-! ## Results applied -/

/-- A lane with its result applied (R111, R112, R126). -/
def applyLane (l : Lane) (r : LaneRes) : Lane :=
  if !r.computed then l
  else
    { l with
      int := r.int, out := r.out, err := r.err, fresh := false, join := false
      satArith := l.satArith || r.satArith, satInt := l.satInt || r.satInt, presetLim := l.presetLim || r.presetLim
      clampCnt := if r.clamped then satInc l.clampCnt 65535 else l.clampCnt }

/-- A stall with a result applied; what a register write set afresh since the sample stays so (R104 step 6, R115, R116, R146). -/
def applyCalc (r : Calc) (t : Stall) : Stall :=
  { t with
    lane := (idx 4).foldl (fun v j => upd v j (fun l => applyLane l r.lanes[j])) t.lane
    naSt := { r.na with fresh := r.na.fresh || t.naMark }
    nbSt := { r.nb with fresh := r.nb.fresh || t.nbMark }
    spr := r.spr, cmd := r.cmd, win := r.win, cmdLim := r.cmdLim
    sat := t.sat || r.sat, low := r.low, fb0 := r.fb0, echo := r.echo
    pl := { r.pl with fresh := r.pl.fresh || t.plMark, rs := if t.rsMark then 0 else r.pl.rs }
    drift := t.drift || r.drift
    first := false, missRun := 0, result := none, lastMiss := false
    sawSat := t.sawSat || r.sat || r.lanes.toList.any (fun x => x.satArith || x.satInt) }

/-- Causes in CAUSES, bit c for code c. -/
def causeBits (cs : List Nat) : BitVec 9 := cs.foldl (fun w c => w ||| (1#9 <<< c)) 0

/-- The rank of a cause (R148). -/
def causeRank (c : Nat) : Nat := if c ≤ 2 then 1 else if c ≤ 7 then 2 else 3

/-- The highest-ranked cause present (R148, R149). -/
def topCause (cs : List Nat) : Nat :=
  cs.foldl (fun b c => if b = 0 ∨ causeRank c < causeRank b then c else b) 0

/-- The stall's own part of entering FAULT (R149, R150, R151). -/
def faultStall (cs : List Nat) (t : Stall) : Stall :=
  let again := t.used < retryOf t
  gateLow { leaveStall t with
    cmd := 0, held := 0, en := false, active := true, pendC := none
    frz := t.frz.map (fun f => { f with en := false })
    firstC := if t.causes = 0 then topCause cs else t.firstC
    causes := t.causes ||| causeBits cs
    used := if again then t.used + 1 else t.used
    retryPend := again
    waitCyc := if again then 10 * 2 ^ t.used * msCyc else 0
    shortCyc := if cs.any (· ≤ 2) && bit t.plCtrl 30 then 2 * msCyc else t.shortCyc
    shortSel := if cs.any (· ≤ 2) && bit t.plCtrl 30 then fld t.plCtrl 7 0 else t.shortSel
    shortTh := if cs.any (· ≤ 2) && bit t.plCtrl 30 then s24 t.plVsh else t.shortTh
    sawFault := true }

/-- Whether an echo injects into a stall: RUN is 1. -/
def echoOn (e : Echo) (n : Fin 32) : Bool := bit e.ctrl 31 && fld e.ctrl 4 0 = n.val

/-- A stall entering FAULT ends the echoes that inject into it (R163). -/
def echoAbort (n : Fin 32) (s : State) : State :=
  (idx 4).foldl (fun s e =>
    if echoOn s.echo[e] n then
      { s with
        echo := upd s.echo e (fun x => { x with ctrl := withBit x.ctrl 31 false, aborted := true })
        echoEvt := withBit s.echoEvt e.val true }
    else s) s

/-- A stall enters FAULT with the causes present (R149): it counts as frozen, or as having made its first update, for a
paddock that is being parked or unparked. -/
def faultEntry (n : Fin 32) (cs : List Nat) (s : State) : State :=
  let p := pdkOf n
  let q := s.cfg.pdk[p]
  let s := updStl s n (fun t =>
    let t := faultStall cs t
    if q.state = .parking && q.begun && !t.frozen then freezeStall q.hold t
    else if q.state = .unparking && q.begun then { t with updated := true, frz := none } else t)
  let s := { s with lpe := { s.lpe with evt := withBit s.lpe.evt 0 true } }
  liveCheck p (parkCheck p (published (0x40 + n.val) (echoAbort n s)))

end Sys2Proof.Machine
end

