-- ==== Sys2Proof/Machine/Echo.lean ====
section
/-!
DEFINITION. Echo: the waveforms of the echo generators, their injection and correlation, and their registers (R154 to R156,
R162, R163, R167).
-/

namespace Sys2Proof.Machine

open Sys2Proof

/-! ## Waveforms (R155) -/

/-- A quarter of S: round_half_away(32 767 sin(2πi/1 024)) for i up to 256. -/
def sineQuarter : List Nat :=
  [0, 201, 402, 603, 804, 1005, 1206, 1407, 1608, 1809, 2009, 2210, 2410, 2611, 2811, 3012, 3212, 3412, 3612, 3811, 4011, 4210, 4410, 4609, 4808, 5007, 5205, 5404, 5602, 5800, 5998, 6195] ++
  [6393, 6590, 6786, 6983, 7179, 7375, 7571, 7767, 7962, 8157, 8351, 8545, 8739, 8933, 9126, 9319, 9512, 9704, 9896, 10087, 10278, 10469, 10659, 10849, 11039, 11228, 11417, 11605, 11793, 11980, 12167, 12353] ++
  [12539, 12725, 12910, 13094, 13279, 13462, 13645, 13828, 14010, 14191, 14372, 14553, 14732, 14912, 15090, 15269, 15446, 15623, 15800, 15976, 16151, 16325, 16499, 16673, 16846, 17018, 17189, 17360, 17530, 17700, 17869, 18037] ++
  [18204, 18371, 18537, 18703, 18868, 19032, 19195, 19357, 19519, 19680, 19841, 20000, 20159, 20317, 20475, 20631, 20787, 20942, 21096, 21250, 21403, 21554, 21705, 21856, 22005, 22154, 22301, 22448, 22594, 22739, 22884, 23027] ++
  [23170, 23311, 23452, 23592, 23731, 23870, 24007, 24143, 24279, 24413, 24547, 24680, 24811, 24942, 25072, 25201, 25329, 25456, 25582, 25708, 25832, 25955, 26077, 26198, 26319, 26438, 26556, 26674, 26790, 26905, 27019, 27133] ++
  [27245, 27356, 27466, 27575, 27683, 27790, 27896, 28001, 28105, 28208, 28310, 28411, 28510, 28609, 28706, 28803, 28898, 28992, 29085, 29177, 29268, 29358, 29447, 29534, 29621, 29706, 29791, 29874, 29956, 30037, 30117, 30195] ++
  [30273, 30349, 30424, 30498, 30571, 30643, 30714, 30783, 30852, 30919, 30985, 31050, 31113, 31176, 31237, 31297, 31356, 31414, 31470, 31526, 31580, 31633, 31685, 31736, 31785, 31833, 31880, 31926, 31971, 32014, 32057, 32098] ++
  [32137, 32176, 32213, 32250, 32285, 32318, 32351, 32382, 32412, 32441, 32469, 32495, 32521, 32545, 32567, 32589, 32609, 32628, 32646, 32663, 32678, 32692, 32705, 32717, 32728, 32737, 32745, 32752, 32757, 32761, 32765, 32766] ++
  [32767]

/-- S[i] (R155). -/
def sineS (i : Nat) : Int :=
  let q (k : Nat) : Int := ((sineQuarter[k]?).getD 0 : Nat)
  let j := i % 1024
  if j ≤ 256 then q j else if j ≤ 512 then q (512 - j) else if j ≤ 768 then -(q (j - 512)) else -(q (1024 - j))

/-- C[i] (R155). -/
def sineC (i : Nat) : Int := sineS (i + 256)

/-- WAVE. -/
def waveOf (e : Echo) : Nat := fld e.ctrl 25 24

/-- The phase index of a sample. -/
def phaseIdx (e : Echo) : Nat := e.phase.toNat / 2 ^ 22

/-- CYCLES; 0 acts as 1. -/
def cyclesOf (e : Echo) : Nat := max (fld e.cyc 15 0) 1

/-- The dwell of STEP; 0 acts as 1. -/
def dwellOf (e : Echo) : Nat := max (fld e.freq 23 0) 1

/-- The value an echo injects at a sample (R155). -/
def echoValue (e : Echo) : Int :=
  let a := s24 e.amp
  if e.done then 0
  else match waveOf e with
    | 1 => if e.lfsr.getLsbD 14 then a else -a
    | 2 => if e.wraps % 2 = 1 then a else 0
    | _ => rhaDiv (a * sineS (phaseIdx e)) 32768

/-- Whether FREQ lies beyond FEND in the direction of FSTEP (R155). -/
def chirpDone (e : Echo) : Bool :=
  if 0 < e.fstep.toInt then e.fend.toNat < e.freq.toNat
  else if e.fstep.toInt < 0 then e.freq.toNat < e.fend.toNat else false

/-- The correlator sums of a sample (R156): in SINE, after SETTLE wraps, over the CYCLES wraps that follow. N passing
16 777 215 sets OVF and ends the echo. -/
def echoSums (xa xb : Int) (e : Echo) : Echo :=
  if waveOf e != 0 || e.wraps < fld e.cyc 31 16 then e
  else if e.n = 16777215 then { e with ovf := true, done := true }
  else
    let c := sineC (phaseIdx e)
    let q := sineS (phaseIdx e)
    { e with
      n := e.n + 1
      ai := e.ai + BitVec.ofInt 64 (xa * c), aq := e.aq + BitVec.ofInt 64 (xa * q)
      bi := e.bi + BitVec.ofInt 64 (xb * c), bq := e.bq + BitVec.ofInt 64 (xb * q) }

/-- The phase advanced by FREQ, with its wraps counted. -/
def echoPhase (e : Echo) : Echo :=
  let p := e.phase.toNat + e.freq.toNat
  { e with phase := BitVec.ofNat 32 p, wraps := if 2 ^ 32 ≤ p then e.wraps + 1 else e.wraps }

/-- The LFSR shifted: x^15 + x^14 + 1. -/
def lfsrNext (l : BitVec 15) : BitVec 15 := (l <<< 1) ||| (if l.getLsbD 14 != l.getLsbD 13 then 1 else 0)

/-- An echo after a sample of its stall (R155, R156). -/
def echoAdvance (xa xb : Int) (e : Echo) : Echo :=
  if e.done then e
  else match waveOf e with
    | 0 =>
      let e := echoPhase (echoSums xa xb e)
      { e with done := e.done || fld e.cyc 31 16 + cyclesOf e ≤ e.wraps }
    | 1 =>
      let h := e.held + 1
      let e := if h ≤ fld e.freq 7 0 then { e with held := h }
        else { e with held := 0, lfsr := lfsrNext e.lfsr, wraps := e.wraps + 1 }
      { e with done := cyclesOf e * 32767 ≤ e.wraps }
    | 2 =>
      let h := e.held + 1
      let e := if h < dwellOf e then { e with held := h } else { e with held := 0, wraps := e.wraps + 1 }
      { e with done := 2 * cyclesOf e ≤ e.wraps }
    | _ =>
      if chirpDone e then { e with done := true }
      else { echoPhase e with freq := e.freq + e.fstep }

/-! ## Injection (R154, R164) -/

/-- Whether an echo injects into a stall's samples: the block usable and the stall's paddock LIVE. -/
def echoActive (s : State) (e : Fin 4) (n : Fin 32) : Bool :=
  echoOn s.echo[e] n && !unusable s 41 && pdkState s (pdkOf n) = .live

/-- The running echoes of a stall at a point (and lane, for SP and FB) added to a value, each addition saturating; the result
says whether one saturated. -/
def inject (s : State) (n : Fin 32) (point lane : Nat) (x : Int) : Int × Bool :=
  (idx 4).foldl (fun r e =>
    let c := s.echo[e]
    if echoActive s e n && fld c.ctrl 21 20 = point && (2 ≤ point || fld c.ctrl 17 16 = lane) then
      (satS 24 (r.1 + echoValue c), r.2 || overS 24 (r.1 + echoValue c))
    else r) (x, false)

/-- The sum of the echo values injected in a stall (R157, SIG 17). -/
def echoSum (s : State) (n : Fin 32) : Int :=
  satS 24 (((idx 4).map (fun e => if echoActive s e n then echoValue s.echo[e] else 0)).sum)

/-- A signal of a stall: the value last computed, or for CMD_n and CS_n last published (R157). -/
def signalOf (s : State) (n : Fin 32) (sig : Nat) : Int :=
  let t := match (s.stl[n]).result with | some r => applyCalc r s.stl[n] | none => s.stl[n]
  match sig with
  | 0 => t.fb0.toInt
  | 1 => t.spr.toInt
  | 2 => (s.stl[n]).cmd.toInt
  | 3 => t.low.toInt
  | 16 => t.pl.rf.toInt
  | 17 => t.echo.toInt
  | 18 => (s.sns.cs[n]).val.toInt
  | _ =>
    if h : 4 ≤ sig ∧ sig < 8 then (t.lane[sig - 4]'(by omega)).out.toInt
    else if h : 8 ≤ sig ∧ sig < 12 then (t.lane[sig - 8]'(by omega)).err.toInt
    else if h : 12 ≤ sig ∧ sig < 16 then ((t.lane[sig - 12]'(by omega)).int.extractLsb' 8 24).toInt
    else 0

/-- Whether a signal code is reserved (R157). -/
def sigReserved (c : Nat) : Bool := 19 ≤ c

/-! ## Registers and commands (R162, R167) -/

/-- RUN set: STAT, the sums and the phase are cleared. -/
def echoClear (e : Echo) : Echo :=
  { e with
    aborted := false, ovf := false, n := 0, ai := 0, aq := 0, bi := 0, bq := 0
    phase := 0, lfsr := 0x7FFF, wraps := 0, held := 0, done := false }

/-- An echo updated. -/
def updEcho (s : State) (e : Fin 4) (f : Echo → Echo) : State := { s with echo := upd s.echo e f }

/-- A write of an echo's register: while it runs, only a write of ECHO_e_CTRL that clears RUN is accepted (R162). Writing 1 to
RUN starts it (R167). -/
def echoRegWrite (e : Fin 4) (o : Nat) (d : W32) (s : State) : Option State :=
  let run := bit (s.echo[e]).ctrl 31
  let w (f : Echo → Echo) : Option State := if run then none else some (updEcho s e f)
  match o with
  | 0x00 =>
    let v := d &&& 0x8333001F
    if run && bit d 31 then none
    else if bit d 31 then some (updEcho s e (fun x => { echoClear x with ctrl := v }))
    else some (updEcho s e (fun x => { x with ctrl := v }))
  | 0x04 => w (fun x => { x with amp := d &&& 0xFFFFFF })
  | 0x08 => w (fun x => { x with freq := d })
  | 0x0C => w (fun x => { x with fstep := d })
  | 0x10 => w (fun x => { x with fend := d })
  | 0x14 => w (fun x => { x with cyc := d })
  | 0x18 => if sigReserved (fld d 13 8) || sigReserved (fld d 5 0) then none else w (fun x => { x with probe := d &&& 0x3F3F })
  | _ => if run then none else some s

/-- A write in the echo window (R167). -/
def echoWrite (off : Nat) (d : W32) (s : State) : Option State :=
  if h : off < 0x100 then echoRegWrite ⟨off / 0x40, by omega⟩ (off % 0x40) d s
  else if off = 0x100 then some { s with echoEvt := w1c s.echoEvt d }
  else if off = 0x104 then some { s with echoEvtEn := d &&& 0xF }
  else some s

/-- A half of a 64-bit sum. -/
def half64 (w : BitVec 64) (hi : Bool) : W32 := if hi then (w >>> 32).setWidth 32 else w.setWidth 32

/-- A read of an echo's register (R167). -/
def echoRegRead (e : Echo) (o : Nat) : W32 :=
  match o with
  | 0x00 => e.ctrl
  | 0x04 => e.amp
  | 0x08 => e.freq
  | 0x0C => e.fstep
  | 0x10 => e.fend
  | 0x14 => e.cyc
  | 0x18 => e.probe
  | 0x1C => putB (bit e.ctrl 31) 31 ||| putB e.aborted 30 ||| putB e.ovf 29 ||| put e.n 0
  | 0x20 => half64 e.ai false
  | 0x24 => half64 e.ai true
  | 0x28 => half64 e.aq false
  | 0x2C => half64 e.aq true
  | 0x30 => half64 e.bi false
  | 0x34 => half64 e.bi true
  | 0x38 => half64 e.bq false
  | 0x3C => half64 e.bq true
  | _ => 0

/-- A read in the echo window (R167). -/
def echoRead (off : Nat) (s : State) : W32 :=
  if h : off < 0x100 then echoRegRead (s.echo[off / 0x40]'(by omega)) (off % 0x40)
  else if off = 0x100 then s.echoEvt
  else if off = 0x104 then s.echoEvtEn
  else 0

/-- ECHO_START: a write of ECHO_e_CTRL with RUN = 1 (R155, R167). -/
def execEchoStart (m : Mid) (e : Fin 4) (data : W32) (s : State) : Host.Outcome State Fault Refusal :=
  let d := withBit data 31 true
  .next (busWrite m .echo (0x4010A000 + e.val * 0x40) d (echoRegWrite e 0 d) s)

/-- ECHO_STOP: a write of ECHO_e_CTRL with RUN = 0 (R162, R167). -/
def execEchoStop (m : Mid) (e : Fin 4) (data : W32) (s : State) : Host.Outcome State Fault Refusal :=
  let d := withBit data 31 false
  .next (busWrite m .echo (0x4010A000 + e.val * 0x40) d (echoRegWrite e 0 d) s)

/-- ECHO_END: the end count of a running echo is reached: RUN clears and the event is set (R155). -/
def execEchoEnd (e : Fin 4) (s : State) : Host.Outcome State Fault Refusal :=
  .next (if bit (s.echo[e]).ctrl 31 && (s.echo[e]).done && !unusable s 41 then
    { s with
      echo := upd s.echo e (fun x => { x with ctrl := withBit x.ctrl 31 false, done := true })
      echoEvt := withBit s.echoEvt e.val true }
  else s)

end Sys2Proof.Machine
end

