-- ==== Sys2Proof/Machine/LaneMath.lean ====
section
/-!
DEFINITION. LaneMath: the arithmetic of the loop engine to the bit: error, gains, lane update and preset, notches, ramp,
clamp, and the plausibility model (R107 to R116, R121, R122, R126, R146, R147).
-/

namespace Sys2Proof.Machine

open Sys2Proof

/-- A breakpoint of a gain table (R55). -/
def tabAt (l : Lpe) (t bp : Nat) : Nat := ((getCell l.table (t * 33 + bp)).getD 0).toNat

/-- The error of a lane, exact (R108). -/
def laneErr (inv : Bool) (sp fb : Int) : Int := if inv then fb - sp else sp - fb

/-- The gain of a table at an error (R109). -/
def gainAt (l : Lpe) (t : Nat) (e : Int) (escale : Nat) : Int :=
  let pos := min (e.natAbs * 131072 / escale) 131072
  let i := pos / 4096
  if i = 32 then tabAt l t 32
  else tabAt l t i + rhaDiv (((tabAt l t (i + 1) : Int) - tabAt l t i) * (pos % 4096 : Nat)) 4096

/-- bound() of the integrator (R112): the value, whether it saturated in SAT mode, whether the clamp changed it in CLAMP mode. -/
def boundInt (c : Lane) (x : Int) : Int × Bool × Bool :=
  if bit c.ctrl 28 then
    let v := max c.imin.toInt (min c.imax.toInt x)
    (v, false, v != x)
  else (satS 32 x, overS 32 x, false)

/-- The global indices of the KP and KI tables a lane uses at an error (R110, R135). -/
def laneTabs (p : Fin 8) (c : Lane) (e : Int) : Nat × Nat :=
  let b := 64 * p.val
  if bit c.ctrl 29 && e < 0 then (b + fld c.tab 21 16, b + fld c.tab 29 24) else (b + fld c.tab 5 0, b + fld c.tab 13 8)

/-- One computation of a lane (R108 to R112), or its preset to `h` at the first computation after it closes (R126). `c` holds
the lane's settings and `i0` its integrator; `sat` is a saturation at an echo's injection (R154). -/
def laneCompute (l : Lpe) (p : Fin 8) (c : Lane) (i0 : Int) (sp fb : Int) (preset : Option Int) (sat : Bool) : LaneRes :=
  let e0 := laneErr (bit c.ctrl 21) sp fb
  let e := satS 24 e0
  let tabs := laneTabs p c e
  let esc := fld c.escale 23 0
  let kp := gainAt l tabs.1 e esc
  let pt := rhaDiv (kp * e) 16
  let ft := rhaDiv ((c.ff.extractLsb' 0 16).toInt * sp) 16
  let b := match preset with
    | none => boundInt c (i0 + rhaDiv (gainAt l tabs.2 e esc * e) 16)
    | some h => boundInt c (h * 256 - pt - ft)
  let o := rhaDiv (pt + b.1 + ft) 256
  { int := BitVec.ofInt 32 b.1
    out := BitVec.ofInt 24 (satS 24 o)
    err := BitVec.ofInt 24 e
    computed := true
    satArith := sat || overS 24 e0 || (preset.isNone && overS 24 o)
    satInt := preset.isNone && b.2.1
    presetLim := preset.isSome && (b.2.1 || b.2.2 || overS 24 o)
    clamped := preset.isNone && b.2.2 }

/-- One sample of a notch filter: the output, its state, and whether it saturated (R115). -/
def notchStep (en : Bool) (k : NotchCo) (st : NotchSt) (x : Int) : Int × NotchSt × Bool :=
  if !en then (x, st, false)
  else
    let q := if st.fresh then { x1 := x, x2 := x, y1 := x, y2 := x, fresh := false } else st
    let y0 := rhaDiv (k.b0.toInt * x + k.b1.toInt * q.x1 + k.b2.toInt * q.x2 - k.a1.toInt * q.y1 - k.a2.toInt * q.y2) (2 ^ 29)
    let y := satS 24 y0
    (y, { x1 := x, x2 := q.x1, y1 := y, y2 := q.y1, fresh := false }, overS 24 y0)

/-- CMD_MAX as it acts (R134). -/
def cmdMaxOf (w : W32) : Int := min (fld w 23 0) 0x400000

/-- One step of the set-point ramp (R121). -/
def rampStep (spr target : Int) (up dn : Nat) : Int :=
  if spr < target then (if up = 0 then target else spr + min (up : Int) (target - spr))
  else if target < spr then (if dn = 0 then target else spr - min (dn : Int) (spr - target))
  else spr

/-- The lane that wins the selection: the lowest output, the lower number on a tie (R114). -/
def winner (l : List (Nat × Int)) : Nat × Int :=
  l.foldl (fun b c => if c.2 < b.2 then c else b) (l.headD (0, 0))

/-- One test of the plausibility model (R146): its run state and whether rs is beyond DRIFT_TH. `init` takes y1 and u1 from
this sample without a test. -/
def plausStep (m : Samp) (init : Bool) (p : Plaus) (y u : Int) : Plaus × Bool :=
  if init then ({ p with y1 := y, u1 := u, rf := 0, cnt := 0, fresh := false }, false)
  else
    let yp := satS 24 (rhaDiv (s24 m.plA * p.y1 + s24 m.plB * p.u1 + s24 m.plC * 1048576) 1048576)
    let r := satS 24 (y - yp)
    let rf := p.rf.toInt + rhaDiv (r - p.rf.toInt) (2 ^ fld m.plCtrl 26 24)
    let rs := p.rs.toInt + rhaDiv (r * 256 - p.rs.toInt) (2 ^ fld m.plCtrl 23 20)
    ({ y1 := y, u1 := u
       rf := BitVec.ofInt 24 rf
       rs := BitVec.ofInt 32 rs
       cnt := if fld m.plTh 23 0 < rf.natAbs then satInc p.cnt 255 else 0
       fresh := false }, fld m.plDth 23 0 * 256 < rs.natAbs)

/-- The class of a plausibility failure (R147), if the count has reached PLAUS_N. -/
def plausCause (m : Samp) (p : Plaus) (limPrev : Bool) (since : Nat) : Option Nat :=
  if p.cnt < max (fld m.plCtrl 15 8) 1 then none
  else if bit m.plCtrl 30 && m.vsel < s24 m.plVsh then some 3
  else if p.rf.toInt < 0 && limPrev then some 4
  else if since < 64 then some 5
  else if 0 < p.rf.toInt then some 6 else some 7

end Sys2Proof.Machine
end

