-- ==== Sys2Proof/Machine/Lpe.lean ====
section
/-!
DEFINITION. Lpe: the sample, the computation and the update of a stall, scenes, deadlines and capacity (R104, R113 to R130,
R146, R149).
-/

namespace Sys2Proof.Machine

open Sys2Proof

/-- The loop engine's global block updated. -/
def updLpe (s : State) (f : Lpe → Lpe) : State := { s with lpe := f s.lpe }

/-- A bit of LPE_EVT set: 0 FAULT, 1 MISS, 2 SCENE (R137). -/
def lpeEvt (i : Nat) (s : State) : State := updLpe s (fun l => { l with evt := withBit l.evt i true })

/-! ## Utilisation (R119, R136) -/

/-- Enabled notches of a stall. -/
def notches (t : Stall) : Nat := t.naEn.toNat + t.nbEn.toNat

/-- DEC + 1 of a lane. -/
def laneM (l : Lane) : Nat := fld l.ctrl 27 22 + 1

/-- A fraction with a further term added. -/
def addFrac (a b : Nat × Nat) : Nat × Nat := (a.1 * b.2 + b.1 * a.2, a.2 * b.2)

/-- What a stall adds to the utilisation, in cycles per tick, as a fraction (R119). -/
def stallCost (t : Stall) : Nat × Nat :=
  let lanes := t.lane.toList.foldl (fun q l => if bit l.ctrl 30 then addFrac q (36, laneM l) else q)
    (20 + 10 * notches t + 12 * (bit t.plCtrl 31).toNat, 1)
  (lanes.1, lanes.2 * max (periodOf t) 1)

/-- The utilisation of the enabled stalls of a list, in cycles per tick, as a fraction. -/
def loadOf (s : State) (l : List (Fin 32)) : Nat × Nat :=
  l.foldl (fun q n => if (s.stl[n]).en && !pdkUnusable s (pdkOf n) then addFrac q (stallCost s.stl[n]) else q) (0, 1)

/-- A load in per mille of the capacity, rounded up. -/
def perMille (q : Nat × Nat) : Nat := (1000 * q.1 + 1536 * q.2 - 1) / (1536 * q.2)

/-- LPE_LOAD.AVG (R119, R137). -/
def loadAvg (s : State) : Nat := perMille (loadOf s (idx 32))

/-! ## The sample (R78, R113, R117, R123, R126, R128) -/

/-- The scene that wins among the posts: the highest PRIO, then the lower number (R123). -/
def winScene (t : Stall) : Option (Fin 8) :=
  ((idx 8).filter (fun k => t.posts.getLsbD k.val)).foldl (fun b k => match b with
    | none => some k
    | some a => if fld t.scn[a] 26 24 < fld t.scn[k] 26 24 then some k else some a) none

/-- A stall takes the winning scene of its posts (R123). -/
def takeScene (n : Fin 32) (s : State) : State :=
  match winScene s.stl[n] with
  | none => s
  | some k =>
    let s' := updStl s n (fun t => { t with
      sp := (t.scn[k]).extractLsb' 0 24, scnFw := false, scnPrio := fld t.scn[k] 26 24, scnCur := k.val
      posts := 0, sawScene := true })
    if (s.stl[n]).scnIe then lpeEvt 2 (updLpe s' (fun l => { l with sceneBy := withBit l.sceneBy n.val true })) else s'

/-- Whether lane `j` of a stall, in the schedule, is closed at this sample. -/
def laneClosed (s : State) (n : Fin 32) (j : Fin 4) : Bool :=
  bit ((s.stl[n]).lane[j]).ctrl 30 && !laneOpen s n j && !laneStale s (s.stl[n]).lane[j]

/-- The flags and the decimation count of a lane at a sample (R113, R126, R128). -/
def laneSample (s : State) (n : Fin 32) (j : Fin 4) (l : Lane) : Lane :=
  let en := bit l.ctrl 30
  let closed := laneClosed s n j
  { l with
    stale := en && laneStale s l
    frozen := en && !closed
    fresh := l.fresh || !closed || l.mark
    mark := false
    join := l.join && en && !laneOpen s n j
    dec := if l.dec + 1 < laneM l then l.dec + 1 else 0 }

/-- What a stall latches at its sample instant; `old` is the stall before a scene was taken, and `by0` whether its scenes had set
LPE_EVT.SCENE. While UNPARKING the ramp's target is the set-point of the held post that wins, which is taken at the first sample in
LIVE (R31, R70). -/
def latch (s : State) (n : Fin 32) (old : Stall) (by0 : Bool) : Samp :=
  let t := s.stl[n]
  let v (f : Lane → Int) : Vector Int 4 := t.lane.map f
  let b (f : Fin 4 → Bool) : Vector Bool 4 := Vector.ofFn f
  { fb := v (fun l => senseBus s (fld l.ctrl 7 0))
    sp := v (fun l => senseBus s (fld l.ctrl 15 8))
    closed := b (laneClosed s n)
    comp := b (fun j => laneClosed s n j && (t.lane[j]).dec = 0)
    lanes := t.lane
    naEn := t.naEn, nbEn := t.nbEn, na := t.na, nb := t.nb
    rampUp := t.rampUp, rampDn := t.rampDn, cmdMax := t.cmdMax
    plCtrl := t.plCtrl, plA := t.plA, plB := t.plB, plC := t.plC, plTh := t.plTh, plDth := t.plDth, plVsh := t.plVsh
    vsel := senseBus s (fld t.plCtrl 7 0)
    target := if pdkState s (pdkOf n) = .unparking then (match winScene t with | some k => (t.scn[k]).extractLsb' 0 24 | none => t.sp) else t.sp
    undoSp := old.sp, undoFw := old.scnFw, undoPrio := old.scnPrio, undoCur := old.scnCur, undoPosts := old.posts
    undoSaw := old.sawScene, undoBy := by0 }

/-! ## The computation (R104, R118, R119, R154) -/

/-- The cycles of a sample (R119). -/
def sampleCost (m : Samp) : Nat :=
  20 + 36 * (m.comp.toList.filter id).length + 10 * (m.naEn.toNat + m.nbEn.toNat) + 12 * (bit m.plCtrl 31).toNat

/-- The set-point and feedback of a lane with the echoes added, and whether an addition saturated (R121, R154). -/
def laneInputs (s : State) (n : Fin 32) (m : Samp) (y spr : Int) (j : Fin 4) : Int × Int × Bool :=
  let l := m.lanes[j]
  let sp := if fld l.ctrl 15 8 = 0xFF then (if j = 0 then spr else s24 l.sp) else m.sp[j]
  let a := inject s n 0 j.val sp
  let b := inject s n 1 j.val (if j = 0 then y else m.fb[j])
  (a.1, b.1, a.2 || b.2)

/-- What lane `j` computes at a sample. -/
def laneResult (s : State) (n : Fin 32) (m : Samp) (y spr : Int) (j : Fin 4) : LaneRes :=
  let t := s.stl[n]
  let l := t.lane[j]
  if m.comp[j] then
    let i := laneInputs s n m y spr j
    let h : Option Int := if l.fresh then some (if l.join then t.held.toInt else l.out.toInt) else none
    laneCompute s.lpe (pdkOf n) m.lanes[j] l.int.toInt i.1 i.2.1 h i.2.2
  else { int := l.int, out := l.out, err := l.err }

/-- The whole computation of a sample (R104 steps 1 to 5, R146). -/
def computeStall (s : State) (n : Fin 32) (m : Samp) : Calc :=
  let t := s.stl[n]
  let st := pdkState s (pdkOf n)
  let na := notchStep m.naEn m.na t.naSt m.fb[0]
  let spr := if t.first then na.1 else rampStep t.spr.toInt m.target.toInt (fld m.rampUp 23 0) (fld m.rampDn 23 0)
  let lanes := Vector.ofFn (laneResult s n m na.1 spr)
  let low := winner (((idx 4).filter (fun j => bit (m.lanes[j]).ctrl 30)).map (fun j => (j.val, (lanes[j]).out.toInt)))
  let a := inject s n 2 0 low.2
  let nb := notchStep m.nbEn m.nb t.nbSt a.1
  let b := inject s n 3 0 nb.1
  let c := clampI 0 (cmdMaxOf m.cmdMax) b.1
  let cmd := if st = .unparking && t.first then t.held.toInt else c
  let runs := bit m.plCtrl 31 && (st = .live || st = .unparking)
  let init := t.pl.fresh || st != .live
  let pl := if runs then plausStep m init t.pl na.1 cmd else (t.pl, false)
  { lanes := lanes, na := na.2.1, nb := nb.2.1
    spr := BitVec.ofInt 24 spr, cmd := BitVec.ofInt 24 cmd, win := low.1, cmdLim := c != b.1
    sat := na.2.2 || nb.2.2 || a.2 || b.2
    low := BitVec.ofInt 24 low.2, fb0 := BitVec.ofInt 24 na.1, echo := BitVec.ofInt 24 (echoSum s n)
    pl := pl.1, drift := pl.2
    cause := if runs && !init then plausCause m pl.1 t.cmdLim t.since else none }

/-- The echoes of a stall advance with its sample and take their sums from its signals (R155, R156). -/
def advanceEchoes (s : State) (n : Fin 32) (r : Calc) : State :=
  let after := updStl s n (applyCalc r)
  (idx 4).foldl (fun q e =>
    if echoActive s e n then
      let p := (s.echo[e]).probe
      updEcho q e (echoAdvance (signalOf after n (fld p 5 0)) (signalOf after n (fld p 13 8)))
    else q) s

/-- Whether a stall's pending sample comes before another's: the earlier update instant, then the lower number (R118). -/
def sooner (a b : Stall) (n k : Fin 32) : Bool :=
  let x := a.due.getD 0
  let y := b.due.getD 0
  x < y || (x = y && n.val ≤ k.val)

/-- Whether a stall's pending sample is the one a datapath takes next (R118). -/
def nextSample (s : State) (n : Fin 32) : Bool :=
  (idx 32).all (fun k => (s.stl[k]).samp.isNone || !stallOn s k || sooner s.stl[n] s.stl[k] n k)

/-- STALL_COMPUTE: a datapath computes the pending sample of a stall, which must be the next in order. -/
def execStallCompute (n : Fin 32) (s : State) : Host.Outcome State Fault Refusal :=
  .next (match (s.stl[n]).samp with
    | none => s
    | some m =>
      if !stallOn s n || !nextSample s n then s
      else
        let r := computeStall s n m
        let t := updLpe (advanceEchoes s n r) (fun l =>
          let k := l.tickLoad + sampleCost m
          { l with tickLoad := k, peak := max l.peak k })
        updStl t n (fun x => { x with samp := none, result := some r }))

/-! ## The update (R118, R125, R130, R140, R141, R149) -/

/-- A missed deadline: the previous command is held, the sample and the scene it took are undone, and the miss counts (R129,
R130). -/
def missStall (t : Stall) : Stall :=
  let u := match t.samp with
    | none => t
    | some m => { t with
        sp := if t.scnFw then t.sp else m.undoSp
        scnFw := t.scnFw || m.undoFw
        scnPrio := m.undoPrio, scnCur := m.undoCur, posts := t.posts ||| m.undoPosts
        sawScene := t.sawScene && m.undoSaw
        samp := none }
  { u with
    miss := true, missCnt := satInc t.missCnt 65535, missRun := satInc t.missRun 255, sawMiss := true, lastMiss := true }

/-- A missed sample's scene no longer counts in LPE_EVT.SCENE: the bit clears if this sample alone had set it (R130). -/
def undoScene (n : Fin 32) (s : State) : State :=
  match (s.stl[n]).samp with
  | some m =>
    if m.undoBy || !bit s.lpe.sceneBy n.val then s
    else updLpe s (fun l =>
      let w := withBit l.sceneBy n.val false
      { l with sceneBy := w, evt := if w = 0 then withBit l.evt 2 false else l.evt })
  | none => s

/-- CMD_n and SPR_n are published (R116). -/
def publishCmd (n : Fin 32) (s : State) : State := published (0x60 + n.val) (published (0x40 + n.val) s)

/-- The command of a stall whose EN was cleared becomes zero and it leaves the schedule (R125). -/
def leaveUpdate (n : Fin 32) (s : State) : State :=
  let p := pdkOf n
  let q := s.cfg.pdk[p]
  let s := updStl s n (fun t =>
    let t := gateLow { leaveStall t with cmd := 0 }
    if q.state = .parking && q.begun then freezeStall q.hold t
    else if q.state = .unparking && q.begun then { t with updated := true, frz := none } else t)
  liveCheck p (parkCheck p (publishCmd n s))

/-- The result of a stall's sample, or its absence, at the update instant. -/
def commitStall (n : Fin 32) (s : State) : State :=
  match (s.stl[n]).result with
  | some r => updStl s n (applyCalc r)
  | none =>
    let s := lpeEvt 1 (updStl (undoScene n s) n missStall)
    updLpe s (fun l => { l with missMap := withBit l.missMap n.val true })

/-- The causes present at a decision point (R149): `t` is the stall before it, `u` after its result was applied. -/
def causesOf (t u : Stall) : List Nat :=
  t.pendC.toList ++ (match t.result with | some r => r.cause.toList | none => [])
    ++ (if t.result.isNone && u.missLimit ≤ u.missRun then [8] else [])

/-- The first output update of UNPARKING takes the registers' settings and stops the held time, and the last of the four makes
the paddock LIVE (R68, R69, R70). -/
def firstUpdate (n : Fin 32) (done : Bool) (s : State) : State :=
  if done && pdkState s (pdkOf n) = .unparking then
    liveCheck (pdkOf n) (updPdk (updStl s n (fun t => { t with updated := true, frz := none, rise := s.time })) (pdkOf n)
      (fun q => { q with holdRun := false }))
  else s

/-- The update instant of a stall's sample: its result is applied, or missed, and the stall decides on the causes present; one
whose EN was cleared has the command zero, leaves the schedule, and joins it again if EN is set (R118, R125, R130, R149). -/
def stallUpdate (n : Fin 32) (s : State) : State :=
  let t := s.stl[n]
  let u := updStl (commitStall n s) n (fun x => { x with since := satInc x.since 64, due := none, updT := some s.time })
  let cs := causesOf t u.stl[n]
  if !cs.isEmpty then faultEntry n cs u
  else if t.en && !t.leaving then publishCmd n (firstUpdate n t.result.isSome u)
  else
    let v := leaveUpdate n u
    if t.en && pdkState v (pdkOf n) = .live then updStl v n (joinStall none) else v

/-- STALL_UPDATE: the update instant of a stall. A stall outside the schedule only decides on a cause that its over-current
count left pending (R149, R72). -/
def execStallUpdate (n : Fin 32) (s : State) : Host.Outcome State Fault Refusal :=
  .next (if !stallOn s n then s
    else
      let t := s.stl[n]
      if t.run then (if dueNow s n then stallUpdate n s else s)
      else if t.active then s
      else match t.pendC with | some c => faultEntry n [c] s | none => s)

/-! ## The sample instant (R117, R120, R123) -/

/-- Whether a stall takes its own current: an enabled lane selects CS_n (R117, log 72). -/
def usesOwn (t : Stall) (n : Fin 32) : Bool :=
  t.lane.toList.any (fun l => bit l.ctrl 30 && (fld l.ctrl 7 0 = n.val || fld l.ctrl 15 8 = n.val))

/-- Whether this is the sample instant of a stall: its sample tick, once, and the publication of CS_n where its lane converts and
the stall uses it. -/
def sampleNow (s : State) (n : Fin 32) : Bool :=
  let t := s.stl[n]
  sampleTick t (tickOf s n).toNat && !t.sampled && (!(laneOn s (laneOf n) && usesOwn t n) || (s.sns.cs[n]).now)

/-- Whether a stall is in the schedule at its sample instant, or joins it now: one that joins waits for a tick boundary (R120). -/
def inSchedule (s : State) (n : Fin 32) : Bool :=
  let t := s.stl[n]
  if t.joining then (match t.joinT with | some k => n.val % 2 = 0 || s.lpe.tick != k | none => false) else t.run

/-- The sample of a stall: its inputs and settings are latched, and the sample becomes pending for a datapath until the update
instant (R117, R118). -/
def takeSample (n : Fin 32) (old : Stall) (by0 : Bool) (s : State) : State :=
  let s := updStl s n (fun x => { x with run := true, joining := false, joinT := none })
  let m := latch s n old by0
  updStl s n (fun x => { x with
    samp := some m, result := none
    due := some (s.time + fld x.timing 29 24 * 1536 / 10)
    naMark := false, nbMark := false, plMark := false, rsMark := false
    lane := (idx 4).foldl (fun v j => upd v j (laneSample s n j)) x.lane })

/-- STALL_SAMPLE: the sample instant of a stall. In a LIVE paddock it takes a scene from its posts, which a disabled stall does too;
in the schedule it latches its sample. An update that is due at this instant is carried out first (log 72). -/
def execStallSample (n : Fin 32) (s : State) : Host.Outcome State Fault Refusal :=
  .next (if !stallOn s n || !sampleNow s n then s
    else
      let s := if dueNow s n then stallUpdate n s else s
      if (s.stl[n]).due.isSome then s
      else
        let old := s.stl[n]
        let by0 := bit s.lpe.sceneBy n.val
        let s := updStl s n (fun x => { x with sampled := true })
        let s := if pdkState s (pdkOf n) = .live then takeScene n s else s
        if inSchedule s n then takeSample n old by0 s else s)

/-- LPE_TICK: the tick count advances, a new tick's capacity begins, and stalls that join are taken in (R117, R120). -/
def execLpeTick (s : State) : Host.Outcome State Fault Refusal :=
  .next (if lpeOn s && s.lpe.tickDue = 0 then
    let s := updLpe s (fun l => { l with tick := l.tick + 1, tickLoad := 0, tickDue := tickLen })
    { s with
      stl := s.stl.map (fun t => { t with
        sampled := false, joinT := if t.joining && t.joinT.isNone then some s.lpe.tick else t.joinT })
      sns := { s.sns with cs := s.sns.cs.map (fun c => { c with now := false }) } }
  else s)

end Sys2Proof.Machine
end

