-- ==== Sys2Proof/Machine/StallRegs.lean ====
section
/-!
DEFINITION. StallRegs: the registers of stalls, lanes, paddock windows and the loop engine, with their write classes and
refusals, and the commands that write them (R105, R106, R123 to R127, R132, R134 to R137, R152, R162, R166).
-/

namespace Sys2Proof.Machine

open Sys2Proof

/-! ## Reading (R134, R135, R166) -/

/-- Element `i` of five notch coefficients. -/
def notchAt (k : NotchCo) (i : Nat) : W32 :=
  match i with | 0 => k.b0 | 1 => k.b1 | 2 => k.b2 | 3 => k.a1 | _ => k.a2

/-- Five notch coefficients with one replaced. -/
def notchSet (k : NotchCo) (i : Nat) (d : W32) : NotchCo :=
  match i with
  | 0 => { k with b0 := d }
  | 1 => { k with b1 := d }
  | 2 => { k with b2 := d }
  | 3 => { k with a1 := d }
  | _ => { k with a2 := d }

/-- A signed or unsigned 24-bit field in bits 23:0. -/
def put24 (v : BitVec 24) : W32 := v.setWidth 32

/-- A read of a lane register (R135). -/
def laneRead (s : State) (n : Fin 32) (j : Fin 4) (o : Nat) : W32 :=
  let l := (s.stl[n]).lane[j]
  match o with
  | 0x00 => l.ctrl
  | 0x04 => l.tab
  | 0x08 => l.escale
  | 0x0C => l.ff
  | 0x10 => l.imin
  | 0x14 => l.imax
  | 0x18 => l.sp
  | 0x1C => l.int
  | 0x20 => put24 l.out
  | 0x24 => put24 l.err
  | 0x28 =>
    putB l.satArith 31 ||| putB l.satInt 30 ||| putB l.presetLim 29 ||| putB l.stale 27 ||| putB (laneFrozen s n j) 26
      ||| put l.clampCnt 0
  | _ => 0

/-- WAIT in ms, rounded up (R166). -/
def waitMs (t : Stall) : Nat := min ((t.waitCyc + msCyc - 1) / msCyc) 65535

/-- A read of an output or guard register (R166). -/
def guardRead (t : Stall) (o : Nat) : W32 :=
  match o with
  | 0xC0 => t.out
  | 0xC4 => t.pwm
  | 0xC8 => t.prot
  | 0xCC => put t.retryMax 24 ||| put t.used 16 ||| put (waitMs t) 0
  | 0xD0 => putB t.active 31 ||| putB t.drift 29 ||| put t.firstC 16 ||| t.causes.setWidth 32
  | 0xD4 => t.plCtrl
  | 0xD8 => t.plA
  | 0xDC => t.plB
  | 0xE0 => t.plC
  | 0xE4 => t.plTh
  | 0xE8 => t.plDth
  | 0xEC => t.plVsh
  | 0xF0 => put (min t.pl.cnt 255) 24 ||| put24 t.pl.rf
  | 0xF4 => t.pl.rs
  | 0xF8 => put t.ocTrips 8 ||| put t.ocRun 0
  | _ => 0

/-- A read of a stall register (R134). -/
def stallRead (n : Fin 32) (off : Nat) (s : State) : W32 :=
  let t := s.stl[n]
  if h : 0x100 ≤ off ∧ off < 0x200 then laneRead s n ⟨(off - 0x100) / 0x40, by omega⟩ (off % 0x40)
  else if 0xC0 ≤ off then guardRead t off
  else if h : 0x80 ≤ off ∧ off < 0xA0 then t.scn[(off - 0x80) / 4]'(by omega)
  else if 0x40 ≤ off ∧ off < 0x54 then notchAt t.na ((off - 0x40) / 4)
  else if 0x60 ≤ off ∧ off < 0x74 then notchAt t.nb ((off - 0x60) / 4)
  else match off with
    | 0x00 => putB t.en 31 ||| putB t.scnIe 3 ||| putB t.nbEn 2 ||| putB t.naEn 1
    | 0x04 =>
      putB t.coefRej 31 ||| putB t.miss 30 ||| putB t.sat 29 ||| putB t.cmdLim 28 ||| putB (ramping t) 27 ||| putB t.run 26
        ||| put t.win 24
    | 0x08 => t.timing
    | 0x0C => put t.missLimit 16 ||| put t.missCnt 0
    | 0x10 => put24 t.sp
    | 0x14 => t.rampUp
    | 0x18 => t.rampDn
    | 0x1C => put24 t.spr
    | 0x20 => put24 t.cmd
    | 0x24 => t.cmdMax
    | 0x28 => putB t.scnFw 31 ||| putB (t.posts != 0) 8 ||| put t.scnPrio 4 ||| put t.scnCur 0
    | _ => 0

/-! ## Write classes (R127, R162) -/

/-- The RW bits of a stall register. -/
def stallMask (off : Nat) : W32 :=
  if 0x100 ≤ off ∧ off < 0x200 then
    match off % 0x40 with
    | 0x00 => 0xFFE0FFFF
    | 0x04 => 0x3F3F3F3F
    | 0x08 => 0x00FFFFFF
    | 0x0C => 0x0000FFFF
    | 0x10 => 0xFFFFFFFF
    | 0x14 => 0xFFFFFFFF
    | 0x18 => 0x00FFFFFF
    | _ => 0
  else if 0x80 ≤ off ∧ off < 0xA0 then 0x87FFFFFF
  else if (0x40 ≤ off ∧ off < 0x54) ∨ (0x60 ≤ off ∧ off < 0x74) then 0xFFFFFFFF
  else match off with
    | 0x00 => 0x8000000E
    | 0x08 => 0x3FFF00FF
    | 0x0C => 0x00FF0000
    | 0x10 | 0x14 | 0x18 | 0x24 => 0x00FFFFFF
    | 0xC0 => 0xF3300000
    | 0xC4 => 0xFFFFFFFF
    | 0xC8 => 0x3F0F0F00
    | 0xCC => 0x07000000
    | 0xD4 => 0xC7F0FFFF
    | 0xD8 | 0xDC | 0xE0 | 0xE4 | 0xE8 | 0xEC => 0x00FFFFFF
    | _ => 0

/-- The bits of the Structure class. -/
def structMask (off : Nat) : W32 :=
  if 0x100 ≤ off then (if off % 0x40 = 0 then 0x4FE0FFFF else 0)
  else if off = 0x08 then 0x3FFF00FF
  else if off = 0xC0 then 0xE0000000
  else if off = 0xC4 then 0xFFFFFFFF
  else 0

/-- The bits of the Coefficients class of a lane. -/
def coefMask (off : Nat) : W32 :=
  if 0x100 ≤ off then
    match off % 0x40 with
    | 0x00 => 0x30000000
    | 0x04 | 0x08 | 0x0C | 0x10 | 0x14 => 0xFFFFFFFF
    | _ => 0
  else 0

/-- The bits of the Notch class of NOTCH_A. -/
def naMask (off : Nat) : W32 := if off = 0 then 2 else if 0x40 ≤ off ∧ off < 0x54 then 0xFFFFFFFF else 0

/-- The bits of the Notch class of NOTCH_B. -/
def nbMask (off : Nat) : W32 := if off = 0 then 4 else if 0x60 ≤ off ∧ off < 0x74 then 0xFFFFFFFF else 0

/-- The bits of the Coefficients class of the model (R162). -/
def plMask (off : Nat) : W32 :=
  if off = 0xD4 then 0x7FFFFFFF else if off = 0xD8 ∨ off = 0xDC ∨ off = 0xE0 then 0xFFFFFFFF else 0

/-- The lane that an offset belongs to. -/
def laneOfOff (off : Nat) : Fin 4 := ⟨(off / 0x40) % 4, by omega⟩

/-- Whether a Structure field may change (R127). -/
def structOk (s : State) (m : Mid) (n : Fin 32) : Bool :=
  match pdkState s (pdkOf n) with
  | .parked | .verified => true
  | .loading => m = .cfg
  | _ => false

/-- Whether every enabled lane of a stall is open. -/
def lanesOpen (s : State) (n : Fin 32) : Bool := (idx 4).all (fun j => !bit ((s.stl[n]).lane[j]).ctrl 30 || laneOpen s n j)

/-- Whether the changed bits include a coefficient or notch field outside its condition (R127, R162). -/
def coefBad (s : State) (n : Fin 32) (off : Nat) (ch : W32) : Bool :=
  (ch &&& coefMask off != 0 && !laneOpen s n (laneOfOff off))
    || (ch &&& naMask off != 0 && !laneOpen s n 0)
    || (ch &&& nbMask off != 0 && !lanesOpen s n)
    || (ch &&& plMask off != 0 && bit (s.stl[n]).plCtrl 31 && (s.stl[n]).run)

/-- Whether a value is outside its field's range, or selects what may not be selected (R105, R106, R132, R138, R152, R162). -/
def rangeBad (t : Stall) (off : Nat) (v : W32) : Bool :=
  if 0x100 ≤ off then
    let l0 := laneOfOff off = 0
    match off % 0x40 with
    | 0x00 =>
      codeReserved (fld v 15 8) || codeReserved (fld v 7 0) || fld v 7 0 = 0xFF
        || (l0 && (!bit v 30 || fld v 27 22 != 0))
    | 0x08 => fld v 23 0 = 0
    | _ => false
  else match off with
    | 0x00 => bit v 31 && t.active
    | 0x08 =>
      let per := fld v 7 0
      per = 0 || 200 < per || per ≤ fld v 23 16 || fld v 29 24 = 0 || 40 < fld v 29 24 || per * 5 < fld v 29 24
    | 0x0C => fld v 23 16 = 0
    | 0xC0 => fld v 31 30 = 3
    | 0xC4 => fld v 31 16 < 256 || fld v 31 16 ≤ fld v 15 0
    | 0xD4 => codeReserved (fld v 7 0)
    | _ => false

/-! ## Writing -/

/-- STL_n_CTRL: enabling and disabling, and enabling a filter (R115, R125, R142, R145). -/
def setCtrl (live : Bool) (now : Nat) (m : Mid) (v : W32) (t : Stall) : Stall :=
  let e := bit v 31
  let a := bit v 1 && !t.naEn
  let b := bit v 2 && !t.nbEn
  let u := { t with
    scnIe := bit v 3, naEn := bit v 1, nbEn := bit v 2
    naSt := { t.naSt with fresh := t.naSt.fresh || a }, naMark := t.naMark || a
    nbSt := { t.nbSt with fresh := t.nbSt.fresh || b }, nbMark := t.nbMark || b
    frz := if m = .cfg then t.frz else t.frz.map (fun f => { f with en := e }) }
  if e && !t.en then enableStall live now none u
  else if !e && t.en then { u with en := false, joining := false, joinT := none, leaving := t.run, runCyc := 0 }
  else u

/-- STL_n_FAULT: CLR and the W1C fields (R149, R152, R166). -/
def setFault (d : W32) (t : Stall) : Stall :=
  let u := { t with
    drift := t.drift && !bit d 29
    causes := t.causes &&& ~~~ (d.setWidth 9 &&& 0x1FE) }
  let u := { u with firstC := if u.causes = 0 then 0 else u.firstC }
  if bit d 30 then { u with active := false, retryPend := false, used := 0, waitCyc := 0 } else u

/-- A stall register takes the RW bits `v` of a write of `d` (R134, R146, R166). -/
def stallSet (live : Bool) (now : Nat) (m : Mid) (off : Nat) (d v : W32) (t : Stall) : Stall :=
  if h : 0x80 ≤ off ∧ off < 0xA0 then { t with scn := t.scn.set ((off - 0x80) / 4) v }
  else if 0x40 ≤ off ∧ off < 0x54 then { t with na := notchSet t.na ((off - 0x40) / 4) v }
  else if 0x60 ≤ off ∧ off < 0x74 then { t with nb := notchSet t.nb ((off - 0x60) / 4) v }
  else match off with
    | 0x00 => setCtrl live now m v t
    | 0x04 => { t with coefRej := t.coefRej && !bit d 31, miss := t.miss && !bit d 30, sat := t.sat && !bit d 29 }
    | 0x08 => { t with timing := v }
    | 0x0C => { t with missLimit := fld v 23 16, missCnt := if bit d 31 then 0 else t.missCnt }
    | 0x10 => { t with sp := v.setWidth 24, scnFw := t.scnFw || m != .cfg }
    | 0x14 => { t with rampUp := v }
    | 0x18 => { t with rampDn := v }
    | 0x24 => { t with cmdMax := v }
    | 0xC0 => { t with out := v }
    | 0xC4 => { t with pwm := v }
    | 0xC8 => { t with prot := v }
    | 0xCC => { t with retryMax := fld v 26 24 }
    | 0xD0 => setFault d t
    | 0xD4 =>
      let a := bit v 31 && !bit t.plCtrl 31
      { t with plCtrl := v, pl := { t.pl with fresh := t.pl.fresh || a }, plMark := t.plMark || a }
    | 0xD8 => { t with plA := v, pl := { t.pl with rs := 0 }, rsMark := true }
    | 0xDC => { t with plB := v, pl := { t.pl with rs := 0 }, rsMark := true }
    | 0xE0 => { t with plC := v, pl := { t.pl with rs := 0 }, rsMark := true }
    | 0xE4 => { t with plTh := v }
    | 0xE8 => { t with plDth := v }
    | 0xEC => { t with plVsh := v }
    | 0xF8 => { t with ocTrips := if bit d 31 then 0 else t.ocTrips }
    | _ => t

/-- A lane register takes the RW bits `v` of a write of `d`; `frozen` is FROZEN as it reads (R135). -/
def laneSet (o : Nat) (d v : W32) (frozen : Bool) (l : Lane) : Lane :=
  match o with
  | 0x00 => { l with ctrl := v, mark := l.mark || !bit v 31 }
  | 0x04 => { l with tab := v }
  | 0x08 => { l with escale := v }
  | 0x0C => { l with ff := v }
  | 0x10 => { l with imin := v }
  | 0x14 => { l with imax := v }
  | 0x18 => { l with sp := v }
  | 0x28 => { l with
      satArith := l.satArith && !bit d 31, satInt := l.satInt && !bit d 30, presetLim := l.presetLim && !bit d 29
      clampCnt := if bit d 29 && frozen then 0 else l.clampCnt }
  | _ => l

/-- The gate of a stall goes low if it may no longer be driven. -/
def cutGate (n : Fin 32) (s : State) : State := if drives s n then s else updStl s n gateLow

/-- An accepted write of a stall register. Enabling a stall aborts an entry to SLUMBER (R325). -/
def stallTake (m : Mid) (n : Fin 32) (off : Nat) (d v : W32) (s : State) : State :=
  if 0x100 ≤ off then
    let j := laneOfOff off
    updLane s n j (laneSet (off % 0x40) d v (laneFrozen s n j))
  else
    let s := if off = 0 && bit v 31 && !(s.stl[n]).en then fence s else s
    cutGate n (updStl s n (stallSet (pdkState s (pdkOf n) = .live) s.time m off d v))

/-- A write of a stall register: whether it is accepted, and the state after it (R64, R127). A coefficient refused while the stall runs
in UNPARKING sets COEF_REJ too (the model's choice, log 73). -/
def stallWrite (m : Mid) (n : Fin 32) (off : Nat) (d : W32) (s : State) : Bool × State :=
  let st := pdkState s (pdkOf n)
  let mask := stallMask off
  let v := d &&& mask
  let ch := (stallRead n off s &&& mask) ^^^ v
  if coefBad s n off ch then (false, updStl s n (fun t => { t with coefRej := true }))
  else if (st = .loading || st = .unparking) && m != .cfg then (false, s)
  else if (ch &&& structMask off != 0 && !structOk s m n) || rangeBad s.stl[n] off v then (false, s)
  else (true, stallTake m n off d v s)

/-- A write of a paddock window (R64, R136). -/
def pdkWrite (m : Mid) (p : Fin 8) (off : Nat) (d : W32) (s : State) : Option State :=
  let st := pdkState s p
  if (st = .loading || st = .unparking) && m != .cfg then none
  else some (if off = 0 then updPdk s p (fun q => { q with tag := d }) else s)

/-- A read of a paddock window (R136). -/
def pdkRead (p : Fin 8) (off : Nat) (s : State) : W32 :=
  if off = 0 then (s.cfg.pdk[p]).tag
  else if off = 4 then put (perMille (loadOf s (stallsOf p))) 0
  else 0

/-! ## The loop engine's global block (R137) -/

/-- Whether a lane's TAB register names a table of its paddock. -/
def laneNames (l : Lane) (f : Nat) : Bool := fld l.tab 29 24 = f || fld l.tab 21 16 = f || fld l.tab 13 8 = f || fld l.tab 5 0 = f

/-- The stalls of a table's paddock with a closed lane that references it (R127, R129). -/
def tabClosed (s : State) (t : Nat) : List (Fin 32) :=
  (stallsOf ⟨t / 64 % 8, by omega⟩).filter (fun n =>
    (idx 4).any (fun j => laneNames (s.stl[n]).lane[j] (t % 64) && !laneOpen s n j))

/-- The table pointer of LPE_TAB_SEL: the table and the breakpoint. -/
def tabPtr (l : Lpe) : Nat × Nat := (fld l.tabSel 14 6, fld l.tabSel 5 0)

/-- The pointer moves to the next breakpoint. -/
def tabNext (l : Lpe) : Lpe := { l with tabSel := l.tabSel + 1 }

/-- A table word stored; a zero word is not listed. -/
def tabPut (k : Nat) (w : BitVec 16) (t : List (Nat × BitVec 16)) : List (Nat × BitVec 16) :=
  if w = 0 then dropCell k t else putCell k w t

/-- A write of LPE_TAB_DATA (R127, R129, R132, R137). -/
def tabWrite (d : W32) (s : State) : Bool × State :=
  let q := tabPtr s.lpe
  let w := d.extractLsb' 0 16
  let cl := tabClosed s q.1
  if 33 ≤ q.2 then (false, s)
  else if w.toNat != tabAt s.lpe q.1 q.2 && !cl.isEmpty then
    (false, cl.foldl (fun s n => updStl s n (fun t => { t with coefRej := true })) s)
  else (true, updLpe s (fun l => tabNext { l with table := tabPut (q.1 * 33 + q.2) w l.table }))

/-- A read of LPE_TAB_DATA: the word, or none for SLVERR, and the state after it. -/
def tabRead (s : State) : Option W32 × State :=
  let q := tabPtr s.lpe
  if 33 ≤ q.2 then (none, s) else (some (put (tabAt s.lpe q.1 q.2) 0), updLpe s tabNext)

/-- A write in the LPE window (R124, R137). -/
def lpeWrite (off : Nat) (d : W32) (s : State) : Bool × State :=
  let ok (f : Lpe → Lpe) : Bool × State := (true, updLpe s f)
  match off with
  | 0x00 => ok (fun l => { l with coastSeen := l.coastSeen && !bit d 1 })
  | 0x08 => ok (fun l => { l with peak := if bit d 31 then 0 else l.peak })
  | 0x0C => ok (fun l => { l with evt := w1c l.evt d, sceneBy := if bit d 2 then 0 else l.sceneBy })
  | 0x10 => ok (fun l => { l with evtEn := d &&& 7 })
  | 0x14 => ok (fun l => { l with missMap := w1c l.missMap d })
  | 0x20 => ok (fun l => { l with postScene := fld d 2 0 })
  | 0x24 => (true, postMask s.lpe.postScene d s)
  | 0x30 => if 33 ≤ fld d 5 0 then (false, s) else ok (fun l => { l with tabSel := d &&& 0x7FFF })
  | 0x34 => tabWrite d s
  | _ => (true, s)

/-- A read in the LPE window: none is SLVERR (R137). -/
def lpeRead (off : Nat) (s : State) : Option W32 × State :=
  let v (w : W32) : Option W32 × State := (some w, s)
  match off with
  | 0x00 => v (putB s.lpe.coastSeen 1 ||| putB (s.clk.sys.st = .coast) 0)
  | 0x04 => v s.lpe.tick
  | 0x08 => v (put (min (perMille (s.lpe.peak, 1)) 2047) 16 ||| put (min (loadAvg s) 2047) 0)
  | 0x0C => v s.lpe.evt
  | 0x10 => v s.lpe.evtEn
  | 0x14 => v s.lpe.missMap
  | 0x18 => v ((idx 32).foldl (fun w n => withBit w n.val (s.stl[n]).active) 0)
  | 0x20 => v (put s.lpe.postScene 0)
  | 0x30 => v s.lpe.tabSel
  | 0x34 => tabRead s
  | _ => v 0

/-! ## Commands -/

/-- The address of a stall register. -/
def stallAddr (n : Fin 32) (off : Nat) : Nat := 0x40101000 + n.val * 0x200 + off

/-- A write of a stall register by a command. -/
def stallCmd (m : Mid) (n : Fin 32) (off : Nat) (d : W32) (s : State) : State :=
  busWriteR m (.stall n) (stallAddr n off) d (stallWrite m n off d) s

/-- LPE_POST_MASK (R124, R137). -/
def execLpePostMask (m : Mid) (mask : W32) (s : State) : Host.Outcome State Fault Refusal :=
  .next (busWriteR m .lpe 0x40100024 mask (lpeWrite 0x24 mask) s)

/-- STL_SP_WRITE: a write of STL_n_SP (R124). -/
def execStlSpWrite (m : Mid) (n : Fin 32) (data : W32) (s : State) : Host.Outcome State Fault Refusal :=
  .next (stallCmd m n 0x10 data s)

/-- STALL_ENABLE: a write of STL_n_CTRL with EN = 1 (R125, R145, R152). -/
def execStallEnable (m : Mid) (n : Fin 32) (data : W32) (s : State) : Host.Outcome State Fault Refusal :=
  .next (stallCmd m n 0 (withBit data 31 true) s)

/-- STALL_DISABLE: a write of STL_n_CTRL with EN = 0 (R125). -/
def execStallDisable (m : Mid) (n : Fin 32) (data : W32) (s : State) : Host.Outcome State Fault Refusal :=
  .next (stallCmd m n 0 (withBit data 31 false) s)

/-- LPE_TAB_DATA: a write, or a read, of the table port (R127, R137). -/
def execLpeTabData (m : Mid) (wr : Option W32) (s : State) : Host.Outcome State Fault Refusal :=
  .next (match wr with
    | some d => busWriteR m .lpe 0x40100034 d (lpeWrite 0x34 d) s
    | none => access m (some .lpe) 0x40100034 .b32 .read 0 (lpeRead 0x34) s)

/-- LPE_LOAD_PEAK_CLR (R137). -/
def execLpeLoadPeakClr (m : Mid) (s : State) : Host.Outcome State Fault Refusal :=
  .next (busWriteR m .lpe 0x40100008 0x80000000 (lpeWrite 0x08 0x80000000) s)

/-- MISS_CNT_CLR: a write of STL_n_MISS with CNT_CLR = 1 (R134). -/
def execMissCntClr (m : Mid) (n : Fin 32) (data : W32) (s : State) : Host.Outcome State Fault Refusal :=
  .next (stallCmd m n 0x0C (withBit data 31 true) s)

/-- CLAMP_CNT_CLEAR: a write of STL_n_LANE_j_STAT with PRESET_LIM = 1 (R135). -/
def execClampCntClear (m : Mid) (n : Fin 32) (j : Fin 4) (data : W32) (s : State) : Host.Outcome State Fault Refusal :=
  .next (stallCmd m n (0x128 + j.val * 0x40) (withBit data 29 true) s)

end Sys2Proof.Machine
end

