-- ==== Sys2Proof/Machine/Cfg.lean ====
section
/-!
DEFINITION. Cfg: paddock states, the commands of the configuration loader, the first pass of a load, and the CFG registers (R57,
R61 to R75, R97, R416).
-/

namespace Sys2Proof.Machine

open Sys2Proof

/-- The loader updated. -/
def updCfg (s : State) (f : Cfg → Cfg) : State := { s with cfg := f s.cfg }

/-! ## The first pass (R57, R63, R71) -/

/-- The loader reads its source in words: a DENY or DEAD ends it with a code, any other error reads zero (R18, R73). -/
def cfgReadL : List (Nat × Nat) → State → (Nat × List Byte) × State
  | [], s => ((0, []), s)
  | (a, n) :: t, s =>
    match dmaPiece .cfg .read a n [] s with
    | ((.deny, _), s1) => ((0x42, []), s1)
    | ((.dead, _), s1) => ((0x43, []), s1)
    | ((c, b), s1) =>
      let w := if c = .okay then b else List.replicate n 0
      match cfgReadL t s1 with
      | ((e, l), s2) => ((e, w ++ l), s2)

/-- The loader reads `n` bytes. -/
def cfgRead (a n : Nat) (s : State) : (Nat × List Byte) × State := cfgReadL (pieces n a n) s

/-- Whether the PKV is usable. -/
def pkvUsable (s : State) : Bool := !unusable s 56

/-- CFG_STAT.PHASE of a stage (R75): 2 while the source is waited for; 6 is over within LOAD_END (log 31). -/
def stagePhase : LoadStage → Nat
  | .reading => 2
  | .sig _ _ => 3
  | .atStep10 _ _ => 3
  | .waitSwv _ _ => 7
  | .checked c _ => if c = 0 then 5 else if c < 0x20 ∨ 0x40 ≤ c then 1 else if c < 0x30 then 3 else 4

/-- The stage of the running load replaced. -/
def setStage (g : LoadStage) (s : State) : State :=
  updCfg s (fun c => { c with load := c.load.map (fun l => { l with stage := g }), phase := stagePhase g })

/-- The domain of the PKV is powered for the loader. -/
def pkvWake (s : State) : State := if domReady s .crypto then s else domDemand s .crypto

/-- The PKV takes up the loader's verification if it is free (R245). -/
def pkvTake (s : State) : State :=
  let s := pkvWake s
  if s.pkv.owner = .none then { s with pkv := { s.pkv with owner := .cfg } } else s

/-- Steps 9 and on for an image `l` whose header passed: the stage, the checked sections and the digest. -/
def restStage (s : State) (base : Bool) (pdk : Nat) (l : List Byte) : LoadStage × List Sect :=
  let n := u32 l 8
  if !keyAdmits s.boot.otp (u8 l 0x0F) (sha256 (imgKey l n)) then (.checked 0x20 0x0F, [])
  else
    let r := chkSections base pdk l
    let e := codeOf r
    let ss := match r with | .ok x => x | .error _ => []
    if !pkvUsable s then (if base then (.atStep10 e.1 e.2, ss) else (.checked 0x22 0, []))
    else if imgVerify l n = 1 then (.sig e.1 e.2, ss) else (.sig 0x21 0, [])

/-- The load is running, at a stage. -/
def startRun (base : Bool) (p : Fin 8) (src : Nat) (l : List Byte) (g : LoadStage × List Sect) (s : State) : State :=
  let s := updCfg s (fun c => { c with
    load := some { base := base, pdk := p, src := src, baseId := BitVec.ofNat 32 (u32 l 0x14)
                   ver := BitVec.ofNat 32 (u32 l 0x18), sects := g.2, stage := g.1 }
    phase := stagePhase g.1 })
  match g.1 with
  | .sig _ _ => pkvTake s
  | _ => s

/-- The bytes that a source holds from an address up (R57 step 3, R71). -/
def srcAvail (base : Bool) (src : Nat) : Nat := if base then imgLimit true else 0x20080000 - src

/-- The first pass of a load from `src` (R57): nothing is written. -/
def firstPass (base : Bool) (p : Fin 8) (src avail : Nat) (s : State) : State :=
  match cfgRead src 64 s with
  | ((e, hd), s1) =>
    if e != 0 then startRun base p src [] (.checked e 0, []) s1
    else match chkHeader { base := base, pdk := p.val, baseId := s1.cfg.baseId.toNat, avail := avail } hd with
      | .error x => startRun base p src [] (.checked x.1 x.2, []) s1
      | .ok _ =>
        match cfgRead (src + 64) (u32 hd 8 - 64) s1 with
        | ((e2, tl), s2) =>
          if e2 != 0 then startRun base p src [] (.checked e2 0, []) s2
          else
            let l := hd ++ tl
            let s3 := updCfg s2 (fun c => { c with digest := imgDigest l (u32 l 8) })
            startRun base p src l (restStage s3 base p.val l) s3

/-- The first pass of the load that runs: one that must wait for its source goes on as a task. -/
def readSource (s : State) : State :=
  match s.cfg.load with
  | some l => if l.stage = .reading then firstPass l.base l.pdk l.src (srcAvail l.base l.src) s else s
  | none => s

/-- A load starts to read its source. -/
def beginLoad (base : Bool) (p : Fin 8) (src : Nat) (s : State) : State :=
  engineRun (.event .loadEnd) [] readSource (updCfg s (fun c => { c with
    load := some { base := base, pdk := p, src := src, stage := .reading }, phase := stagePhase .reading }))

/-- The loader's verification on the PKV ends: the load goes on, and a firmware verification that waited runs (R245). -/
def sigDone (s : State) : State :=
  let s := if s.pkv.owner = .cfg then
      { s with pkv := { s.pkv with owner := if s.pkv.pend then .firmware else .none, pend := false } }
    else s
  match s.cfg.load with
  | some l => match l.stage with
    | .sig c o => setStage (.checked c o) s
    | _ => s
  | none => s

/-- A load ends with a code: it is reported, and DONE and FAIL are set (R73, R75). -/
def endLoad (code off : Nat) (p : Option (Fin 8)) (s : State) : State :=
  updCfg (dropTask (.event .loadEnd) s) (fun c => { c with
    load := none, phase := 0, code := code, errOff := BitVec.ofNat 32 off
    statPdk := match p with | some q => q.val | none => c.statPdk
    evt := withBit (if code = 0 then c.evt else withBit c.evt 1 true) 0 true })

/-! ## Commands of CFG_CMD (R65, R75) -/

/-- A command is rejected: 1 BUSY, 2 STATE, 3 UNUSABLE (R65). -/
def reject (why : Nat) (s : State) : State := cfgEvt 3 (updCfg s (fun c => { c with rej := why }))

/-- A paddock's domain is powered for a command (R320). -/
def pdkWake (p : Fin 8) (s : State) : State := if domReady s (.paddock p) then s else domDemand s (.paddock p)

/-- The four stall windows and the paddock window return to their reset values, but for the run state of the park mode in force
(R69), held posts (R31), and what the gallery has seen since its last record (R158, R159). DRIFT and TRIPS count as run state
(log 64). -/
def loadReset (p : Fin 8) (s : State) : State :=
  let keep (n : Fin 32) (t : Stall) : Stall := { Stall.atReset n with
    held := t.held, acc := t.acc, frz := t.frz, ocRun := t.ocRun, ocTrips := t.ocTrips, pendC := t.pendC
    active := t.active, drift := t.drift, firstC := t.firstC, causes := t.causes, used := t.used, waitCyc := t.waitCyc
    retryPend := t.retryPend, shortCyc := t.shortCyc, onTime := t.onTime, gate := t.gate, tripped := t.tripped
    periodAt := t.periodAt, rise := t.rise, linAcc := t.linAcc, dac := t.dac, volt := t.volt, shortSel := t.shortSel, shortTh := t.shortTh
    posts := t.posts, sawFault := t.sawFault, sawMiss := t.sawMiss, sawScene := t.sawScene, sawSat := t.sawSat
    lastMiss := t.lastMiss }
  let s := (stallsOf p).foldl (fun s n => updStl s n (keep n)) s
  updPdk s p (fun q => { q with tag := 0 })

/-- PARK (R65, R66): from LIVE. -/
def effPark (p : Fin 8) (hold : Bool) (s : State) : State :=
  updPdk (fence s) p (fun q => { q with state := .parking, hold := hold, begun := false, holdRun := false, heldCyc := 0 })

/-- Whether a partial image lies in SRAM (R71): room for the smallest image, and for IMAGE_LEN where a MAGIC stands at the source
(log 65). -/
def srcOk (src : Nat) (s : State) : Bool :=
  0x20000000 ≤ src && src + 212 ≤ 0x20080000
    && (s.mem.word src != 0x474E594C || src + (s.mem.word (src + 8)).toNat ≤ 0x20080000)

/-- LOAD (R65, R69, R71): the paddock is LOADING and the first pass is made. -/
def effLoad (p : Fin 8) (s : State) : State :=
  let s := loadReset p (updPdk (pdkWake p (fence s)) p (fun q => { q with state := .loading }))
  let s := updCfg s (fun c => { c with statPdk := p.val })
  let src := s.cfg.src.toNat
  if srcOk src s then beginLoad false p src s else startRun false p src [] (.checked 0x51 0, []) s

/-- UNPARK (R65, R70, R319): SENSE is powered if it is off. -/
def effUnpark (p : Fin 8) (s : State) : State :=
  let s := pdkWake p (fence s)
  let s := if domReady s .sense then s else domDemand s .sense
  let s := (stallsOf p).foldl (fun s n => updStl s n (fun t => { t with updated := false })) s
  updPdk s p (fun q => { q with state := .unparking, begun := false })

/-- ABORT (R65): the load ends with ABORTED. -/
def effAbort (p : Fin 8) (s : State) : State :=
  endLoad 0x50 0 (some p) (updPdk s p (fun q => { q with state := .parked, empty := true, last := 0x50 }))

/-- LOAD_BASE (R61): accepted once per reset. -/
def effLoadBase (s : State) : State :=
  if s.cfg.load.isSome then reject 1 s
  else if s.cfg.baseUsed then reject 2 s
  else beginLoad true 0 s.cfg.src.toNat (updCfg s (fun c => { c with baseUsed := true }))

/-- CONFIRM (R63): only in WAIT_SWV, from MID 0 during boot-ROM execution. -/
def effConfirm (m : Mid) (pass : Bool) (s : State) : State :=
  match s.cfg.load with
  | some l => match l.stage with
    | .waitSwv c o =>
      if m = .hostS && s.boot.bootRom then setStage (if pass then .checked c o else .checked 0x21 0) s else reject 2 s
    | _ => reject 2 s
  | none => reject 2 s

/-- A command to a paddock: rejected for an unusable paddock, then while another load runs, then for its state or a test (R65,
R72, R416). -/
def effPdkCmd (op : Nat) (p : Fin 8) (arg : Bool) (s : State) : State :=
  let st := pdkState s p
  if pdkUnusable s p then reject 3 s
  else if op = 2 ∧ s.cfg.load.isSome then reject 1 s
  else if underTest s (32 + p.val) then reject 2 s
  else if op = 1 ∧ st = .live then effPark p arg s
  else if op = 2 ∧ (st = .parked ∨ st = .verified) then effLoad p s
  else if op = 3 ∧ (st = .verified ∨ (st = .parked ∧ !(s.cfg.pdk[p]).empty)) then effUnpark p s
  else if op = 4 ∧ st = .loading then effAbort p s
  else reject 2 s

/-- CFG_CMD (R65, R75). -/
def effCfgCmd (m : Mid) (d : W32) (s : State) : State :=
  let p : Fin 8 := ⟨fld d 6 4 % 8, Nat.mod_lt _ (by decide)⟩
  match fld d 2 0 with
  | 0 => s
  | 7 => s
  | 5 => effLoadBase s
  | 6 => effConfirm m (bit d 8) s
  | op => effPdkCmd op p (bit d 8) s

/-! ## Registers (R75) -/

/-- State codes (R64). -/
def pdkNum : PdkState → Nat
  | .live => 0 | .parking => 1 | .parked => 2 | .loading => 3 | .verified => 4 | .unparking => 5 | .unusable => 7

/-- A write of a CFG register. -/
def cfgWrite (m : Mid) (off : Nat) (d : W32) (s : State) : State :=
  match off with
  | 0x00 => effCfgCmd m d s
  | 0x04 => updCfg s (fun c => { c with src := d &&& 0xFFFFFFFC })
  | 0x18 => updCfg s (fun c => { c with evt := w1c c.evt d })
  | 0x1C => updCfg s (fun c => { c with evtEn := d &&& 0x3F })
  | 0x20 => updCfg s (fun c => { c with holdLim := fld d 8 0 })
  | _ =>
    if h : 0x40 ≤ off ∧ off < 0x60 then
      updPdk s ⟨(off - 0x40) / 4, by omega⟩ (fun q => { q with holdExp := q.holdExp && !bit d 14 })
    else s

/-- A paddock's status register (R75). -/
def pdkStat (s : State) (p : Fin 8) : W32 :=
  let q := s.cfg.pdk[p]
  put q.last 16 ||| putB q.empty 15 ||| putB q.holdExp 14 ||| putB (q.hold && q.state != .live) 13
    ||| put (if pdkUnusable s p then 7 else pdkNum q.state) 0

/-- A read of a CFG register. -/
def cfgReadReg (off : Nat) (s : State) : W32 :=
  let c := s.cfg
  if off = 0x04 then c.src
  else if off = 0x08 then
    putB c.load.isSome 31 ||| put c.code 16 ||| put c.rej 12 ||| put c.statPdk 8 ||| put c.phase 0
  else if off = 0x0C then c.errOff
  else if off = 0x10 then c.baseId
  else if off = 0x14 then c.baseVer
  else if off = 0x18 then c.evt
  else if off = 0x1C then c.evtEn
  else if off = 0x20 then put c.holdLim 0
  else if h : 0x40 ≤ off ∧ off < 0x60 then pdkStat s ⟨(off - 0x40) / 4, by omega⟩
  else if h : 0x60 ≤ off ∧ off < 0x80 then
    let q := c.pdk[(off - 0x60) / 4]'(by omega)
    if q.hold && q.state != .live then put (min (q.heldCyc / msCyc) 1023) 0 else 0
  else if 0x80 ≤ off ∧ off < 0xA0 then wordOf c.digest ((off - 0x80) / 4)
  else 0

/-! ## Row commands -/

/-- A write of CFG_CMD by a command. -/
def cfgCmd (m : Mid) (d : W32) (s : State) : State :=
  busWrite m .cfg 0x40040000 d (fun s => some (cfgWrite m 0 d s)) s

/-- PARK (R65, R66). -/
def execPark (m : Mid) (p : Fin 8) (hold : Bool) (s : State) : Host.Outcome State Fault Refusal :=
  .next (cfgCmd m (putB hold 8 ||| put p.val 4 ||| 1) s)

/-- LOAD (R65, R69). -/
def execLoad (m : Mid) (p : Fin 8) (s : State) : Host.Outcome State Fault Refusal := .next (cfgCmd m (put p.val 4 ||| 2) s)

/-- UNPARK (R65, R70). -/
def execUnpark (m : Mid) (p : Fin 8) (s : State) : Host.Outcome State Fault Refusal := .next (cfgCmd m (put p.val 4 ||| 3) s)

/-- ABORT (R65). -/
def execAbort (m : Mid) (p : Fin 8) (s : State) : Host.Outcome State Fault Refusal := .next (cfgCmd m (put p.val 4 ||| 4) s)

/-- LOAD_BASE (R61). -/
def execLoadBase (m : Mid) (s : State) : Host.Outcome State Fault Refusal := .next (cfgCmd m 5 s)

/-- CONFIRM (R63). -/
def execConfirm (m : Mid) (pass : Bool) (s : State) : Host.Outcome State Fault Refusal :=
  .next (cfgCmd m (putB pass 8 ||| 6) s)

/-- WAIT_SWV: a base load stops at step 10 for software verification (R63). -/
def execWaitSwv (s : State) : Host.Outcome State Fault Refusal :=
  .next (match s.cfg.load with
    | some l => match l.stage with
      | .atStep10 c o => setStage (.waitSwv c o) s
      | _ => s
    | none => s)

/-- PARKING_START: the first tick boundary after PARK; stalls outside the schedule freeze at once (R66, R68). -/
def execParkingStart (p : Fin 8) (s : State) : Host.Outcome State Fault Refusal :=
  .next (let q := s.cfg.pdk[p]
    if q.state = .parking && !q.begun && tickNow s then
      let s := updPdk s p (fun q => { q with begun := true, heldCyc := 0, holdRun := q.hold })
      let s := (stallsOf p).foldl (fun s n =>
        updStl s n (fun t => if t.run then { t with frozen := false } else freezeStall q.hold t)) s
      parkCheck p s
    else s)

/-- STALL_FREEZE: a stall of a PARKING paddock freezes at its output-update instant, holding the command of that update, which is
carried out first if it has not been (R66, R67, log 71). -/
def execStallFreeze (n : Fin 32) (s : State) : Host.Outcome State Fault Refusal :=
  .next (let p := pdkOf n
    let owes (s : State) : Bool :=
      let q := s.cfg.pdk[p]
      q.state = .parking && q.begun && !(s.stl[n]).frozen
    if owes s && (dueNow s n || !(s.stl[n]).run || (s.stl[n]).updT = some s.time) then
      let s := if dueNow s n then stallUpdate n s else s
      if owes s then parkCheck p (updStl s n (freezeStall (s.cfg.pdk[p]).hold)) else s
    else s)

/-- The hold limit in CLK_YARD cycles: 0 acts as 1 ms, above 500 as 500 ms (R75). -/
def holdLimit (s : State) : Nat := min (max s.cfg.holdLim 1) 500 * msCyc

/-- HOLD_EXP: the held time reaches the limit: the mode becomes OFF, the held command zero, and the gates go low (R68). A first
update of UNPARKING that is already computed still publishes the command that was held (log 66). -/
def execHoldExp (p : Fin 8) (s : State) : Host.Outcome State Fault Refusal :=
  .next (let q := s.cfg.pdk[p]
    if q.hold && q.holdRun && q.state != .live && q.state != .unusable && holdLimit s ≤ q.heldCyc then
      let s := updPdk s p (fun q => { q with hold := false, holdExp := true, holdRun := false })
      let s := (stallsOf p).foldl (fun s n => updStl s n (fun t => gateLow { t with held := 0 })) s
      cfgEvt 2 s
    else s)

/-- Whether the enabled ADC lanes of a paddock are ready (R97). -/
def lanesReady (s : State) (p : Fin 8) : Bool :=
  (idx 16).all (fun k => lanePdk k != p || !s.sns.adlEn.getLsbD k.val || (s.sns.adl[k]).rdy)

/-- UNPARKING_START: the first tick boundary after UNPARK with the lanes ready: the enabled stalls join the schedule; one
disabled or in FAULT counts as having made its first update (R70). -/
def execUnparkingStart (p : Fin 8) (s : State) : Host.Outcome State Fault Refusal :=
  .next (let q := s.cfg.pdk[p]
    if q.state = .unparking && !q.begun && lanesReady s p && lpeOn s && tickNow s then
      let s := updPdk s p (fun q => { q with begun := true })
      let s := (stallsOf p).foldl (fun s n => updStl s n (fun t =>
        if t.en && !t.active then { joinStall (some s.lpe.tick) t with frozen := false, updated := false }
        else { gateLow t with frozen := false, updated := true, frz := none })) s
      liveCheck p s
    else s)

end Sys2Proof.Machine
end

