-- ==== Sys2Proof/Machine/Mark.lean ====
section
/-!
DEFINITION. Mark: blocks marked unusable, what depends on them, domains isolated, and what a mark does to the device (R72, R101,
R410, R411, R417, R420).
-/

namespace Sys2Proof.Machine

open Sys2Proof

/-- A bit of a block map. -/
def mapBit (i : Nat) : BitVec 64 := 1#64 <<< i

/-- The blocks `l` as a map. -/
def mapOf (l : List Nat) : BitVec 64 := l.foldl (fun w i => w ||| mapBit i) 0

/-- The unusable map with everything that a marked block makes unavailable (R410). -/
def markDeps (u : BitVec 64) : BitVec 64 :=
  let u := if u.getLsbD 43 then u ||| mapBit 40 else u
  let u := if u.getLsbD 40 then u ||| mapOf [32, 33, 34, 35, 36, 37, 38, 39, 41, 42] else u
  let u := if u.getLsbD 50 then u ||| mapOf [51, 52, 53, 54, 55] else u
  if u.getLsbD 48 then u ||| mapBit 47 else u

/-- Whether a map leaves nothing usable in a domain (R410). -/
def domGone (u : BitVec 64) : Domain → Bool
  | .flash => u.getLsbD 8 && u.getLsbD 9
  | .sense => u.getLsbD 43
  | .radio => u.getLsbD 47
  | .crypto => u.getLsbD 50 && u.getLsbD 56
  | .sram k => u.getLsbD (16 + k.val)
  | .paddock p => u.getLsbD (32 + p.val)
  | .host => u.getLsbD 1
  | .groom => u.getLsbD 3
  | .yard => u.getLsbD 2

/-- Every domain. -/
def allDomains : List Domain :=
  [.flash, .sense, .radio, .crypto] ++ (idx 8).map .sram ++ (idx 8).map .paddock ++ [.host, .groom, .yard]

/-- A domain is powered off and isolated, and its PWR_DOM_ON bit reads 0 (R319, R410). -/
def isolate (s : State) (d : Domain) : State :=
  if !domGone s.bist.umap d || domIsolated s d then s
  else
    let s := domDown s d true
    { s with pwr := { s.pwr with
        isolated := withBit s.pwr.isolated (domBit d) true
        domOn := if domBit d < 24 then withBit s.pwr.domOn (domBit d) false else s.pwr.domOn
        waking := withBit s.pwr.waking (domBit d) false } }

/-- Waiting transactions to a target that now answers DEAD complete DEAD (R37, R420); those of an engine's task complete as the
task goes on (log 20). -/
def deadWaiting (s : State) : State :=
  let gone (x : Txn) : Bool := x.cont.isNone
    && (match decodeTarget x.addr.toNat with | some t => isDead s t x.addr.toNat | none => false)
  let l := byMid (s.yard.waiting.filter gone)
  let s := { s with yard := { s.yard with waiting := s.yard.waiting.filter (fun x => !gone x) } }
  l.foldl (fun s x => noteSpis (respond s x.mid x.addr x.kind .dead 0)) s

/-- A paddock marked unusable is UNUSABLE, and a load of it ends with DEAD (R72). -/
def markPdk (s : State) (p : Fin 8) : State :=
  if !s.bist.umap.getLsbD (32 + p.val) || (s.cfg.pdk[p]).state = .unusable then s
  else
    let s := updPdk s p (fun q => { q with state := .unusable })
    match s.cfg.load with
    | some l => if !l.base && l.pdk = p then endLoad 0x43 0 (some p) (updPdk s p (fun q => { q with last := 0x43, empty := true })) else s
    | none => s

/-- Cipher and hash units that are marked show UNUSABLE (R242, R417). -/
def markUnits (s : State) : State :=
  { s with cry := { s.cry with unit := (idx 5).foldl (fun v u =>
      if s.bist.umap.getLsbD (51 + u.val) then upd v u (fun q => { q with st := .unusable }) else v) s.cry.unit } }

/-- Blocks are marked unusable, with all that follows (R410, R411, R417). -/
def markBlocks (l : BitVec 64) (s : State) : State :=
  let s := { s with bist := { s.bist with umap := markDeps (s.bist.umap ||| l) } }
  let s := (idx 8).foldl markPdk (markUnits s)
  cutGates (deadWaiting (allDomains.foldl isolate s))

/-- A failure recorded in the failed map and in BIST_FAIL_INFO (R410, R423). -/
def recordFail (b : Fin 64) (loc : BitVec 16) (s : State) : State :=
  { s with bist := { s.bist with
      fmap := s.bist.fmap ||| mapBit b.val
      fail := put 1 31 ||| put b.val 16 ||| loc.setWidth 32 } }

/-! ## The end of an on-command test (R409, R417, R418) -/

/-- A block left in its reset state by a test that is not transparent (R409); an RGY keeps its buckets and profile, and a unit
of the cipher engine stays OUT. -/
def testedReset (i : Nat) (s : State) : State :=
  let z := State.reset
  match i with
  | 41 => { s with echo := z.echo, echoEvt := 0, echoEvtEn := 0 }
  | 42 => { s with gal := {}, mem := s.mem.clear 0x40120000 0x40130000 }
  | 44 => { s with sns := { s.sns with aux := z.sns.aux, auxCfg := 0, auxPend := none, auxIn := none } }
  | 45 => { s with sns := { s.sns with pir := z.sns.pir } }
  | 46 => { s with sns := { s.sns with day := z.sns.day } }
  | 47 => { s with trx := {} }
  | 48 => { s with clk := { s.clk with rf := z.clk.rf, carrier := 0, want := none, nint := 0, frac := 0, rfPower := false } }
  | 49 => { s with rgy := { s.rgy with
      evt := 0, evtEn := 0, last := 0, cntDuty := 0, cntDwell := 0, cntSupp := 0, cntOvrun := 0, cntClamp := 0 } }
  | 57 => { s with zlk := {} }
  | 58 => { s with dli := {} }
  | 59 => { s with spis := {} }
  | 60 => { s with uart := upd s.uart 0 (fun u => { cts := u.cts }) }
  | 61 => { s with uart := upd s.uart 1 (fun u => { cts := u.cts }) }
  | 62 => { s with i2c := upd s.i2c 0 (fun _ => {}) }
  | 63 => { s with i2c := upd s.i2c 1 (fun _ => {}) }
  | _ => s

/-- A test ends with a result: BUSY clears, RESULT and DONE are set; a FAIL that may mark marks its target (R417). -/
def bistEnd (r : BistRun) (res : Nat) (s : State) : State :=
  let s := { s with bist := { s.bist with
    run := none, result := res, slice := r.cur, evt := withBit s.bist.evt 0 true } }
  if res = 2 && !r.noMark then
    markBlocks (mapBit r.target.val) { s with bist := { s.bist with evt := withBit s.bist.evt 1 true } }
  else if res = 1 || res = 2 then testedReset r.target.val s
  else s

/-- A test is stopped: a failure found in the same unit stands, and otherwise RESULT = ABORTED (R418, R420). -/
def bistAbort (s : State) : State :=
  match s.bist.run with
  | some r => bistEnd r (if r.result = some 2 then 2 else 5) s
  | none => s

end Sys2Proof.Machine
end

