-- ==== Sys2Proof/Machine/Aes.lean ====
section
/-!
DEFINITION. Aes: the block cipher and the modes of R222 and R225 over lists of bytes: CBC, CTR, CCM and CCM*, GCM, CMAC and
key wrap, with keys of 16, 24 or 32 bytes.
-/

namespace Sys2Proof.Machine

open Sys2Proof

/-- The substitution table of FIPS 197, in rows of sixteen. -/
def sboxTab : List Byte :=
  [0x63, 0x7C, 0x77, 0x7B, 0xF2, 0x6B, 0x6F, 0xC5, 0x30, 0x01, 0x67, 0x2B, 0xFE, 0xD7, 0xAB, 0x76] ++
  [0xCA, 0x82, 0xC9, 0x7D, 0xFA, 0x59, 0x47, 0xF0, 0xAD, 0xD4, 0xA2, 0xAF, 0x9C, 0xA4, 0x72, 0xC0] ++
  [0xB7, 0xFD, 0x93, 0x26, 0x36, 0x3F, 0xF7, 0xCC, 0x34, 0xA5, 0xE5, 0xF1, 0x71, 0xD8, 0x31, 0x15] ++
  [0x04, 0xC7, 0x23, 0xC3, 0x18, 0x96, 0x05, 0x9A, 0x07, 0x12, 0x80, 0xE2, 0xEB, 0x27, 0xB2, 0x75] ++
  [0x09, 0x83, 0x2C, 0x1A, 0x1B, 0x6E, 0x5A, 0xA0, 0x52, 0x3B, 0xD6, 0xB3, 0x29, 0xE3, 0x2F, 0x84] ++
  [0x53, 0xD1, 0x00, 0xED, 0x20, 0xFC, 0xB1, 0x5B, 0x6A, 0xCB, 0xBE, 0x39, 0x4A, 0x4C, 0x58, 0xCF] ++
  [0xD0, 0xEF, 0xAA, 0xFB, 0x43, 0x4D, 0x33, 0x85, 0x45, 0xF9, 0x02, 0x7F, 0x50, 0x3C, 0x9F, 0xA8] ++
  [0x51, 0xA3, 0x40, 0x8F, 0x92, 0x9D, 0x38, 0xF5, 0xBC, 0xB6, 0xDA, 0x21, 0x10, 0xFF, 0xF3, 0xD2] ++
  [0xCD, 0x0C, 0x13, 0xEC, 0x5F, 0x97, 0x44, 0x17, 0xC4, 0xA7, 0x7E, 0x3D, 0x64, 0x5D, 0x19, 0x73] ++
  [0x60, 0x81, 0x4F, 0xDC, 0x22, 0x2A, 0x90, 0x88, 0x46, 0xEE, 0xB8, 0x14, 0xDE, 0x5E, 0x0B, 0xDB] ++
  [0xE0, 0x32, 0x3A, 0x0A, 0x49, 0x06, 0x24, 0x5C, 0xC2, 0xD3, 0xAC, 0x62, 0x91, 0x95, 0xE4, 0x79] ++
  [0xE7, 0xC8, 0x37, 0x6D, 0x8D, 0xD5, 0x4E, 0xA9, 0x6C, 0x56, 0xF4, 0xEA, 0x65, 0x7A, 0xAE, 0x08] ++
  [0xBA, 0x78, 0x25, 0x2E, 0x1C, 0xA6, 0xB4, 0xC6, 0xE8, 0xDD, 0x74, 0x1F, 0x4B, 0xBD, 0x8B, 0x8A] ++
  [0x70, 0x3E, 0xB5, 0x66, 0x48, 0x03, 0xF6, 0x0E, 0x61, 0x35, 0x57, 0xB9, 0x86, 0xC1, 0x1D, 0x9E] ++
  [0xE1, 0xF8, 0x98, 0x11, 0x69, 0xD9, 0x8E, 0x94, 0x9B, 0x1E, 0x87, 0xE9, 0xCE, 0x55, 0x28, 0xDF] ++
  [0x8C, 0xA1, 0x89, 0x0D, 0xBF, 0xE6, 0x42, 0x68, 0x41, 0x99, 0x2D, 0x0F, 0xB0, 0x54, 0xBB, 0x16]

/-- The inverse substitution table. -/
def sboxInvTab : List Byte :=
  [0x52, 0x09, 0x6A, 0xD5, 0x30, 0x36, 0xA5, 0x38, 0xBF, 0x40, 0xA3, 0x9E, 0x81, 0xF3, 0xD7, 0xFB] ++
  [0x7C, 0xE3, 0x39, 0x82, 0x9B, 0x2F, 0xFF, 0x87, 0x34, 0x8E, 0x43, 0x44, 0xC4, 0xDE, 0xE9, 0xCB] ++
  [0x54, 0x7B, 0x94, 0x32, 0xA6, 0xC2, 0x23, 0x3D, 0xEE, 0x4C, 0x95, 0x0B, 0x42, 0xFA, 0xC3, 0x4E] ++
  [0x08, 0x2E, 0xA1, 0x66, 0x28, 0xD9, 0x24, 0xB2, 0x76, 0x5B, 0xA2, 0x49, 0x6D, 0x8B, 0xD1, 0x25] ++
  [0x72, 0xF8, 0xF6, 0x64, 0x86, 0x68, 0x98, 0x16, 0xD4, 0xA4, 0x5C, 0xCC, 0x5D, 0x65, 0xB6, 0x92] ++
  [0x6C, 0x70, 0x48, 0x50, 0xFD, 0xED, 0xB9, 0xDA, 0x5E, 0x15, 0x46, 0x57, 0xA7, 0x8D, 0x9D, 0x84] ++
  [0x90, 0xD8, 0xAB, 0x00, 0x8C, 0xBC, 0xD3, 0x0A, 0xF7, 0xE4, 0x58, 0x05, 0xB8, 0xB3, 0x45, 0x06] ++
  [0xD0, 0x2C, 0x1E, 0x8F, 0xCA, 0x3F, 0x0F, 0x02, 0xC1, 0xAF, 0xBD, 0x03, 0x01, 0x13, 0x8A, 0x6B] ++
  [0x3A, 0x91, 0x11, 0x41, 0x4F, 0x67, 0xDC, 0xEA, 0x97, 0xF2, 0xCF, 0xCE, 0xF0, 0xB4, 0xE6, 0x73] ++
  [0x96, 0xAC, 0x74, 0x22, 0xE7, 0xAD, 0x35, 0x85, 0xE2, 0xF9, 0x37, 0xE8, 0x1C, 0x75, 0xDF, 0x6E] ++
  [0x47, 0xF1, 0x1A, 0x71, 0x1D, 0x29, 0xC5, 0x89, 0x6F, 0xB7, 0x62, 0x0E, 0xAA, 0x18, 0xBE, 0x1B] ++
  [0xFC, 0x56, 0x3E, 0x4B, 0xC6, 0xD2, 0x79, 0x20, 0x9A, 0xDB, 0xC0, 0xFE, 0x78, 0xCD, 0x5A, 0xF4] ++
  [0x1F, 0xDD, 0xA8, 0x33, 0x88, 0x07, 0xC7, 0x31, 0xB1, 0x12, 0x10, 0x59, 0x27, 0x80, 0xEC, 0x5F] ++
  [0x60, 0x51, 0x7F, 0xA9, 0x19, 0xB5, 0x4A, 0x0D, 0x2D, 0xE5, 0x7A, 0x9F, 0x93, 0xC9, 0x9C, 0xEF] ++
  [0xA0, 0xE0, 0x3B, 0x4D, 0xAE, 0x2A, 0xF5, 0xB0, 0xC8, 0xEB, 0xBB, 0x3C, 0x83, 0x53, 0x99, 0x61] ++
  [0x17, 0x2B, 0x04, 0x7E, 0xBA, 0x77, 0xD6, 0x26, 0xE1, 0x69, 0x14, 0x63, 0x55, 0x21, 0x0C, 0x7D]

/-- The substitution of a byte. -/
def sbox (b : Byte) : Byte := (sboxTab[b.toNat]?).getD 0

/-- The inverse substitution of a byte. -/
def sboxInv (b : Byte) : Byte := (sboxInvTab[b.toNat]?).getD 0

/-- Doubling in the field of FIPS 197. -/
def xtime (b : Byte) : Byte := (b <<< 1) ^^^ (if b.getLsbD 7 then 0x1B else 0)

/-- Bytes combined by exclusive or; the shorter list decides the length. -/
def xorL : List Byte → List Byte → List Byte
  | a :: s, b :: t => (a ^^^ b) :: xorL s t
  | _, _ => []

/-- A list cut into pieces of `n`, the last one possibly shorter; `fuel` is at least the number of pieces. -/
def chunksOf (n : Nat) : Nat → List Byte → List (List Byte)
  | 0, _ => []
  | fuel + 1, l => if l.isEmpty then [] else l.take n :: chunksOf n fuel (l.drop n)

/-- The 16-byte blocks of a list. -/
def blocks16 (l : List Byte) : List (List Byte) := chunksOf 16 (l.length / 16 + 1) l

/-- The list filled up with zeros to whole blocks. -/
def pad16 (l : List Byte) : List Byte := l ++ List.replicate ((16 - l.length % 16) % 16) 0

/-! ## The block cipher -/

/-- The round constant of the `i`-th use. -/
def rcon (i : Nat) : Byte := ((([0x01, 0x02, 0x04, 0x08, 0x10, 0x20, 0x40, 0x80, 0x1B, 0x36] : List Byte))[i - 1]?).getD 0

/-- The next word of the key schedule, from the words so far, latest first. -/
def keyWord (nk i : Nat) (r : List (List Byte)) : List Byte :=
  let prev := (r[0]?).getD []
  let t :=
    if i % nk = 0 then xorL ((prev.drop 1 ++ prev.take 1).map sbox) [rcon (i / nk), 0, 0, 0]
    else if 6 < nk ∧ i % nk = 4 then prev.map sbox
    else prev
  xorL ((r[nk - 1]?).getD []) t

/-- The key schedule extended by `n` words, latest first. -/
def keyWords (nk : Nat) : Nat → Nat → List (List Byte) → List (List Byte)
  | 0, _, r => r
  | n + 1, i, r => keyWords nk n (i + 1) (keyWord nk i r :: r)

/-- The round keys of a key, in order. -/
def roundKeys (k : List Byte) : List (List Byte) :=
  let nk := k.length / 4
  let w0 := (chunksOf 4 8 k).reverse
  blocks16 ((keyWords nk (3 * nk + 28) nk w0).reverse.flatten)

/-- The byte of a block at an index. -/
def blkAt (b : List Byte) (i : Nat) : Byte := (b[i]?).getD 0

/-- The row shift of FIPS 197, or with `back` its inverse. -/
def shiftRows (back : Bool) (b : List Byte) : List Byte :=
  (List.range 16).map (fun i =>
    blkAt b (4 * ((i / 4 + (if back then 4 - i % 4 else i % 4)) % 4) + i % 4))

/-- One column mixed. -/
def mixCol (c : List Byte) : List Byte :=
  (List.range 4).map (fun i =>
    let a (j : Nat) := blkAt c ((i + j) % 4)
    xtime (a 0) ^^^ xtime (a 1) ^^^ a 1 ^^^ a 2 ^^^ a 3)

/-- One column unmixed: the mix of the column first adjusted by four times the sums of alternate bytes. -/
def unmixCol (c : List Byte) : List Byte :=
  let u := xtime (xtime (blkAt c 0 ^^^ blkAt c 2))
  let v := xtime (xtime (blkAt c 1 ^^^ blkAt c 3))
  mixCol [blkAt c 0 ^^^ u, blkAt c 1 ^^^ v, blkAt c 2 ^^^ u, blkAt c 3 ^^^ v]

/-- The four columns of a block under a map of columns. -/
def mapCols (f : List Byte → List Byte) (b : List Byte) : List Byte := ((chunksOf 4 4 b).map f).flatten

/-- The rounds after the first key addition. -/
def aesRounds : List (List Byte) → List Byte → List Byte
  | [], b => b
  | [k], b => xorL (shiftRows false (b.map sbox)) k
  | k :: ks, b => aesRounds ks (xorL (mapCols mixCol (shiftRows false (b.map sbox))) k)

/-- The rounds of decryption, over the round keys in reverse, after the first key addition. -/
def aesRoundsInv : List (List Byte) → List Byte → List Byte
  | [], b => b
  | [k], b => xorL ((shiftRows true b).map sboxInv) k
  | k :: ks, b => aesRoundsInv ks (mapCols unmixCol (xorL ((shiftRows true b).map sboxInv) k))

/-- A block enciphered under round keys. -/
def encBlock (rk : List (List Byte)) (b : List Byte) : List Byte := aesRounds rk.tail (xorL b (rk.headD []))

/-- A block deciphered under round keys. -/
def decBlock (rk : List (List Byte)) (b : List Byte) : List Byte :=
  aesRoundsInv rk.reverse.tail (xorL b (rk.reverse.headD []))

/-! ## CBC and CTR -/

/-- CBC encryption of whole blocks. -/
def cbcEnc (rk : List (List Byte)) : List Byte → List (List Byte) → List Byte
  | _, [] => []
  | iv, b :: t => let c := encBlock rk (xorL b iv); c ++ cbcEnc rk c t

/-- CBC decryption of whole blocks. -/
def cbcDec (rk : List (List Byte)) : List Byte → List (List Byte) → List Byte
  | _, [] => []
  | iv, c :: t => xorL (decBlock rk c) iv ++ cbcDec rk c t

/-- A counter mode: the blocks combined with the enciphered counter blocks `ctr i`, `ctr (i + 1)`, and so on. -/
def ctrWith (rk : List (List Byte)) (ctr : Nat → List Byte) : Nat → List (List Byte) → List Byte
  | _, [] => []
  | i, b :: t => xorL b (encBlock rk (ctr i)) ++ ctrWith rk ctr (i + 1) t

/-- CTR with a 16-byte counter block counted as a 128-bit big-endian integer (R225). -/
def ctrMode (rk : List (List Byte)) (iv l : List Byte) : List Byte :=
  ctrWith rk (fun i => beBytes 16 (beNat iv + i)) 0 (blocks16 l)

/-! ## CCM and CCM*: 13-byte nonce, L = 2 (R225) -/

/-- The chaining value after blocks. -/
def cbcMac (rk : List (List Byte)) (x : List Byte) (bs : List (List Byte)) : List Byte :=
  bs.foldl (fun x b => encBlock rk (xorL x b)) x

/-- The counter block A_i. -/
def ccmCtr (nonce : List Byte) (i : Nat) : List Byte := 1 :: nonce ++ beBytes 2 i

/-- The tag of CCM over additional data and plaintext. -/
def ccmTag (rk : List (List Byte)) (nonce aad pt : List Byte) (t : Nat) : List Byte :=
  let flags := (if aad.isEmpty then 0 else 64) + (if t = 0 then 0 else 8 * ((t - 2) / 2)) + 1
  let b0 := BitVec.ofNat 8 flags :: nonce ++ beBytes 2 pt.length
  let hd := if aad.isEmpty then [] else pad16 (beBytes 2 aad.length ++ aad)
  let x := cbcMac rk (List.replicate 16 0) (blocks16 (b0 ++ hd ++ pad16 pt))
  (xorL x (encBlock rk (ccmCtr nonce 0))).take t

/-- The payload of CCM under its key stream, in either direction. -/
def ccmCrypt (rk : List (List Byte)) (nonce l : List Byte) : List Byte := ctrWith rk (ccmCtr nonce) 1 (blocks16 l)

/-! ## GCM: 12-byte IV -/

/-- The product of two blocks in the field of GCM, as numbers whose first bit is the most significant. -/
def ghMul (x : Nat) : Nat → Nat → Nat → Nat
  | 0, _, z => z
  | n + 1, v, z =>
    ghMul x n (if v % 2 = 1 then (v / 2) ^^^ (0xE1 * 2 ^ 120) else v / 2) (if x.testBit n then z ^^^ v else z)

/-- GHASH over bytes in whole blocks. -/
def ghash (h : Nat) (l : List Byte) : Nat := (blocks16 l).foldl (fun y b => ghMul (y ^^^ beNat b) 128 h 0) 0

/-- A counter block of GCM. -/
def gcmCtr (iv : List Byte) (i : Nat) : List Byte := iv ++ beBytes 4 (i % 2 ^ 32)

/-- The payload of GCM under its key stream, in either direction. -/
def gcmCrypt (rk : List (List Byte)) (iv l : List Byte) : List Byte := ctrWith rk (gcmCtr iv) 2 (blocks16 l)

/-- The tag of GCM over additional data and ciphertext. -/
def gcmTag (rk : List (List Byte)) (iv aad ct : List Byte) (t : Nat) : List Byte :=
  let h := beNat (encBlock rk (List.replicate 16 0))
  let s := ghash h (pad16 aad ++ pad16 ct ++ beBytes 8 (8 * aad.length) ++ beBytes 8 (8 * ct.length))
  (xorL (beBytes 16 s) (encBlock rk (gcmCtr iv 1))).take t

/-! ## CMAC -/

/-- A subkey doubled. -/
def cmacDouble (l : List Byte) : List Byte :=
  let v := beNat l
  beBytes 16 ((2 * v) % 2 ^ 128 ^^^ (if 2 ^ 127 ≤ v then 0x87 else 0))

/-- The blocks of a message with the last one completed and masked. -/
def cmacBlocks (k1 k2 : List Byte) : List (List Byte) → List (List Byte)
  | [] => [xorL k2 (0x80 :: List.replicate 15 0)]
  | [b] => if b.length = 16 then [xorL k1 b] else [xorL k2 (pad16 (b ++ [0x80]))]
  | b :: t => b :: cmacBlocks k1 k2 t

/-- CMAC of a message, all 16 bytes. -/
def cmac (rk : List (List Byte)) (l : List Byte) : List Byte :=
  let k1 := cmacDouble (encBlock rk (List.replicate 16 0))
  let k2 := cmacDouble k1
  cbcMac rk (List.replicate 16 0) (cmacBlocks k1 k2 (blocks16 l))

/-! ## Key wrap (RFC 3394) -/

/-- The default initial value. -/
def kwIv : List Byte := List.replicate 8 0xA6

/-- One pass of wrapping over the registers; `t` counts the steps. -/
def kwPass (rk : List (List Byte)) : Nat → List Byte → List (List Byte) → List Byte × List (List Byte)
  | _, a, [] => (a, [])
  | t, a, r :: rs =>
    let b := encBlock rk (a ++ r)
    let q := kwPass rk (t + 1) (xorL (b.take 8) (beBytes 8 t)) rs
    (q.1, b.drop 8 :: q.2)

/-- Six passes of wrapping. -/
def kwRounds (rk : List (List Byte)) (n : Nat) : Nat → Nat → List Byte × List (List Byte) → List Byte × List (List Byte)
  | 0, _, x => x
  | j + 1, t, x => kwRounds rk n j (t + n) (kwPass rk t x.1 x.2)

/-- Key wrap. -/
def kwWrap (rk : List (List Byte)) (l : List Byte) : List Byte :=
  let rs := chunksOf 8 (l.length / 8) l
  let x := kwRounds rk rs.length 6 1 (kwIv, rs)
  x.1 ++ x.2.flatten

/-- One pass of unwrapping, over the registers last first; `t` counts the steps down. -/
def kwUnpass (rk : List (List Byte)) : Nat → List Byte → List (List Byte) → List Byte × List (List Byte)
  | _, a, [] => (a, [])
  | t, a, r :: rs =>
    let b := decBlock rk (xorL a (beBytes 8 t) ++ r)
    let q := kwUnpass rk (t - 1) (b.take 8) rs
    (q.1, b.drop 8 :: q.2)

/-- Six passes of unwrapping. -/
def kwUnrounds (rk : List (List Byte)) (n : Nat) : Nat → Nat → List Byte × List (List Byte) → List Byte × List (List Byte)
  | 0, _, x => x
  | j + 1, t, x => kwUnrounds rk n j (t - n) (kwUnpass rk t x.1 x.2)

/-- Key unwrap: the key, and whether the integrity check passes. -/
def kwUnwrap (rk : List (List Byte)) (l : List Byte) : List Byte × Bool :=
  let cs := chunksOf 8 (l.length / 8) l
  let n := cs.length - 1
  let x := kwUnrounds rk n 6 (6 * n) (cs.headD [], cs.tail.reverse)
  (x.2.reverse.flatten, x.1 == kwIv)

end Sys2Proof.Machine
end

