-- ==== Sys2Proof/Machine/Cry.lean ====
section
/-!
DEFINITION. Cry: the cipher engine: rings, acceptance, tags, scheduling, jobs, completions, key slots and units
(R222 to R243, R246 to R250).
-/

namespace Sys2Proof.Machine

open Sys2Proof

/-- The cipher engine updated. -/
def updCry (s : State) (f : Cry → Cry) : State := { s with cry := f s.cry }

/-- A bit of CRY_EVT set. -/
def cryEvt (i : Nat) (s : State) : State := updCry s (fun c => { c with evt := withBit c.evt i true })

/-- Whether the engine works: usable, and its domain powered (R248). -/
def cryOn (s : State) : Bool := !unusable s 50 && domReady s .crypto

/-- PROD and CONS of a ring of 2^size entries count modulo twice that (R223); with the ring off they are 9-bit counts. -/
def ringMod (size : Nat) : Nat := if size = 0 then 512 else 2 * 2 ^ size

/-- The entries made available and not yet taken. -/
def ringAvail (size prod cons : Nat) : Nat := (prod % ringMod size + ringMod size - cons % ringMod size) % ringMod size

/-! ## Descriptor fields (R224) -/

/-- OP of a descriptor. -/
def jobOp (w : Vector W32 8) : Nat := fld (w[0]) 27 24
/-- DIR of a descriptor: decrypt, verify or unwrap. -/
def jobDec (w : Vector W32 8) : Bool := bit (w[0]) 29
/-- FENCE of a descriptor. -/
def jobFence (w : Vector W32 8) : Bool := bit (w[0]) 31
/-- AFM = HOLD. -/
def jobHold (w : Vector W32 8) : Bool := bit (w[0]) 30
/-- SLOTDST of a descriptor. -/
def jobSlotDst (w : Vector W32 8) : Bool := bit (w[0]) 28
/-- KEYSLOT of a descriptor. -/
def jobSlot (w : Vector W32 8) : Fin 32 := ⟨fld (w[0]) 20 16, by unfold fld; omega⟩
/-- The slot that DST names with SLOTDST = 1. -/
def jobDstSlot (w : Vector W32 8) : Fin 32 := ⟨fld (w[2]) 4 0, by unfold fld; omega⟩
/-- TLEN of a descriptor. -/
def jobTlen (w : Vector W32 8) : Nat := fld (w[0]) 13 8
/-- SRC of a descriptor. -/
def jobSrc (w : Vector W32 8) : Nat := (w[1]).toNat
/-- DST of a descriptor. -/
def jobDst (w : Vector W32 8) : Nat := (w[2]).toNat
/-- LEN of a descriptor. -/
def jobLen (w : Vector W32 8) : Nat := fld (w[3]) 23 0
/-- AADLEN of a descriptor. -/
def jobAadLen (w : Vector W32 8) : Nat := fld (w[5]) 31 16

/-- Operations of unit HX (R225). -/
def hxOp (op : Nat) : Bool := op = 8 || op = 9

/-- Authenticated encryption (R225). -/
def aeadOp (op : Nat) : Bool := op = 3 || op = 4 || op = 5

/-- The bytes of IV, nonce or counter block that an operation reads (R225). -/
def ivLen (op : Nat) : Nat := if op = 1 || op = 2 then 16 else if op = 3 || op = 4 then 13 else if op = 5 then 12 else 0

/-- Whether a tag is read at SRC + LEN (R225). -/
def readsTag (w : Vector W32 8) : Bool := jobDec w && (aeadOp (jobOp w) || jobOp w = 6 || jobOp w = 9)

/-- The bytes an operation writes to memory when it succeeds (R225). -/
def outLenOf (w : Vector W32 8) : Nat :=
  let op := jobOp w
  if aeadOp op then (if jobDec w then jobLen w else jobLen w + jobTlen w)
  else if op = 1 || op = 2 then jobLen w
  else if op = 6 || op = 9 then (if jobDec w then 0 else jobTlen w)
  else if op = 7 then (if jobDec w then (if jobSlotDst w then 0 else jobLen w - 8) else jobLen w + 8)
  else if op = 8 then 32 else 0

/-- Whether R235 covers a job: it decrypts with a tag, or unwraps into memory. -/
def afmCovers (w : Vector W32 8) : Bool :=
  jobDec w && (jobOp w = 3 || (jobOp w = 4 && jobTlen w != 0) || jobOp w = 5 || (jobOp w = 7 && !jobSlotDst w))

/-- Whether two byte ranges meet. -/
def rangesMeet (a n b k : Nat) : Bool := 0 < n && 0 < k && a < b + k && b < a + n

/-- Whether the output range of a job meets an input range, in-place operation apart (R225, R226). -/
def jobOverlap (w : Vector W32 8) : Bool :=
  let o := outLenOf w
  let inPlace := jobSrc w = jobDst w && jobOp w ≤ 5
  (!inPlace && rangesMeet (jobSrc w) (jobLen w + (if readsTag w then jobTlen w else 0)) (jobDst w) o)
    || rangesMeet (w[4]).toNat (jobAadLen w) (jobDst w) o
    || rangesMeet (w[6]).toNat (ivLen (jobOp w)) (jobDst w) o

/-- Whether every reserved or unused field is zero and OP is assigned (R224, R225, R234). AFM is ignored where it does not
apply (R235). -/
def jobFieldsOk (w : Vector W32 8) : Bool :=
  let op := jobOp w
  1 ≤ op && op ≤ 9
    && w[0] &&& 0x00E0C0FF = 0 && w[3] &&& 0xFF000000 = 0 && w[5] &&& 0x0000FFFF = 0
    && (!jobSlotDst w || (op = 7 && jobDec w && w[2] &&& 0xFFFFFFE0 = 0))
    && (op != 8 || (!jobDec w && jobSlot w = 0))
    && (!(jobDec w && (op = 6 || op = 9)) || w[2] = 0)
    && (aeadOp op || (w[4] = 0 && w[5] = 0))
    && (0 < ivLen op || w[6] = 0)

/-- Whether LEN, AADLEN and TLEN are within R225. -/
def jobLensOk (w : Vector W32 8) : Bool :=
  let n := jobLen w
  let t := jobTlen w
  let ccmT := t % 2 = 0 && 4 ≤ t && t ≤ 16
  match jobOp w with
  | 1 => n % 16 = 0 && 16 ≤ n && t = 0
  | 2 => 1 ≤ n && t = 0
  | 3 => n ≤ 65535 && jobAadLen w ≤ 65279 && ccmT
  | 4 => n ≤ 65535 && jobAadLen w ≤ 65279 && (ccmT || t = 0)
  | 5 => t = 4 || t = 8 || (12 ≤ t && t ≤ 16)
  | 6 => 4 ≤ t && t ≤ 16
  | 7 => n % 8 = 0 && (if jobDec w then 24 ≤ n else 16 ≤ n) && t = 0
  | 8 => t = 0
  | 9 => 4 ≤ t && t ≤ 32
  | _ => false

/-- Whether a descriptor may stand in the EXPRESS ring (R229, R230). -/
def expressOk (w : Vector W32 8) : Bool :=
  2 ≤ jobOp w && jobOp w ≤ 6 && jobLen w + jobAadLen w ≤ 256 && !jobFence w

/-- The check at acceptance: 0, or the status of R234. -/
def jobCheck (c : Fin 4) (w : Vector W32 8) : Nat :=
  if !jobFieldsOk w || jobOverlap w then 0x10
  else if !jobLensOk w then 0x11
  else if afmCovers w && jobHold w && 2048 < jobLen w then 0x12
  else if c = 0 && !expressOk w then 0x13
  else 0

/-! ## Tags, statuses and completions (R227, R233, R234) -/

/-- The jobs that units run or hold suspended. -/
def unitJobs (c : Cry) : List Job := (idx 5).flatMap (fun u => (c.unit[u]).run.toList ++ (c.unit[u]).susp.toList)

/-- The tags held (R227). -/
def heldTags (c : Cry) : List Byte := c.jobs.map (·.tag) ++ (unitJobs c).map (·.tag) ++ c.done.map (·.tag)

/-- The next firmware tag: the first free one after the one last assigned, modulo 248 (R227). -/
def nextTag (c : Cry) : Option Nat :=
  ((List.range 248).map (fun i => (c.lastTag + 1 + i) % 248)).find? (fun t => !(heldTags c).contains (BitVec.ofNat 8 t))

/-- The completion ring is full, or off (R233). -/
def cplFull (c : Cry) : Bool := c.cplSize = 0 || ringAvail c.cplSize c.cplProd c.cplCons = 2 ^ c.cplSize

/-- Whether more than 16 completions wait for a full ring (R233). -/
def cplOver (c : Cry) : Bool := cplFull c && 16 < c.done.length

/-- CPL_STALL is set once more than 16 completions wait for a full ring (R233). -/
def cplStall (s : State) : State :=
  if cplOver s.cry && !s.cry.stall then updCry s (fun c => { c with stall := true, evt := withBit c.evt 4 true }) else s

/-- An entry is posted: dispatch goes on if no more than 16 completions wait for a full ring (R233). -/
def cplPosted (s : State) : State := updCry s (fun c => { c with stall := cplOver c })

/-- The queues of accepted jobs, with the time noted since which each is at the head of its own (R228). -/
def markHeads (now : Nat) : List Job → List Job → List Job
  | _, [] => []
  | seen, j :: t =>
    let j := if j.headT.isNone && seen.all (fun k => k.cls != j.cls || hxOp (jobOp k.w) != hxOp (jobOp j.w))
      then { j with headT := some now } else j
    j :: markHeads now (j :: seen) t

/-- The accepted jobs replaced. -/
def setJobs (l : List Job) (s : State) : State := updCry s (fun c => { c with jobs := markHeads s.time [] l })

/-- A status counted (R250). -/
def countStatus (internal : Bool) (st : Nat) (c : Cry) : Cry :=
  if st = 0 then (if internal then { c with cntInt := satInc c.cntInt 65535 } else { c with cntFw := satInc c.cntFw 65535 })
  else if st ≤ 2 then { c with cntAuth := satInc c.cntAuth 65535 }
  else { c with cntOther := satInc c.cntOther 255 }

/-- A firmware job ends with a status: it is counted, flagged, and its completion waits for posting. -/
def finishJob (j : Job) (st unit outLen : Nat) (s : State) : State :=
  let s := updCry s (fun c => countStatus false st { c with
    done := c.done ++ [{ status := st, tag := j.tag, seq := j.seq, cls := j.cls, unit := unit, cookie := j.w[7]
                         outLen := if st = 0 then outLen else 0, accept := j.accept }] })
  let s := if st = 1 then cryEvt 1 s else if 2 ≤ st then cryEvt 2 s else s
  cplStall s

/-! ## Acceptance (R223, R226, R227, R247) -/

/-- The eight words of a descriptor. -/
def descWords (l : List Byte) : Vector W32 8 := Vector.ofFn (fun i => wordOf l i.val)

/-- The engine accepts the next descriptor of a class's ring. It aborts an entry to SLUMBER (R325). -/
def acceptJob (c : Fin 4) (s : State) : State :=
  let r := s.cry.ring[c]
  match nextTag s.cry with
  | none => s
  | some t =>
    if !cryOn s || r.size = 0 || ringAvail r.size r.prod r.cons = 0 then s
    else
      let m := r.writer.headD .hostS
      let x := dmaRead .cryDma (r.base.toNat + 32 * (r.cons % 2 ^ r.size)) 32 (fence s)
      let bad := x.1.1 != .okay
      let w := if bad then .replicate 8 0 else descWords x.1.2
      let j : Job := { tag := BitVec.ofNat 8 t, cls := c, seq := s.cry.seq, w := w, user := .mid m, aged := false
                       accept := s.time, key := [] }
      let s1 := updCry x.2 (fun q => { q with
        ring := upd q.ring c (fun r => { r with cons := (r.cons + 1) % ringMod r.size, writer := r.writer.tail })
        lastTag := t, seq := q.seq + 1 })
      if bad then cryEvt 3 (finishJob j 0x30 7 0 s1)
      else if jobCheck c w != 0 then finishJob j (jobCheck c w) 7 0 s1
      else setJobs (s1.cry.jobs ++ [j]) s1

/-! ## Dispatch (R228 to R232) -/

/-- A job's rank: its class, or HIGH once aged (R228). -/
def jobRank (j : Job) : Nat := if j.aged && 2 ≤ j.cls.val then 1 else j.cls.val

/-- Whether a job's fence still holds it: an earlier accepted firmware job has not been posted (R229). -/
def fenced (c : Cry) (j : Job) : Bool :=
  jobFence j.w && ((c.jobs ++ unitJobs c).any (fun k => k.user != .trx && k.seq < j.seq) || c.done.any (·.seq < j.seq))

/-- The head of a class's queue for a kind of unit: the radio's jobs go first (R228). -/
def queueHead (c : Cry) (hx : Bool) (cls : Fin 4) : Option Job :=
  let l := c.jobs.filter (fun j => j.cls = cls && hxOp (jobOp j.w) = hx)
  (l.filter (·.user = .trx) ++ l).head?

/-- Whether one job goes before another: the higher rank, then the radio's, then the earlier accepted (R228). -/
def jobBefore (a b : Job) : Bool :=
  jobRank a < jobRank b || (jobRank a = jobRank b && ((a.user = .trx && b.user != .trx) || ((a.user = .trx) = (b.user = .trx) && a.seq < b.seq)))

/-- The first dispatchable job for a kind of unit, in the order of R228. -/
def bestJob (c : Cry) (hx : Bool) : Option Job :=
  (((idx 4).filterMap (queueHead c hx)).filter (fun j => !fenced c j)).foldl
    (fun r j => match r with
      | none => some j
      | some a => if jobBefore j a then some j else r) none

/-- Whether a slot's SIZE fits an operation (R240). -/
def sizeFits (op size : Nat) : Bool := if op = 9 then size = 4 else 1 ≤ size && size ≤ 3

/-- The bit of CRY_KS_POL that a job needs (R240). -/
def useBit (w : Vector W32 8) : Nat :=
  let op := jobOp w
  let d := if jobDec w then 1 else 0
  if op ≤ 5 then 16 + d else if op = 7 then 20 + d else 18 + d

/-- The bit of CRY_KS_POL that admits a user, if it can be admitted (R238). -/
def userBit : JobUser → Option Nat
  | .mid .hostS => some 8 | .mid .hostU => some 9 | .mid .groom => some 10 | .trx => some 11
  | _ => none

/-- The bytes of key that a SIZE calls for (R238). -/
def keyLen (size : Nat) : Nat := if size = 1 then 16 else if size = 2 then 24 else if size = 3 ∨ size = 4 then 32 else 0

/-- Whether an unwrap may write its target slot (R241). -/
def targetOk (c : Cry) (w : Vector W32 8) : Bool :=
  let k := c.ks[jobDstSlot w]
  !k.valid && !bit k.pol 31 && keyLen (fld k.pol 26 24) != 0 && jobLen w - 8 = keyLen (fld k.pol 26 24)

/-- The policy check at dispatch (R232, R241): 0, KEY_EMPTY or POLICY. -/
def slotCheck (c : Cry) (u : JobUser) (w : Vector W32 8) : Nat :=
  let k := c.ks[jobSlot w]
  if jobOp w = 8 then 0
  else if !k.valid then 0x20
  else if !(sizeFits (jobOp w) (fld k.pol 26 24) && bit k.pol (useBit w)
      && (match userBit u with | some b => bit k.pol b | none => false)) then 0x21
  else if jobSlotDst w && !targetOk c w then 0x21
  else 0

/-- Whether a unit is the hash core. -/
def isHx (u : Fin 5) : Bool := u = 4

/-- Every unit of a kind is FAILED or UNUSABLE (R248). -/
def noUnit (c : Cry) (hx : Bool) : Bool :=
  (idx 5).all (fun u => isHx u != hx || (c.unit[u]).st = .failed || (c.unit[u]).st = .unusable)

/-- A unit updated. -/
def updUnit (s : State) (u : Fin 5) (f : CUnit → CUnit) : State := updCry s (fun c => { c with unit := upd c.unit u f })

/-- A job leaves the queues of accepted jobs. -/
def takeJob (j : Job) (s : State) : State := setJobs (s.cry.jobs.filter (fun x => x.tag != j.tag)) s

/-! ## The radio's jobs (R201, R227, R230, R231) -/

/-- The lowest tag of the internal port that no job holds. -/
def portTag (c : Cry) : Option Byte :=
  ((List.range 8).map (fun i => BitVec.ofNat 8 (248 + i))).find? (fun t => !(heldTags c).contains t)

/-- The first request that waits for a tag takes one that is free. -/
def admitHeld (s : State) : State :=
  match s.cry.held, portTag s.cry with
  | j :: l, some t => setJobs (s.cry.jobs ++ [{ j with tag := t }]) (updCry s (fun c => { c with held := l }))
  | _, _ => s

/-- A job of the radio ends: its outcome is returned, and its tag is free. A failure is counted here, the outcome of a check by the
radio. -/
def endPort (j : Job) (st : Nat) (s : State) : State :=
  admitHeld (updCry s (fun c =>
    let c := if st = 0 then c else countStatus true st c
    { c with ret := c.ret ++ [{ seq := j.seq, st := st, key := j.key }] }))

/-- The descriptor of a CCM* job of the radio: decryption with HOLD, or encryption, with an 8-octet MIC (R176, R231). -/
def portWords (slot : Fin 32) (dec : Bool) (aad len : Nat) : Vector W32 8 :=
  #v[putB dec 30 ||| putB dec 29 ||| put 4 24 ||| put slot.val 16 ||| put 8 8, 0, 0, put len 0, 0, put aad 16, 0, 0]

/-- The radio asks for a job: the request's number, or none where the port refuses it at once. The CRYPTO domain is powered on
demand (R320); a request that finds all eight tags held waits. -/
def portRequest (cls : Fin 4) (slot : Fin 32) (dec : Bool) (aad len : Nat) (s : State) : Option Nat × State :=
  let w := portWords slot dec aad len
  if unusable s 50 then (none, s)
  else if cls = 0 && !expressOk w then (none, updCry s (countStatus true 0x13))
  else
    let s := fence s
    let s := if domReady s .crypto then s else { s with pwr := { s.pwr with waking := withBit s.pwr.waking (domBit .crypto) true } }
    let j : Job := { tag := 0, cls := cls, seq := s.cry.seq, w := w, user := .trx, aged := false, accept := s.time, key := [] }
    (some s.cry.seq, admitHeld (updCry s (fun c => { c with seq := c.seq + 1, held := c.held ++ [j] })))

/-- A job that ends without having run, or at its end: a firmware job completes, the radio's returns. -/
def closeJob (j : Job) (st unit outLen : Nat) (s : State) : State :=
  if j.user = .trx then endPort j st s else finishJob j st unit outLen s

/-- A job goes to a unit, or is rejected by its key slot (R232). -/
def giveJob (u : Fin 5) (j : Job) (s : State) : State :=
  let s := takeJob j s
  let e := slotCheck s.cry j.user j.w
  if e != 0 then closeJob j e 7 0 s
  else
    let key := if jobOp j.w = 8 then [] else (s.cry.ks[jobSlot j.w]).key
    updUnit s u (fun x => { x with susp := if x.run.isSome then x.run else x.susp, run := some { j with key := key } })

/-- The core that an EXPRESS job suspends when none is free: running the lowest class, lowest number on a tie, holding no
suspended job (R230, R246). -/
def victim (c : Cry) : Option (Fin 5) :=
  (idx 5).foldl (fun r u =>
    let x := c.unit[u]
    match x.run with
    | none => r
    | some j =>
      if isHx u || x.st != .inSvc || x.susp.isSome || j.cls = 0 then r
      else match r with
        | none => some u
        | some v => match (c.unit[v]).run with
          | some k => if k.cls < j.cls then some u else r
          | none => r) none

/-- Some AES core in service is free. -/
def coreFree (c : Cry) : Bool :=
  (idx 5).any (fun u => !isHx u && (c.unit[u]).st = .inSvc && (c.unit[u]).run.isNone)

/-- Whether an AES core is free for any job: in service, and neither running nor holding a suspended one. -/
def idleCore (c : Cry) (u : Fin 5) : Bool :=
  !isHx u && (c.unit[u]).st = .inSvc && (c.unit[u]).run.isNone && (c.unit[u]).susp.isNone

/-- The place of a free core: the lowest number, those that became IN in this cycle last (R228, R246). -/
def corePlace (now : Nat) (c : Cry) (u : Fin 5) : Nat := u.val + (if (c.unit[u]).inAt = some now then 8 else 0)

/-- Whether a unit is the free one that takes the first job. -/
def firstFree (now : Nat) (c : Cry) (u : Fin 5) : Bool :=
  isHx u || (idx 5).all (fun v => !idleCore c v || corePlace now c u ≤ corePlace now c v)

/-- A unit resumes its suspended job (R230). -/
def resumeJob (u : Fin 5) (s : State) : State := updUnit s u (fun x => { x with run := x.susp, susp := none })

/-- A unit takes work (R228 to R232, R248). -/
def dispatch (u : Fin 5) (s : State) : State :=
  let x := s.cry.unit[u]
  if !cryOn s then s
  else
    let b := bestJob s.cry (isHx u)
    let express := match b with | some j => j.cls = 0 | none => false
    if noUnit s.cry (isHx u) then
      match b with | some j => closeJob j 0x31 7 0 (takeJob j s) | none => s
    else if x.run.isNone && x.susp.isSome && !(express && x.st = .inSvc && !s.cry.stall) then resumeJob u s
    else if x.st != .inSvc || s.cry.stall then s
    else match b with
      | none => s
      | some j =>
        if x.run.isNone then (if x.susp.isSome || firstFree s.time s.cry u then giveJob u j s else s)
        else if express && !coreFree s.cry && victim s.cry = some u then giveJob u j s
        else s

/-! ## Running a job (R235 to R237, R240, R241) -/

/-- What an operation gives: the output bytes, and whether its check passes. -/
def jobResult (w : Vector W32 8) (key iv aad src tag : List Byte) : List Byte × Bool :=
  let rk := roundKeys key
  let t := jobTlen w
  match jobOp w, jobDec w with
  | 1, false => (cbcEnc rk iv (blocks16 src), true)
  | 1, true => (cbcDec rk iv (blocks16 src), true)
  | 2, _ => (ctrMode rk iv src, true)
  | 3, false => (ccmCrypt rk iv src ++ ccmTag rk iv aad src t, true)
  | 4, false => (ccmCrypt rk iv src ++ ccmTag rk iv aad src t, true)
  | 3, true => (ccmCrypt rk iv src, ccmTag rk iv aad (ccmCrypt rk iv src) t = tag)
  | 4, true => (ccmCrypt rk iv src, ccmTag rk iv aad (ccmCrypt rk iv src) t = tag)
  | 5, false => (gcmCrypt rk iv src ++ gcmTag rk iv aad (gcmCrypt rk iv src) t, true)
  | 5, true => (gcmCrypt rk iv src, gcmTag rk iv aad src t = tag)
  | 6, false => ((cmac rk src).take t, true)
  | 6, true => ([], (cmac rk src).take t = tag)
  | 7, false => (kwWrap rk src, true)
  | 7, true => kwUnwrap rk src
  | 8, _ => (sha256 src, true)
  | 9, false => ((hmac256 key src).take t, true)
  | 9, true => ([], (hmac256 key src).take t = tag)
  | _, _ => ([], true)

/-- The inputs of a job: IV, additional data, input and expected tag, and whether every read was answered OKAY. -/
structure JobIn where
  iv  : List Byte
  aad : List Byte
  src : List Byte
  tag : List Byte
  ok  : Bool
  deriving DecidableEq, Repr

/-- The inputs of a job read by CRY-DMA, up to a response other than OKAY. -/
def jobInputs (w : Vector W32 8) (s : State) : JobIn × State :=
  match dmaRead .cryDma (w[6]).toNat (ivLen (jobOp w)) s with
  | ((.okay, iv), s1) =>
    match dmaRead .cryDma (w[4]).toNat (jobAadLen w) s1 with
    | ((.okay, aad), s2) =>
      match dmaRead .cryDma (jobSrc w) (jobLen w) s2 with
      | ((.okay, src), s3) =>
        match dmaRead .cryDma (jobSrc w + jobLen w) (if readsTag w then jobTlen w else 0) s3 with
        | ((.okay, tag), s4) => (⟨iv, aad, src, tag, true⟩, s4)
        | (_, s4) => (⟨iv, aad, src, [], false⟩, s4)
      | ((_, src), s3) => (⟨iv, aad, src, [], false⟩, s3)
    | (_, s2) => (⟨iv, [], [], [], false⟩, s2)
  | (_, s1) => (⟨[], [], [], [], false⟩, s1)

/-- The whole blocks of input that a job read before a refused read and had written out: the modes that go block by block write
as they proceed (R235, R237, log 74). -/
def blocksRead (w : Vector W32 8) (x : JobIn) : List Byte :=
  if jobOp w ≤ 5 then (if x.src.length = jobLen w then x.src else x.src.take (x.src.length / 16 * 16)) else []

/-- A job whose read is refused: the output it had written stays, or for a job with a tag is zeroed, or under HOLD was never
written (R237). -/
def jobBroken (w : Vector W32 8) (key : List Byte) (x : JobIn) (s : State) : State :=
  if afmCovers w && jobHold w then s
  else
    let out := ((jobResult w key x.iv x.aad (blocksRead w x) []).1).take (blocksRead w x).length
    match dmaWrite .cryDma (jobDst w) out s with
    | ((_, n), s1) => if afmCovers w then (dmaZero .cryDma (jobDst w) n s1).2 else s1

/-- An unwrapped key goes into its slot (R241). -/
def fillSlot (k : Fin 32) (key : List Byte) (s : State) : State :=
  updCry s (fun c => { c with ks := upd c.ks k (fun x => { x with key := key, valid := true }) })

/-- The output of a job written, and its status (R225, R235, R236, R237). -/
def jobOutput (w : Vector W32 8) (out : List Byte) (ok : Bool) (s : State) : Nat × State :=
  let cov := afmCovers w
  if jobSlotDst w then
    if !ok then (1, s) else if !targetOk s.cry w then (0x21, s) else (0, fillSlot (jobDstSlot w) out s)
  else if !ok && (!cov || jobHold w) then (1, s)
  else
    match dmaWrite .cryDma (jobDst w) out s with
    | ((.okay, _), s1) =>
      if ok then (0, s1)
      else
        let z := dmaZero .cryDma (jobDst w) out.length s1
        (if z.1 then 1 else 2, z.2)
    | ((_, n), s1) =>
      if !cov then (0x30, s1)
      else if jobHold w then (0x30, { s1 with mem := s.mem })
      else (0x30, (dmaZero .cryDma (jobDst w) n s1).2)

/-- A job run to its end: its status and the state after it. -/
def runJob (w : Vector W32 8) (key : List Byte) (s : State) : Nat × State :=
  match jobInputs w s with
  | (x, s1) =>
    if !x.ok then (0x30, jobBroken w key x s1)
    else
      let r := jobResult w key x.iv x.aad x.src x.tag
      jobOutput w r.1 r.2 s1

/-- A unit falls idle: DRAINING ends once nothing runs or is suspended (R242). -/
def drained (x : CUnit) : CUnit :=
  if x.st = .draining && x.run.isNone && x.susp.isNone then { x with st := .out } else x

/-- The job a unit runs ends; a suspended job goes on unless an EXPRESS job waits for the core (R230). -/
def endJob (u : Fin 5) (s : State) : State :=
  match (s.cry.unit[u]).run with
  | none => s
  | some j =>
    let s := updUnit s u (fun x => { x with run := none })
    let s := if j.user = .trx then endPort j 0 s
      else
        let r := runJob j.w j.key s
        finishJob j r.1 u.val (outLenOf j.w) r.2
    let express := match bestJob s.cry (isHx u) with | some k => k.cls = 0 | none => false
    let x := s.cry.unit[u]
    if x.susp.isSome && !(express && x.st = .inSvc && !s.cry.stall) then resumeJob u s
    else updUnit s u drained

/-! ## Posting (R233, R247) -/

/-- The 16 bytes of a completion entry; LAT counts µs from acceptance. -/
def cplBytes (s : State) (x : Cpl) : List Byte :=
  let lat := min ((s.time - x.accept) * 10 / 1536) 65535
  leBytes 4 (x.status * 2 ^ 24 + x.tag.toNat * 2 ^ 16 + x.cls.val * 2 ^ 14 + x.unit * 2 ^ 11)
    ++ leBytes 4 x.cookie.toNat ++ leBytes 4 x.outLen ++ leBytes 4 lat

/-- The first waiting completion is posted if the ring has room; a refused entry write drops it. -/
def postCpl (s : State) : State :=
  match s.cry.done with
  | [] => s
  | x :: t =>
    if !cryOn s || cplFull s.cry then s
    else
      let r := dmaWrite .cryDma (s.cry.cplBase.toNat + 16 * (s.cry.cplProd % 2 ^ s.cry.cplSize)) (cplBytes s x) s
      let s1 := updCry r.2 (fun c => { c with done := t })
      if r.1.1 = .okay then
        cplPosted (cryEvt 0 (updCry s1 (fun c => { c with cplProd := (c.cplProd + 1) % ringMod c.cplSize })))
      else (cryEvt 3 (updCry s1 (fun c => { c with cntLost := satInc c.cntLost 255 })))

/-! ## Registers (R250) -/

/-- CRY_Q_c_PROD: descriptors become available to the writer's account (R223, R232). -/
def effCryProd (m : Mid) (c : Fin 4) (d : W32) (s : State) : State :=
  fence (updCry s (fun q => { q with ring := upd q.ring c (fun r =>
    let p := fld d 8 0
    let n := ringAvail r.size p r.cons
    { r with prod := p, writer := r.writer.take n ++ List.replicate (n - r.writer.length) m }) }))

/-- Whether a ring holds accepted jobs, or PROD differs from CONS (R250). -/
def ringHeld (c : Cry) (k : Fin 4) : Bool :=
  let r := c.ring[k]
  (c.jobs ++ unitJobs c).any (fun j => j.user != .trx && j.cls = k) || c.done.any (·.cls = k)
    || r.prod % ringMod r.size != r.cons % ringMod r.size

/-- Whether the completion ring has entries unconsumed or waiting (R250). -/
def cplHeld (c : Cry) : Bool := !c.done.isEmpty || c.cplProd % ringMod c.cplSize != c.cplCons % ringMod c.cplSize

/-- A ring's BASE, SIZE or PROD written. -/
def ringWrite (m : Mid) (k : Fin 4) (off : Nat) (d : W32) (s : State) : Option State :=
  let set (f : JobRing → JobRing) : Option State :=
    if ringHeld s.cry k then none else some (updCry s (fun c => { c with ring := upd c.ring k f }))
  match off with
  | 0 => set (fun r => { r with base := d &&& 0xFFFFFFE0 })
  | 4 =>
    let z := fld d 3 0
    if z = 0 ∨ (3 ≤ z ∧ z ≤ 8) then set (fun r => { r with size := z }) else none
  | 8 => some (effCryProd m k d s)
  | _ => some s

/-- FLUSH: accepted jobs of the classes not yet dispatched complete FLUSHED, in acceptance order (R246). -/
def effFlush (mask : Nat) (s : State) : State :=
  let go (j : Job) : Bool := j.user != .trx && mask.testBit j.cls.val
  let l := s.cry.jobs.filter go
  let s := setJobs (s.cry.jobs.filter (fun j => !go j)) s
  l.foldl (fun s j => finishJob j 0x40 7 0 s) s

/-- OUT_REQ (R242). A unit under test ignores it (R416). -/
def effOut (u : Fin 5) (s : State) : State :=
  if underTest s (51 + u.val) then s
  else updUnit s u (fun x => match x.st with
    | .inSvc => { x with st := if x.run.isSome || x.susp.isSome then .draining else .out }
    | .testing => { x with st := .out }
    | _ => x)

/-- IN_REQ (R242, R248). A unit under test ignores it (R416). -/
def effIn (u : Fin 5) (s : State) : State :=
  if underTest s (51 + u.val) then s
  else updUnit s u (fun x => if x.st = .out || x.st = .failed then { x with st := .testing } else x)

/-- The fields of CRY_KS_POL that can be written. -/
def polMask : W32 := 0x873F0F00

/-- A selected slot updated. -/
def updSlot (s : State) (f : KeySlot → KeySlot) : State :=
  updCry s (fun c => { c with ks := (idx 32).foldl (fun v k => if k.val = c.ksSel then upd v k f else v) c.ks })

/-- The selected slot. -/
def selSlot (c : Cry) : KeySlot := (c.ks[c.ksSel]?).getD {}

/-- CRY_KS_POL (R239). -/
def effKsPol (d : W32) (s : State) : Option State :=
  let k := selSlot s.cry
  let v := d &&& polMask
  if bit k.pol 31 then none
  else if k.valid then (if v = (k.pol ||| 0x80000000) then some (updSlot s (fun k => { k with pol := v })) else none)
  else some (updSlot s (fun k => { k with pol := v }))

/-- The staging registers zeroed. -/
def clearStage (s : State) : State := updCry s (fun c => { c with stage := .replicate 8 0 })

/-- CRY_KS_CMD LOAD (R239). -/
def effKsLoad (s : State) : Option State :=
  let k := selSlot s.cry
  let n := keyLen (fld k.pol 26 24)
  if n = 0 ∨ k.valid ∨ bit k.pol 31 then none
  else some (clearStage (updSlot s (fun k => { k with valid := true, key := (bytesOf s.cry.stage).take n })))

/-- CRY_KS_CMD CLEAR (R239). -/
def effKsClear (s : State) : Option State :=
  if bit (selSlot s.cry).pol 31 then none
  else some (clearStage (updSlot s (fun k => { k with valid := false, key := [] })))

/-- All counts cleared. -/
def effCryCntClr (d : W32) (s : State) : State :=
  if bit d 0 then updCry s (fun c => { c with cntInt := 0, cntFw := 0, cntAuth := 0, cntOther := 0, cntLost := 0 }) else s

/-- The key slot registers: only MID 0 writes them (R239). -/
def ksWrite (m : Mid) (off : Nat) (d : W32) (s : State) : Option State :=
  if m != .hostS then none
  else if off = 0x100 then some (updCry s (fun c => { c with ksSel := fld d 4 0 }))
  else if off = 0x104 then effKsPol d s
  else if off = 0x108 then (if fld d 1 0 = 1 then effKsLoad s else if fld d 1 0 = 2 then effKsClear s else some s)
  else match windowIdx 8 4 (off - 0x120) with
    | some j => if off < 0x120 then some s else some (updCry s (fun c => { c with stage := c.stage.set j.val d }))
    | none => some s

/-- The index of a job ring or a unit at an offset. -/
def cryRing (off : Nat) : Option (Fin 4) := if 0x020 ≤ off then windowIdx 4 0x10 (off - 0x020) else none
/-- The unit whose register lies at an offset. -/
def cryUnit (off : Nat) : Option (Fin 5) := if 0x080 ≤ off then windowIdx 5 4 (off - 0x080) else none

/-- A CRY register written; none is SLVERR. -/
def cryWrite (m : Mid) (off : Nat) (d : W32) (s : State) : Option State :=
  if 0x100 ≤ off ∧ off < 0x140 then ksWrite m off d s
  else match cryRing off with
  | some k => ringWrite m k (off % 0x10) d s
  | none => match cryUnit off with
    | some u =>
      let s := if bit d 31 then effOut u s else s
      some (if bit d 30 then effIn u s else s)
    | none => match off with
      | 0x004 => some (updCry s (fun c => { c with evt := c.evt &&& ~~~ d }))
      | 0x008 => some (updCry s (fun c => { c with evtEn := d &&& 0x7F }))
      | 0x00C => some (updCry s (fun c => { c with age := fld d 7 0 }))
      | 0x060 => some (effFlush (fld d 3 0) s)
      | 0x070 => if cplHeld s.cry then none else some (updCry s (fun c => { c with cplBase := d &&& 0xFFFFFFF0 }))
      | 0x074 =>
        let z := fld d 3 0
        if cplHeld s.cry || !(z = 0 || (4 ≤ z && z ≤ 8)) then none else some (updCry s (fun c => { c with cplSize := z }))
      | 0x07C => some (updCry s (fun c => { c with cplCons := fld d 8 0 }))
      | 0x0A8 => some (effCryCntClr d s)
      | _ => some s

/-- The jobs in flight, the radio's among them (R227). -/
def inFlight (s : State) : Nat := (heldTags s.cry).length

/-- CRY_UNIT_u.STATE (R242). -/
def unitNum : UnitSt → Nat
  | .inSvc => 0 | .draining => 1 | .out => 2 | .testing => 3 | .failed => 4 | .unusable => 5

/-- CRY_UNIT_u (R250). -/
def unitWord (x : CUnit) : W32 :=
  putB x.susp.isSome 25 ||| putB x.run.isSome 24
    ||| put (match x.run with | some j => j.tag.toNat | none => 0) 16 ||| put (unitNum x.st) 0

/-- A CRY register read. -/
def cryRead (off : Nat) (s : State) : W32 :=
  let c := s.cry
  match cryRing off with
  | some k =>
    let r := c.ring[k]
    match off % 0x10 with
    | 0 => r.base | 4 => put r.size 0 | 8 => put r.prod 0 | 12 => put r.cons 0 | _ => 0
  | none => match cryUnit off with
    | some u => unitWord c.unit[u]
    | none => match off with
      | 0x000 => putB (inFlight s = 0) 31 ||| putB c.stall 30 ||| put (inFlight s) 0
      | 0x004 => c.evt | 0x008 => c.evtEn | 0x00C => put c.age 0
      | 0x070 => c.cplBase | 0x074 => put c.cplSize 0 | 0x078 => put c.cplProd 0 | 0x07C => put c.cplCons 0
      | 0x0A0 => put c.cntInt 16 ||| put c.cntFw 0
      | 0x0A4 => put c.cntAuth 16 ||| put c.cntOther 8 ||| put c.cntLost 0
      | 0x100 => put c.ksSel 0
      | 0x104 => (selSlot c).pol ||| putB (selSlot c).valid 0
      | _ => 0

/-- A write of a CRY register. -/
def cryBus (m : Mid) (off : Nat) (d : W32) (s : State) : State :=
  busWrite m .cry (0x40300000 + off) d (cryWrite m off d) s

/-! ## Commands -/

/-- CRY_PROD: new descriptors become available (R223). -/
def execCryProd (m : Mid) (c : Fin 4) (data : W32) (s : State) : Host.Outcome State Fault Refusal :=
  .next (cryBus m (0x028 + 0x10 * c.val) data s)

/-- JOB_AGED: a job that has been at the head of its queue for longer than AGE × 16 µs counts as HIGH (R228). -/
def execJobAged (tag : Byte) (s : State) : Host.Outcome State Fault Refusal :=
  .next (updCry s (fun c =>
    if c.age = 0 then c
    else { c with jobs := c.jobs.map (fun j =>
      if j.tag = tag && 2 ≤ j.cls.val && (match j.headT with | some h => c.age * 12288 < 5 * (s.time - h) | none => false)
      then { j with aged := true }
      else j) }))

/-- CPL_CONS: firmware has consumed entries (R233). -/
def execCplCons (m : Mid) (data : W32) (s : State) : Host.Outcome State Fault Refusal := .next (cryBus m 0x07C data s)

/-- CRY_FLUSH: undispatched jobs complete FLUSHED (R246). -/
def execCryFlush (m : Mid) (mask : BitVec 4) (s : State) : Host.Outcome State Fault Refusal :=
  .next (cryBus m 0x060 (put mask.toNat 0) s)

/-- KS_POL: a slot's policy is set or locked (R239). -/
def execKsPol (m : Mid) (data : W32) (s : State) : Host.Outcome State Fault Refusal := .next (cryBus m 0x104 data s)

/-- KS_LOAD: the staged key enters the slot (R239). -/
def execKsLoad (m : Mid) (s : State) : Host.Outcome State Fault Refusal := .next (cryBus m 0x108 1 s)

/-- KS_CLEAR: the slot's key is zeroed (R239). -/
def execKsClear (m : Mid) (s : State) : Host.Outcome State Fault Refusal := .next (cryBus m 0x108 2 s)

/-- OUT_REQ: a unit drains or leaves service (R242). -/
def execOutReq (m : Mid) (u : Fin 5) (s : State) : Host.Outcome State Fault Refusal :=
  .next (cryBus m (0x080 + 4 * u.val) 0x80000000 s)

/-- IN_REQ: a unit starts its known-answer test (R242). -/
def execInReq (m : Mid) (u : Fin 5) (s : State) : Host.Outcome State Fault Refusal :=
  .next (cryBus m (0x080 + 4 * u.val) 0x40000000 s)

/-- KAT_END: a known-answer test ends (R243). -/
def execKatEnd (u : Fin 5) (pass : Bool) (s : State) : Host.Outcome State Fault Refusal :=
  .next (if (s.cry.unit[u]).st = .testing then
      cryEvt (if pass then 6 else 5) (updUnit s u (fun x => { x with
        st := if pass then .inSvc else .failed, inAt := if pass then some s.time else x.inAt }))
    else s)

/-- CRY_CNT_CLR: the counts are cleared (R250). -/
def execCryCntClr (m : Mid) (s : State) : Host.Outcome State Fault Refusal := .next (cryBus m 0x0A8 1 s)

end Sys2Proof.Machine
end

