-- ==== Sys2Proof/Machine/Pkv.lean ====
section
/-!
DEFINITION. Pkv: the P-256 verify unit and its registers (R244, R245, R251).
-/

namespace Sys2Proof.Machine

open Sys2Proof

/-- The P-256 verify unit updated. -/
def updPkv (s : State) (f : Pkv → Pkv) : State := { s with pkv := f s.pkv }

/-- Whether operands and START are closed to writes (R245). -/
def pkvHeld (p : Pkv) : Bool := p.pend || p.owner = .firmware

/-- START: the verification runs, or waits for CFG's (R244, R245). It aborts an entry to SLUMBER (R325). -/
def effPkvStart (s : State) : Option State :=
  if pkvHeld s.pkv then none
  else some (updPkv (fence s) (fun p => if p.owner = .cfg then { p with pend := true } else { p with owner := .firmware }))

/-- The result of the operands that the registers hold (R244). -/
def pkvResult (p : Pkv) : Nat :=
  ecVerify (beNat (bytesOf p.qx)) (beNat (bytesOf p.qy)) (beNat (bytesOf p.e)) (beNat (bytesOf p.r)) (beNat (bytesOf p.s))

/-- The verification in progress ends; a user that waited runs (R244, R245). -/
def pkvEnd (s : State) : State :=
  match s.pkv.owner with
  | .none => s
  | .cfg => sigDone s
  | .firmware =>
    let s := updPkv s (fun p => { p with owner := .none, result := pkvResult p, evt := withBit p.evt 0 true })
    match s.cfg.load with
    | some l => match l.stage with | .sig _ _ => pkvTake s | _ => s
    | none => s

/-- The operand register of an offset: which operand, and which word. -/
def pkvOperand (off : Nat) : Option (Fin 5 × Fin 8) :=
  if 0x040 ≤ off then
    match windowIdx 5 0x20 (off - 0x040), windowIdx 8 4 (off % 0x20) with
    | some q, some j => some (q, j)
    | _, _ => none
  else none

/-- An operand register written. -/
def setOperand (q : Fin 5) (j : Fin 8) (d : W32) (p : Pkv) : Pkv :=
  match q with
  | 0 => { p with qx := p.qx.set j.val d }
  | 1 => { p with qy := p.qy.set j.val d }
  | 2 => { p with e := p.e.set j.val d }
  | 3 => { p with r := p.r.set j.val d }
  | 4 => { p with s := p.s.set j.val d }

/-- An operand register read. -/
def getOperand (q : Fin 5) (j : Fin 8) (p : Pkv) : W32 :=
  match q with
  | 0 => p.qx[j] | 1 => p.qy[j] | 2 => p.e[j] | 3 => p.r[j] | 4 => p.s[j]

/-- A PKV register written; none is SLVERR (R245, R251). -/
def pkvWrite (off : Nat) (d : W32) (s : State) : Option State :=
  match pkvOperand off with
  | some (q, j) => if pkvHeld s.pkv then none else some (updPkv s (setOperand q j d))
  | none => match off with
    | 0x000 => if bit d 0 then effPkvStart s else some s
    | 0x008 => some (updPkv s (fun p => { p with evt := p.evt &&& ~~~ d }))
    | 0x00C => some (updPkv s (fun p => { p with evtEn := d &&& 1 }))
    | _ => some s

/-- A PKV register read (R251). -/
def pkvRead (off : Nat) (s : State) : W32 :=
  let p := s.pkv
  match pkvOperand off with
  | some (q, j) => getOperand q j p
  | none => match off with
    | 0x004 => putB (p.owner != .none) 31 ||| putB p.pend 30
        ||| put (match p.owner with | .none => 0 | .firmware => 1 | .cfg => 2) 28 ||| put p.result 0
    | 0x008 => p.evt
    | 0x00C => p.evtEn
    | _ => 0

/-- PKV_START: firmware starts a verification (R244, R245). -/
def execPkvStart (m : Mid) (s : State) : Host.Outcome State Fault Refusal :=
  .next (busWrite m .pkv 0x40310000 1 (pkvWrite 0 1) s)

/-- PKV_DONE: a verification ends (R244, R245). -/
def execPkvDone (s : State) : Host.Outcome State Fault Refusal := .next (pkvEnd s)

end Sys2Proof.Machine
end

