-- ==== Sys2Proof/Machine/Ports.lean ====
section
/-!
DEFINITION. Ports: the DALI bus engine, the SPI slave's mailboxes, the UARTs and the I2C masters (R270 to R277, R284, R285).
-/

namespace Sys2Proof.Machine

open Sys2Proof

/-- Whether the ports' clock runs and a port is in service. -/
def portUp (s : State) (i : Nat) : Bool := domReady s .yard && !unusable s i

/-! ## DALI (R270 to R272, R284) -/

/-- The DALI engine updated. -/
def updDli (s : State) (f : Dli → Dli) : State := { s with dli := f s.dli }

/-- A bit of DLI_EVT set. -/
def dliEvt (i : Nat) (d : Dli) : Dli := { d with evt := withBit d.evt i true }

/-- Whether the engine is enabled and in service. -/
def dliOn (s : State) : Bool := portUp s 58 && bit s.dli.ctrl 31

/-- CLK_YARD cycles in 0.1 ms. -/
def tenthMs : Nat := 15360

/-- CLK_YARD cycles in 2 400 µs, the idle time that completes a frame (R270). -/
def dliIdle : Nat := 368640

/-- A frame starts at a time: it is recorded as sent. -/
def dliStart (now : Nat) (backward : Bool) (d : Dli) : Dli :=
  { d with run := .sending backward, sendAt := now, sinceFwd := none, await := false, sent := d.sent ++ [(d.txd, d.txLen)] }

/-- Whether the engine is sending. -/
def dliSending (d : Dli) : Bool := match d.run with | .sending _ => true | _ => false

/-- DLI_CTRL: clearing EN ends what the engine is doing (log 46). -/
def effDliCtrl (v : W32) (d : Dli) : Dli :=
  let d := { d with ctrl := v &&& 0xF0000000 }
  if bit v 31 then d else { d with run := .idle, sinceFwd := none, await := false, busLow := false, idle := 0 }

/-- DLI_TXC: SEND in controller mode, a backward frame in gear mode: it starts BF_MIN after the forward frame's end, or at once if the
write comes later but before BF_MAX (R271, R284). While BUS_LOW reads 1 it waits (R272). -/
def effDliTxc (now : Nat) (v : W32) (d : Dli) : Option Dli :=
  let len := fld v 5 0
  if len < 8 || 32 < len then none
  else if !bit d.ctrl 31 then some d
  else if bit d.ctrl 30 then
    (if bit v 31 && d.run = .idle then some { d with run := .settle, txLen := len, settle := fld v 15 8 } else some d)
  else if len = 8 && d.run = .idle then
    match d.sinceFwd with
    | some n =>
      if n < fld d.tim 23 16 * tenthMs then
        (if n < fld d.tim 31 24 * tenthMs || d.busLow then some { d with run := .pendBack, txLen := 8 }
         else some (dliStart now true { d with txLen := 8 }))
      else some (dliEvt 5 d)
    | none => some (dliEvt 5 d)
  else some d

/-- A write of a DLI register; none is SLVERR (R284). -/
def dliWrite (off : Nat) (v : W32) (s : State) : Option State :=
  match off with
  | 0x000 => some (updDli s (effDliCtrl v))
  | 0x008 => some (updDli s (fun d => { d with evt := d.evt &&& ~~~ v }))
  | 0x00C => some (updDli s (fun d => { d with evtEn := v &&& 0x7F }))
  | 0x010 => some (updDli s (fun d => { d with txd := v }))
  | 0x014 => (effDliTxc s.time v s.dli).map (fun d => { s with dli := d })
  | 0x01C => some (updDli s (fun d => { d with tim := v }))
  | _ => some s

/-- A read of a DLI register (R284). -/
def dliRead (off : Nat) (s : State) : W32 :=
  let d := s.dli
  match off with
  | 0x000 => d.ctrl
  | 0x004 => putB (d.run != .idle) 31 ||| putB d.busLow 30 ||| putB d.bf 29 ||| put d.rxLen 0
  | 0x008 => d.evt
  | 0x00C => d.evtEn
  | 0x010 => d.txd
  | 0x018 => d.rxd
  | 0x01C => d.tim
  | _ => 0

/-! ### Received frames (R270) -/

/-- The half-bits in a run between two edges of `us` µs; none is a run outside the limits of R270. -/
def runHalves (us : Nat) : Option Nat :=
  if 333 ≤ us && us ≤ 500 then some 1 else if 667 ≤ us && us ≤ 1000 then some 2 else none

/-- The half-bits of a frame's runs, alternating from `active`; none where a run is outside the limits. -/
def halvesOf : Bool → List Nat → Option (List Bool)
  | _, [] => some []
  | b, us :: l => do
    let n ← runHalves us
    let t ← halvesOf (!b) l
    pure (List.replicate n b ++ t)

/-- The bits of half-bits taken in pairs: the two of a bit differ, and the idle bus after the frame is a last half-bit's second half. -/
def bitsOf : List Bool → Option (List Bool)
  | [] => some []
  | [a] => if a then some [true] else none
  | a :: b :: t => if a = b then none else (bitsOf t).map (a :: ·)

/-- A frame taken from the runs that the engine sees: a start bit of 1, then 8 to 32 bits, most significant first (R270). -/
def dliDecode (runs : List Nat) : Option (W32 × Nat) := do
  let h ← halvesOf true runs
  let l ← bitsOf h
  match l with
  | true :: v =>
    if 8 ≤ v.length && v.length ≤ 32 then
      some (BitVec.ofNat 32 (v.foldl (fun n b => 2 * n + (if b then 1 else 0)) 0), v.length)
    else none
  | _ => none

/-- CLK_YARD cycles of a frame's runs. -/
def runsCyc (runs : List Nat) : Nat := runs.sum * 1536 / 10

/-- The runs from the first in which the bus is active: DLI_RX = 0 with RXINV = 0, 1 with RXINV = 1 (R270). -/
def activeRuns (d : Dli) (first : Bool) (runs : List Nat) : List Nat :=
  if first = bit d.ctrl 28 then runs else runs.drop 1

/-- Whether a frame that is complete now started by BF_MAX after the controller's send ended (R271). -/
def dliAnswers (cyc : Nat) (d : Dli) : Bool :=
  d.await && (match d.sinceFwd with
    | some n => n - (cyc + dliIdle) ≤ fld d.tim 23 16 * tenthMs
    | none => false)

/-- A complete received frame (R270, R271, R279): a forward frame in gear mode opens the answer's window, and one that
arrives while a backward frame is pending drops that with LATE. -/
def dliFrame (data : W32) (len : Nat) (bf : Bool) (d : Dli) : Dli :=
  let d := dliEvt 0 { d with rxd := data, rxLen := len % 64, bf := bf }
  if bit d.ctrl 30 || len = 8 then d
  else
    let d := if d.run = .pendBack then dliEvt 5 { d with run := .idle } else d
    { d with sinceFwd := some dliIdle }

/-- What the bus has carried: `runs` µs between edges, then 2 400 µs of idle. A frame with a run out of limits, or of no 8 to 32 bits, is
discarded with FERR (R270, log 78). Either way a frame has started (R271). -/
def dliReceive (runs : List Nat) (d : Dli) : Dli :=
  let bf := bit d.ctrl 30 && dliAnswers (runsCyc runs) d
  let d := { d with busLow := false, idle := dliIdle, await := d.await && !bf }
  match dliDecode runs with
  | some (data, len) => dliFrame data len bf d
  | none => dliEvt 2 d

/-- DALI_FRAME: after 2 400 µs of idle bus a received frame ends: the level of DLI_RX in its first run, and its runs in µs (R270). -/
def execDaliFrame (first : Bool) (run : Nat) (runs : List Nat) (s : State) : Host.Outcome State Fault Refusal :=
  .next (if dliOn s then updDli s (fun d => dliReceive (activeRuns d first (run :: runs)) d) else s)

/-- SEND: a write of DLI_TXC with SEND = 1 (R271). -/
def execSend (m : Mid) (data : W32) (s : State) : Host.Outcome State Fault Refusal :=
  .next (busWrite m .dli 0x40410014 (data ||| 0x80000000) (dliWrite 0x014 (data ||| 0x80000000)) s)

/-- DLI_TXC: a write of DLI_TXC (R271). -/
def execDliTxc (m : Mid) (data : W32) (s : State) : Host.Outcome State Fault Refusal :=
  .next (busWrite m .dli 0x40410014 data (dliWrite 0x014 data) s)

/-- SETTLE_EXPIRY: the bus has been idle for SETTLE, so a pending SEND starts (R271). -/
def execSettleExpiry (s : State) : Host.Outcome State Fault Refusal :=
  .next (if dliOn s && s.dli.run = .settle && !s.dli.busLow && s.dli.settle * tenthMs ≤ s.dli.idle then
    updDli s (dliStart s.time false)
  else s)

/-- Whether a pending backward frame's BF_MIN has passed. -/
def backDue (d : Dli) : Bool :=
  match d.sinceFwd with | some n => fld d.tim 31 24 * tenthMs ≤ n | none => true

/-- BACKWARD_FRAME_START: a pending backward frame starts BF_MIN after the forward frame, not while BUS_LOW reads 1 (R271, R272). -/
def execBackwardFrameStart (s : State) : Host.Outcome State Fault Refusal :=
  .next (if dliOn s && s.dli.run = .pendBack && !s.dli.busLow && backDue s.dli then updDli s (dliStart s.time true) else s)

/-- NOBF: no frame started by BF_MAX after a controller's send (R271). -/
def execNobf (s : State) : Host.Outcome State Fault Refusal :=
  .next (if dliOn s && s.dli.await
      && (match s.dli.sinceFwd with | some n => fld s.dli.tim 23 16 * tenthMs ≤ n | none => true) then
    updDli s (fun d => dliEvt 6 { d with await := false })
  else s)

/-- Whether the frame being sent has had its half-bits. -/
def dliSent (s : State) : Bool := s.dli.sendAt + (dliLine s.dli).length * dliHalf ≤ s.time

/-- TXDONE: a transmission ends; a controller then awaits a backward frame (R271). -/
def execTxdone (s : State) : Host.Outcome State Fault Refusal :=
  .next (if dliOn s && dliSending s.dli && dliSent s then
    updDli s (fun d => dliEvt 1 { d with
      run := .idle, idle := 0, await := bit d.ctrl 30, sinceFwd := if bit d.ctrl 30 then some 0 else none })
  else s)

/-- COLL: a mismatch while sending releases the bus, and the frame is not completed (R272). -/
def execColl (s : State) : Host.Outcome State Fault Refusal :=
  .next (if dliOn s && dliSending s.dli then
    updDli s (fun d => dliEvt 3 { d with run := .idle, idle := 0, sent := d.sent.dropLast })
  else s)

/-- BUSFAIL: the bus has been held active for `ms`, longer than FAIL_MS (R272). -/
def execBusfail (s : State) (ms : Nat := 65536) : Host.Outcome State Fault Refusal :=
  .next (if dliOn s && fld s.dli.tim 15 0 < ms then updDli s (fun d => dliEvt 4 { d with busLow := true, idle := 0 }) else s)

/-! ## SPI slave mailboxes (R275, R284) -/

/-- The SPI slave updated. -/
def updSpis (s : State) (f : Spis → Spis) : State := { s with spis := f s.spis }

/-- SPIS_HSTAT (R284). -/
def hstat (p : Spis) : W32 := putB p.err 31 ||| putB p.late 30 ||| putB p.toV 29 ||| putB p.fromV 28 ||| put p.respC 0

/-- A write of an SPIS register (R275, R284). -/
def spisWrite (m : Mid) (off : Nat) (v : W32) (s : State) : Option State :=
  match off with
  | 0x000 => some (updSpis s (fun p => { p with ctrl := v &&& 0x80000000 }))
  | 0x004 => some (updSpis s (fun p => { p with err := p.err && !bit v 31, late := p.late && !bit v 30 }))
  | 0x010 => some (updSpis s (fun p => { p with toHost := v, toV := true }))
  | 0x014 => some (updSpis s (fun p => { p with fromHost := v, fromV := p.fromV || m = .spis }))
  | _ => some s

/-- A read of an SPIS register; the mailbox reads that R275 names clear their VALID. -/
def spisRead (m : Mid) (off : Nat) (s : State) : W32 × State :=
  let p := s.spis
  match off with
  | 0x000 => (p.ctrl, s)
  | 0x004 => (hstat p, s)
  | 0x010 => (p.toHost, if m = .spis then updSpis s (fun p => { p with toV := false }) else s)
  | 0x014 => (p.fromHost,
      if m = .hostS || m = .hostU || m = .groom then updSpis s (fun p => { p with fromV := false }) else s)
  | _ => (0, s)

/-- SPIS_TOHOST: a write of the mailbox (R275). -/
def execSpisTohost (m : Mid) (data : W32) (s : State) : Host.Outcome State Fault Refusal :=
  .next (busWrite m .spis 0x40420010 data (spisWrite m 0x010 data) s)

/-- FROMHOST_READ: a read of SPIS_FROMHOST (R275). -/
def execFromhostRead (m : Mid) (s : State) : Host.Outcome State Fault Refusal :=
  .next (busRead m .spis 0x40420014 (spisRead m 0x014) s)

/-! ## UARTs (R276, R285) -/

/-- A UART updated. -/
def updUart (s : State) (u : Fin 2) (f : Uart → Uart) : State := { s with uart := upd s.uart u f }

/-- Whether a pin carries a UART's CTS: without one it reads deasserted (R276, R358). -/
def ctsPin (s : State) (u : Fin 2) : Bool :=
  (s.pio.fsel[(⟨13 + 4 * u.val, by omega⟩ : Fin 24)]) < 24

/-- The next character starts unless disabled or held back by CTS, where a pin carries one (R276). -/
def uartStart (pin : Bool) (q : Uart) : Uart :=
  match q.cur, q.tx with
  | none, c :: t =>
    if bit q.ctrl 31 && bit q.ctrl 30 && (!bit q.ctrl 28 || (pin && q.cts)) then { q with cur := some c, tx := t } else q
  | _, _ => q

/-- The data bits of a character: 7 with DATA7, else 8. -/
def uartData (ctrl : W32) (c : Byte) : List Bool := (lsbBits c).take (if bit ctrl 0 then 7 else 8)

/-- The parity bit of a character: even, odd or none (R276, R285; a PARITY of 3 is none, log 46). -/
def uartParity (ctrl : W32) (c : Byte) : Option Bool :=
  let odd := (uartData ctrl c).foldl xor false
  if fld ctrl 9 8 = 1 then some odd else if fld ctrl 9 8 = 2 then some (!odd) else none

/-- A character on the line: a start bit, the data least significant bit first, its parity, and one or two stop bits (R276). -/
def uartLine (ctrl : W32) (c : Byte) : List Bool :=
  [false] ++ uartData ctrl c ++ (uartParity ctrl c).toList ++ (if bit ctrl 4 then [true, true] else [true])

/-- A character written to the transmit FIFO, or lost with OVR (R276). -/
def uartPush (pin : Bool) (c : Byte) (q : Uart) : Uart :=
  if 16 ≤ q.tx.length then { q with ovr := true } else uartStart pin { q with tx := q.tx ++ [c] }

/-- UARTu_CTRL: a character being sent is cut off when EN or TXEN is cleared (R276, log 46). -/
def effUartCtrl (pin : Bool) (v : W32) (q : Uart) : Uart :=
  let q := { q with ctrl := v &&& 0xF0000311 }
  if bit v 31 && bit v 30 then uartStart pin q else { q with cur := none }

/-- A write of a UART register; none is SLVERR (R285). -/
def uartWrite (u : Fin 2) (off : Nat) (v : W32) (s : State) : Option State :=
  match off with
  | 0x000 => some (updUart s u (effUartCtrl (ctsPin s u) v))
  | 0x004 => if fld v 15 0 < 0xCD then none else some (updUart s u (fun q => { q with baud := v &&& 0xFFFF }))
  | 0x008 => some (updUart s u (uartPush (ctsPin s u) (v.setWidth 8)))
  | 0x00C => some (updUart s u (fun q => { q with ovr := q.ovr && !bit v 2, err := q.err && !bit v 1 }))
  | 0x010 => some (updUart s u (fun q => { q with ie := v &&& 7 }))
  | _ => some s

/-- A read of UARTu_DATA pops a character; with the FIFO empty its fields are free values (R285, log 6). -/
def uartPop (u : Fin 2) (s : State) : W32 × State :=
  match (s.uart[u]).rx with
  | c :: t => (c.setWidth 32, updUart s u (fun q => { q with rx := t }))
  | [] =>
    (put 1 31 ||| putB (Config.freeBit s.free) 11 ||| putB (Config.freeBit (s.free + 1)) 10
      ||| putB (Config.freeBit (s.free + 2)) 9 ||| (Config.freeByte s.free).setWidth 32, { s with free := s.free + 3 })

/-- A read of a UART register (R285). -/
def uartRead (u : Fin 2) (off : Nat) (s : State) : W32 × State :=
  let q := s.uart[u]
  match off with
  | 0x000 => (q.ctrl, s)
  | 0x004 => (q.baud, s)
  | 0x008 => uartPop u s
  | 0x00C => (putB q.cur.isSome 31 ||| put q.tx.length 16 ||| put q.rx.length 8 ||| putB q.ovr 2 ||| putB q.err 1, s)
  | 0x010 => (q.ie, s)
  | _ => (0, s)

/-- A received character (R276): lost with OVR when the FIFO is full; 7-bit characters leave bit 7 zero. PE is that the parity bit
received, `par`, is not the character's. -/
def uartTake (c : Byte) (par fe brk : Bool) (q : Uart) : Uart :=
  if !bit q.ctrl 31 || !bit q.ctrl 29 then q
  else
    let pe := match uartParity q.ctrl c with | some v => v != par | none => false
    let q := { q with err := q.err || pe || fe || brk }
    if 16 ≤ q.rx.length then { q with ovr := true }
    else
      let b : Byte := if bit q.ctrl 0 then c &&& 0x7F else c
      let w : BitVec 12 := b.setWidth 12 ||| (if pe then 0x200 else 0) ||| (if fe then 0x400 else 0) ||| (if brk then 0x800 else 0)
      { q with rx := q.rx ++ [w] }

/-- UART_RX_CHAR: a character is received (R276). -/
def execUartRxChar (u : Fin 2) (c : Byte) (par fe brk : Bool) (s : State) : Host.Outcome State Fault Refusal :=
  .next (if portUp s (60 + u.val) then updUart s u (uartTake c par fe brk) else s)

/-- UART_TX_CHAR: the character being sent ends and the next one starts (R276). -/
def execUartTxChar (u : Fin 2) (s : State) : Host.Outcome State Fault Refusal :=
  .next (if portUp s (60 + u.val) then
    updUart s u (fun q => match q.cur with
      | none => uartStart (ctsPin s u) q
      | some c => uartStart (ctsPin s u) { q with cur := none, sent := q.sent ++ [uartLine q.ctrl c] })
  else s)

/-- UART_DATA_WRITE (R276). -/
def execUartDataWrite (m : Mid) (u : Fin 2) (data : W32) (s : State) : Host.Outcome State Fault Refusal :=
  .next (busWrite m (.uart u) (0x40430008 + 0x1000 * u.val) data (uartWrite u 0x008 data) s)

/-- UART_DATA_READ (R285). -/
def execUartDataRead (m : Mid) (u : Fin 2) (s : State) : Host.Outcome State Fault Refusal :=
  .next (busRead m (.uart u) (0x40430008 + 0x1000 * u.val) (uartRead u 0x008) s)

/-- CTS: the CTS input changes; asserted, it lets a held-back start bit go (R276). -/
def execCts (u : Fin 2) (asserted : Bool) (s : State) : Host.Outcome State Fault Refusal :=
  .next (if portUp s (60 + u.val) then updUart s u (fun q => uartStart (ctsPin s u) { q with cts := asserted })
    else updUart s u (fun q => { q with cts := asserted }))

/-! ## I2C masters (R277, R285) -/

/-- An I2C master updated. -/
def updI2c (s : State) (i : Fin 2) (f : I2c → I2c) : State := { s with i2c := upd s.i2c i f }

/-- The octets of a transfer: LEN, 0 meaning 256 (R285). -/
def i2cLen (q : I2c) : Nat := if fld q.cmd 7 0 = 0 then 256 else fld q.cmd 7 0

/-- The address octet of a transfer: the 7-bit address, then 1 for a read (R277). -/
def i2cAddr (v : W32) : Byte := BitVec.ofNat 8 (2 * fld v 22 16 + fld v 30 30)

/-- A write transfer takes octets from its FIFO, up to LEN (R277). -/
def i2cFeed (q : I2c) : I2c :=
  if q.busy && !bit q.cmd 30 then
    let k := i2cLen q - q.out.length
    { q with out := q.out ++ q.tx.take k, tx := q.tx.drop k }
  else q

/-- I2Ci_CMD: GO starts a transfer of an enabled, idle port, with a repeated start where the last ended without a stop (R277). -/
def effI2cCmd (v : W32) (q : I2c) : I2c :=
  if bit v 31 && bit q.ctrl 31 && !q.busy then
    i2cFeed { q with
      cmd := v &&& 0xE07F00FF, busy := true, held := false, out := [], more := []
      wire := (if q.held then q.wire ++ [.restart] else [.start]) ++ [.octet (i2cAddr v)] }
  else q

/-- An octet written to the FIFO of 8; one that finds no room is lost (log 46). -/
def i2cPush (b : Byte) (q : I2c) : I2c := if q.tx.length < 8 then i2cFeed { q with tx := q.tx ++ [b] } else q

/-- A write of an I2C register; none is SLVERR (R285). -/
def i2cWrite (i : Fin 2) (off : Nat) (v : W32) (s : State) : Option State :=
  match off with
  | 0x000 => some (updI2c s i (fun q => { q with ctrl := v &&& 0x80000003, held := q.held && bit v 31 }))
  | 0x004 => some (updI2c s i (effI2cCmd v))
  | 0x008 => some (updI2c s i (i2cPush (v.setWidth 8)))
  | 0x00C => some (updI2c s i (fun q => { q with done := q.done && !bit v 30 }))
  | 0x010 => some (updI2c s i (fun q => { q with ie := v &&& 1 }))
  | _ => some s

/-- A transfer is over: DONE and its code. The bus is released with a stop, but not after NOSTOP, nor where it was lost or hung (R277). -/
def i2cOver (q : I2c) : I2c :=
  let ok := q.code = 0
  let held := ok && bit q.cmd 29
  { q with
    busy := false, done := true, held := held, out := []
    wire := q.wire ++ (if ok && !bit q.cmd 30 then q.out.map .octet else []) ++ (if held || 3 ≤ q.code then [] else [.stop]) }

/-- Octets received move into the FIFO of 8 as it has room; the transfer is over when all have (R277, R285, log 46). -/
def i2cFill (q : I2c) : I2c :=
  let room := 8 - q.rx.length
  let q := { q with rx := q.rx ++ q.more.take room, more := q.more.drop room }
  if q.more.isEmpty then i2cOver q else q

/-- A read of I2Ci_DATA pops an octet; from an empty FIFO it is a free value (log 6). -/
def i2cPop (i : Fin 2) (s : State) : W32 × State :=
  match (s.i2c[i]).rx with
  | b :: t => (b.setWidth 32, updI2c s i (fun q => if q.more.isEmpty then { q with rx := t } else i2cFill { q with rx := t }))
  | [] => ((Config.freeByte s.free).setWidth 32, { s with free := s.free + 1 })

/-- A read of an I2C register (R285). -/
def i2cRead (i : Fin 2) (off : Nat) (s : State) : W32 × State :=
  let q := s.i2c[i]
  match off with
  | 0x000 => (q.ctrl, s)
  | 0x008 => i2cPop i s
  | 0x00C => (putB q.busy 31 ||| putB q.done 30 ||| put q.rx.length 12 ||| put q.tx.length 8 ||| put q.code 0, s)
  | 0x010 => (q.ie, s)
  | _ => (0, s)

/-- The code of an ending (R285). -/
def i2cCode : I2cEnd → Nat
  | .ok => 0 | .nackAddr => 1 | .nackData => 2 | .arbLost => 3

/-- A transfer ends (R277): a read's octets go to the FIFO; a write that ends otherwise than OK empties it (log 46). -/
def i2cEnds (code : Nat) (rx : List Byte) (q : I2c) : I2c :=
  if bit q.cmd 30 then i2cFill { q with code := code, more := rx.take (i2cLen q) }
  else i2cOver { q with code := code, tx := if code = 0 then q.tx else [] }

/-- GO: a write of I2Ci_CMD with GO = 1 (R277). -/
def execGo (m : Mid) (i : Fin 2) (data : W32) (s : State) : Host.Outcome State Fault Refusal :=
  let v := data ||| 0x80000000
  .next (busWrite m (.i2c i) (0x40440004 + 0x1000 * i.val) v (i2cWrite i 0x004 v) s)

/-- I2C_DONE: a transfer ends; a write that ends OK has found its LEN octets (R277). -/
def execI2cDone (i : Fin 2) (r : I2cEnd) (rx : List Byte) (s : State) : Host.Outcome State Fault Refusal :=
  let q := s.i2c[i]
  .next (if portUp s (62 + i.val) && q.busy && q.more.isEmpty && !(r = .ok && !bit q.cmd 30 && q.out.length < i2cLen q) then
    updI2c s i (i2cEnds (i2cCode r) rx)
  else s)

/-- I2C_TIMEOUT: SCL has been low for 25 ms (R277). -/
def execI2cTimeout (i : Fin 2) (s : State) : Host.Outcome State Fault Refusal :=
  .next (if portUp s (62 + i.val) && (s.i2c[i]).busy then
    updI2c s i (fun q => i2cOver { q with code := 4, more := [], tx := if bit q.cmd 30 then q.tx else [] })
  else s)

/-- I2C_DATA_ACCESS: a write or a read of I2Ci_DATA (R285). -/
def execI2cDataAccess (m : Mid) (i : Fin 2) (wr : Option W32) (s : State) : Host.Outcome State Fault Refusal :=
  let a := 0x40440008 + 0x1000 * i.val
  .next (match wr with
    | some v => busWrite m (.i2c i) a v (i2cWrite i 0x008 v) s
    | none => busRead m (.i2c i) a (i2cRead i 0x008) s)

end Sys2Proof.Machine
end

