-- ==== Sys2Proof/Machine/Frames.lean ====
section
/-!
DEFINITION. Frames: the layout, FCS, whitening, filtering and security of NATIVE and SUNFSK frames, and what
goes on air (R170, R173 to R178, R186). PSDUs here are without whitening; `p` is one without its FCS.
-/

namespace Sys2Proof.Machine

open Sys2Proof

/-! ## FCS and whitening (R175, R177) -/

/-- The FCS of a PSDU. A SUNFSK frame of fewer than four octets is filled up with zeros for the 4-octet FCS, as the standard
says (log 50). -/
def fcsOf (sun long : Bool) (p : List Byte) : List Byte :=
  if long then leBytes 4 (crc32 (if sun then p ++ List.replicate (4 - p.length) 0 else p)) else leBytes 2 (crc16 p)

/-- The octets of an FCS. -/
def fcsLen (long : Bool) : Nat := if long then 4 else 2

/-- The next output bit of the PN9 sequence from its last nine bits, latest first (log 50). -/
def pn9Next (r : List Bool) : Bool := xor ((r[3]?).getD false) ((r[8]?).getD false)

/-- `n` bits of the PN9 sequence. -/
def pn9Bits : Nat → List Bool → List Bool
  | 0, _ => []
  | n + 1, r => pn9Next r :: pn9Bits n ((pn9Next r :: r).take 9)

/-- Bits, least significant first, as an octet. -/
def octetOf (l : List Bool) : Byte := l.foldr (fun b a => a * 2 + (if b then 1 else 0)) 0

/-- Octets combined with a bit sequence, each octet least significant bit first. -/
def whitenWith : List Byte → List Bool → List Byte
  | [], _ => []
  | b :: t, r => (b ^^^ octetOf (r.take 8)) :: whitenWith t (r.drop 8)

/-- A PSDU whitened, or its whitening removed (R175). -/
def whiten (on : Bool) (l : List Byte) : List Byte :=
  if on then whitenWith l (pn9Bits (8 * l.length) (List.replicate 9 true)) else l

/-! ## NATIVE fields (R174) -/

/-- An octet of a PSDU. -/
def oct (p : List Byte) (i : Nat) : Byte := (p[i]?).getD 0
/-- A little-endian field of a PSDU. -/
def octs (p : List Byte) (i n : Nat) : Nat := leNat ((p.drop i).take n)
/-- TYPE. -/
def natType (p : List Byte) : Nat := (oct p 0).toNat % 8
/-- SEC. -/
def natSec (p : List Byte) : Bool := (oct p 0).getLsbD 3
/-- ACKREQ. -/
def natAckReq (p : List Byte) : Bool := (oct p 0).getLsbD 4
/-- TS. -/
def natTs (p : List Byte) : Bool := (oct p 0).getLsbD 5
/-- ZONE. -/
def natZone (p : List Byte) : Nat := octs p 2 2
/-- DST. -/
def natDst (p : List Byte) : Nat := octs p 4 2
/-- SRC. -/
def natSrc (p : List Byte) : Nat := octs p 6 2
/-- The octets before FCNT. -/
def natFcntAt (p : List Byte) : Nat := if natTs p then 14 else 8
/-- The octets before the payload. -/
def natHdr (p : List Byte) : Nat := natFcntAt p + (if natSec p then 5 else 0)
/-- TSF. -/
def natTsf (p : List Byte) : BitVec 48 := BitVec.ofNat 48 (octs p 8 6)
/-- FCNT. -/
def natFcnt (p : List Byte) : Nat := octs p (natFcntAt p) 4
/-- LEVEL of SECB. -/
def natLevel (p : List Byte) : Nat := (oct p (natFcntAt p + 4)).toNat % 8
/-- Whether a frame holds the fields that its FCTL announces. -/
def natWhole (p : List Byte) : Bool := natHdr p + (if natSec p then 8 else 0) ≤ p.length

/-- The nonce of a secured frame (R176). -/
def natNonce (p : List Byte) : List Byte :=
  (p.drop 2).take 2 ++ (p.drop 6).take 2 ++ List.replicate 4 0 ++ (p.drop (natFcntAt p)).take 5

/-- Octets of a PSDU replaced from an offset up. -/
def putOcts (p : List Byte) (i : Nat) (l : List Byte) : List Byte := p.take i ++ l ++ p.drop (i + l.length)

/-- A frame with room for FCNT sealed with a key and a frame counter: FCNT written, the payload protected, the MIC appended (R176, R179). -/
def sealFrame (key : List Byte) (fcnt : W32) (buf : List Byte) : List Byte :=
  let p := putOcts buf (natFcntAt buf) (leBytes 4 fcnt.toNat)
  let rk := roundKeys key
  let hd := p.take (natHdr p)
  let pay := p.drop (natHdr p)
  if natLevel p = 6 then hd ++ ccmCrypt rk (natNonce p) pay ++ ccmTag rk (natNonce p) hd pay 8
  else p ++ ccmTag rk (natNonce p) p [] 8

/-- A secured frame verified with a key: its payload in clear, if the MIC is right. A SCENE frame is of LEVEL 2 (R176). -/
def openFrame (key : List Byte) (p : List Byte) : Option (List Byte) :=
  let rk := roundKeys key
  let hd := p.take (natHdr p)
  let body := (p.drop (natHdr p)).take (p.length - 8 - natHdr p)
  let mic := p.drop (p.length - 8)
  if natLevel p = 6 && natType p != 2 then
    let pay := ccmCrypt rk (natNonce p) body
    if ccmTag rk (natNonce p) hd pay 8 = mic then some pay else none
  else if natLevel p = 2 then
    if ccmTag rk (natNonce p) (hd ++ body) [] 8 = mic then some body else none
  else none

/-! ## SUNFSK fields and the address filter (R177, R186; IEEE 802.15.4) -/

/-- The frame control field. -/
def sunFcf (p : List Byte) : BitVec 16 := BitVec.ofNat 16 (octs p 0 2)
/-- Frame type. -/
def sunType (p : List Byte) : Nat := ((sunFcf p).extractLsb' 0 3).toNat
/-- Acknowledgement request. -/
def sunAckReq (p : List Byte) : Bool := (sunFcf p).getLsbD 5
/-- Frame version. -/
def sunVersion (p : List Byte) : Nat := ((sunFcf p).extractLsb' 12 2).toNat
/-- Destination addressing mode. -/
def sunDam (p : List Byte) : Nat := ((sunFcf p).extractLsb' 10 2).toNat
/-- Source addressing mode. -/
def sunSam (p : List Byte) : Nat := ((sunFcf p).extractLsb' 14 2).toNat
/-- The octets of an address. -/
def addrLen (mode : Nat) : Nat := if mode = 2 then 2 else if mode = 3 then 8 else 0
/-- The octets of the destination PAN and address. -/
def sunDstLen (p : List Byte) : Nat := if sunDam p = 0 then 0 else 2 + addrLen (sunDam p)
/-- Whether a source PAN is present. -/
def sunSrcPan (p : List Byte) : Bool := sunSam p != 0 && !((sunFcf p).getLsbD 6 && sunDam p != 0)
/-- The octets of the MAC header's addressing part. -/
def sunAddrEnd (p : List Byte) : Nat := 3 + sunDstLen p + (if sunSrcPan p then 2 else 0) + addrLen (sunSam p)

/-- The device's extended address. -/
def extAddr (t : Trx) : Nat := t.extLo.toNat + 2 ^ 32 * t.extHi.toNat

/-- Whether a frame of version 0 or 1 is addressed to this device: 1 unicast, 2 broadcast, 0 not. -/
def sunToMe (t : Trx) (p : List Byte) : Nat :=
  let pan := octs p 3 2
  let panOk := pan = fld t.panid 15 0 || pan = 0xFFFF
  if sunDam p = 2 then
    (if !panOk then 0 else if octs p 5 2 = 0xFFFF then 2 else if octs p 5 2 = fld t.addr 15 0 then 1 else 0)
  else if sunDam p = 3 then (if panOk && octs p 5 8 = extAddr t then 1 else 0)
  else 0

/-- The address filter of IEEE 802.15.4 for a device that is no coordinator (log 50). -/
def sunAddressed (t : Trx) (p : List Byte) : Bool :=
  match sunType p with
  | 0 => sunDam p = 0 && sunSam p != 0 && (fld t.panid 15 0 = 0xFFFF || octs p 3 2 = fld t.panid 15 0)
  | 2 => sunDam p = 0 && sunSam p = 0
  | 1 => sunToMe t p != 0
  | 3 => sunToMe t p != 0
  | _ => false

/-- Whether a SUNFSK frame passes R186; `promisc` lifts the addressing and version conditions. -/
def sunPasses (t : Trx) (promisc : Bool) (p : List Byte) : Bool :=
  promisc || (3 ≤ p.length && sunVersion p ≤ 1 && sunDam p != 1 && sunSam p != 1 && sunAddrEnd p ≤ p.length && sunAddressed t p)

/-- Whether a NATIVE frame passes R186; `promisc` lifts the addressing conditions. -/
def natPasses (t : Trx) (promisc : Bool) (p : List Byte) : Bool :=
  natType p ≤ 3 && (promisc || (8 ≤ p.length && natZone p = fld t.addr 31 16
    && (natDst p = fld t.addr 15 0 || natDst p = 0xFFFF)))

/-- The authenticated and the protected octets of a secured frame's job (R176). -/
def secLens (p : List Byte) (n : Nat) : Nat × Nat := if natLevel p = 6 then (natHdr p, n - natHdr p) else (n, 0)

/-! ## On air (R170, R173, R177) -/

/-- The low `n` bits of a number, most significant first. -/
def msbBits (n x : Nat) : List Bool := (List.range n).reverse.map x.testBit

/-- Bits in the order of the air as octets, the first bit least significant. -/
def packBits : List Bool → List Byte
  | a :: b :: c :: d :: e :: f :: g :: h :: t => octetOf [a, b, c, d, e, f, g, h] :: packBits t
  | _ => []

/-- The sync word or SFD in force (R173, R177). -/
def syncOf (t : Trx) (sun : Bool) : W32 := if sun then (if bit t.pre 8 then 0x7A0E else 0x904E) else t.sync

/-- Preamble, sync word or SFD, PHR and PSDU as octets in the order of the air, each least significant bit first; `n` is the
preamble's octets. SUNFSK sends its preamble, SFD and PHR with the most significant bit first, as the standard orders them (log 50). -/
def airOf (t : Trx) (sun long white : Bool) (n : Nat) (psdu : List Byte) : List Byte :=
  if sun then
    List.replicate n 0xAA ++ packBits (msbBits 16 (syncOf t true).toNat)
      ++ packBits (msbBits 16 (psdu.length + (if long then 0 else 2 ^ 12) + (if white then 2 ^ 11 else 0))) ++ whiten white psdu
  else
    List.replicate n 0x55 ++ leBytes 4 t.sync.toNat
      ++ leBytes 2 (psdu.length + (if long then 2 ^ 11 else 0) + (if white then 2 ^ 12 else 0)) ++ whiten white psdu

/-- The bits of octets in the order of the air. -/
def airBits (l : List Byte) : List Bool := l.flatMap (fun b => (List.range 8).map b.getLsbD)

/-- The outer deviation in 1/12 Hz: TRX_DEV, or a quarter of the symbol rate for MSK (R170). -/
def devOf (t : Trx) : Int := if fld t.mod 31 30 = 2 then fld t.mod 14 0 * 75 else fld t.dev 19 0 * 12

/-- The deviations of bit pairs in 4-GFSK: 01, 00, 10, 11 to +3Δ, +Δ, −Δ, −3Δ (R170). -/
def pairDevs (d : Int) : List Bool → List Int
  | a :: b :: t => (if b then d else d / 3) * (if a then -1 else 1) :: pairDevs d t
  | _ => []

/-- The deviation of each symbol of a frame in 1/12 Hz. With two levels a 1 is sent above the carrier (log 50). -/
def airDevs (t : Trx) (l : List Byte) : List Int :=
  if fld t.mod 31 30 = 1 then pairDevs (devOf t) (airBits l)
  else (airBits l).map (fun b => if b then devOf t else -devOf t)

end Sys2Proof.Machine
end

