-- ==== Sys2Proof/Machine/Rgy.lean ====
section
/-!
DEFINITION. Rgy: the air rules: profile, regimes, airtime, admission, buckets and registers (R205 to R221).
-/

namespace Sys2Proof.Machine

open Sys2Proof

/-- The regulatory unit updated. -/
def updRgy (s : State) (f : Rgy → Rgy) : State := { s with rgy := f s.rgy }

/-- A bit of RGY_EVT set. -/
def rgyEvt (i : Nat) (r : Rgy) : Rgy := { r with evt := withBit r.evt i true }

/-- A little-endian field of the profile (R205). -/
def profAt (r : Rgy) (off n : Nat) : Nat := leNat ((r.prof.drop off).take n)

/-- NSB, NHOP and ACKRES of the profile (R205). -/
def profNsb (r : Rgy) : Nat := profAt r 2 1
/-- NHOP. -/
def profNhop (r : Rgy) : Nat := profAt r 3 1
/-- ACKRES. -/
def profAckRes (r : Rgy) : Nat := profAt r 4 2

/-- A field of a sub-band entry (R205). -/
def sbAt (r : Rgy) (s : Fin 8) (off n : Nat) : Nat := profAt r (0x10 + 32 * s.val + off) n

/-- The sub-band of a carrier: the lowest-numbered one in use that contains it (R208, R217). -/
def sbOf (r : Rgy) (hz : Nat) : Option (Fin 8) :=
  (idx 8).find? (fun s => s.val < profNsb r && sbAt r s 0 4 ≤ hz && hz ≤ sbAt r s 4 4)

/-- The hop entry of a carrier (R208). -/
def hopOf (r : Rgy) (hz : Nat) : Option (Fin 128) :=
  (idx 128).find? (fun h => h.val < profNhop r && profAt r (0x110 + 4 * h.val) 4 = hz)

/-- MODE of a sub-band (R205). -/
def sbMode (r : Rgy) (s : Fin 8) : Nat := sbAt r s 8 1

/-- PMAX of a sub-band, signed (R205). -/
def sbPmax (r : Rgy) (s : Fin 8) : Int := (BitVec.ofNat 8 (sbAt r s 9 1)).toInt

/-- The duty budget B of a sub-band in µs (R211). -/
def sbBudget (r : Rgy) (s : Fin 8) : Nat := sbAt r s 0xC 4 * sbAt r s 0x10 4 / 1000

/-- The reserve of a budget (R211). -/
def reserveOf (r : Rgy) (b : Nat) : Nat := b * profAckRes r / 1000

/-- The budget DMAX of a hop entry whose carrier lies in sub-band `s` (R211). -/
def hopBudget (r : Rgy) (s : Fin 8) : Nat := sbAt r s 0x18 4

/-- The sum of a list of airtimes. -/
def sumUs (l : List Nat) : Nat := l.foldl (· + ·) 0

/-- The airtime reserved by the attempt in hand for a sub-band (R213). -/
def sbReserved (s : State) (b : Fin 8) : Nat :=
  match s.trx.tx with
  | some x => match x.resv with | some r => if r.sub = b then r.us else 0 | none => 0
  | none => 0

/-- The airtime reserved by the attempt in hand for a hop entry (R213). -/
def hopReserved (s : State) (h : Fin 128) : Nat :=
  match s.trx.tx with
  | some x => match x.resv with | some r => if r.hop = some h then r.us else 0 | none => 0
  | none => 0

/-- Used of a sub-band (R213). -/
def sbUsed (s : State) (b : Fin 8) : Nat := sumUs s.rgy.sub[b] + sbReserved s b

/-- Used of a hop entry (R213). -/
def hopUsed (s : State) (h : Fin 128) : Nat := sumUs s.rgy.hop[h] + hopReserved s h

/-! ## Airtime (R209) -/

/-- The bit rate in force (R170, R209). -/
def bitRate (t : Trx) : Nat := fld t.mod 14 0 * 25 * (if fld t.mod 31 30 = 1 then 2 else 1)

/-- A quotient rounded up; zero for a zero divisor. -/
def ceilDiv (a b : Nat) : Nat := if b = 0 then 0 else (a + b - 1) / b

/-- The airtime of `n` octets in µs, rounded up (R209). -/
def airUs (t : Trx) (n : Nat) : Nat := ceilDiv (8 * n * 1000000) (bitRate t)

/-- The octets that cover a time in µs, rounded up (R179, R195, R209). -/
def octetsFor (t : Trx) (us : Nat) : Nat := ceilDiv (us * bitRate t) 8000000

/-- The octets of a frame on air: preamble with its lengthening, sync word or SFD, PHR and PSDU (R209). -/
def frameOctets (t : Trx) (sun : Bool) (preExt len : Nat) : Nat :=
  preOf t + preExt + (if sun then 2 else 4) + 2 + len

/-! ## Admission (R213 to R216, R218, R219) -/

/-- A refusal: its REASON code, and whether it is a refusal for dwell. -/
structure Denial where
  reason : Nat
  dwell  : Bool
  sb     : Option (Fin 8)
  hop    : Option (Fin 128)
  deriving DecidableEq, Repr

/-- The admission test: the reservation of an admitted attempt, or the refusal (R213). -/
def admissionTest (s : State) (ack : Bool) (hz us : Nat) : Except Denial Resv :=
  let r := s.rgy
  if r.empty then .error { reason := 1, dwell := false, sb := none, hop := none }
  else match sbOf r hz with
  | none => .error { reason := 2, dwell := false, sb := none, hop := none }
  | some b =>
    let mode := sbMode r b
    let lim := sbBudget r b - (if ack then 0 else reserveOf r (sbBudget r b))
    let limH := hopBudget r b - (if ack then 0 else reserveOf r (hopBudget r b))
    let tx := sbAt r b 0xA 2
    let h := if mode = 2 then hopOf r hz else none
    if mode = 0 then .error { reason := 3, dwell := false, sb := some b, hop := none }
    else if tx != 0 && tx * 1000 < us then .error { reason := 5, dwell := true, sb := some b, hop := h }
    else if mode = 1 && lim < sbUsed s b + us then .error { reason := 4, dwell := false, sb := some b, hop := none }
    else if mode = 2 then
      match h with
      | none => .error { reason := 6, dwell := true, sb := some b, hop := none }
      | some q =>
        if limH < hopUsed s q + us then .error { reason := 7, dwell := true, sb := some b, hop := some q }
        else .ok { sub := b, hop := some q, us := us }
    else .ok { sub := b, hop := none, us := us }

/-- The REASON of a suppressed acknowledgement (R221): 8 in a DUTY sub-band, 9 in a DWELL sub-band. -/
def ackReason (r : Rgy) (d : Denial) : Nat :=
  match d.sb with
  | some b => if sbMode r b = 1 then 8 else if sbMode r b = 2 then 9 else d.reason
  | none => d.reason

/-- A refusal or suppression is recorded, counted and flagged (R215, R218). -/
def recordDenial (ack : Bool) (d : Denial) (r : Rgy) : Rgy :=
  let last := put (if ack then ackReason r d else d.reason) 28 ||| put (match d.sb with | some b => b.val | none => 0) 24
    ||| put (match d.hop with | some h => h.val | none => 0x7F) 16
  let r := { r with last := last }
  if ack then rgyEvt 1 { r with cntSupp := satInc r.cntSupp 65535 }
  else if d.dwell then rgyEvt 0 { r with cntDwell := satInc r.cntDwell 65535 }
  else rgyEvt 0 { r with cntDuty := satInc r.cntDuty 65535 }

/-- An attempt asks for admission: its reservation, or whether it was refused for dwell (R213, R219). -/
def rgyAdmit (ack : Bool) (hz us : Nat) (s : State) : Except Bool Resv × State :=
  if unusable s 49 then (.error false, s)
  else match admissionTest s ack hz us with
    | .ok r => (.ok r, s)
    | .error d => (.error d.dwell, updRgy s (recordDenial ack d))

/-- The power an attempt is sent at: TRX_PWR, or PMAX of its sub-band if that is lower, in 0.5 dB steps (R171, R216). -/
def sendPower (b : Fin 8) (s : State) : Int := min (s.trx.pwr.setWidth 8).toInt (sbPmax s.rgy b)

/-- An attempt above PMAX is counted and flagged (R216). -/
def clampPower (b : Fin 8) (s : State) : State :=
  if sbPmax s.rgy b < ((s.trx.pwr.setWidth 8).toInt) then
    updRgy s (fun r => rgyEvt 2 { r with cntClamp := satInc r.cntClamp 255 })
  else s

/-- Airtime added to the current bucket. -/
def addUs (us : Nat) (l : List Nat) : List Nat :=
  match l with
  | [] => []
  | a :: t => (a + us) :: t

/-- The airtime of an ended attempt charged against its reservation; more than was admitted is counted in OVRUN (R214). -/
def charge (r : Resv) (us : Nat) (s : State) : State :=
  updRgy s (fun g =>
    let g := { g with
      sub := upd g.sub r.sub (addUs us)
      hop := match r.hop with | some h => upd g.hop h (addUs us) | none => g.hop }
    if r.us < us then rgyEvt 3 { g with cntOvrun := satInc g.cntOvrun 255 } else g)

/-! ## Registers (R207, R221) -/

/-- All counts cleared. -/
def effRgyCntClr (d : W32) (s : State) : State :=
  if bit d 0 then updRgy s (fun r => { r with cntDuty := 0, cntDwell := 0, cntSupp := 0, cntOvrun := 0, cntClamp := 0 }) else s

/-- A word of the profile replaced. -/
def setProf (l : List Byte) (off : Nat) (d : W32) : List Byte := l.take off ++ leBytes 4 d.toNat ++ l.drop (off + 4)

/-- An RGY register written; none is SLVERR. Only CFG writes the profile, and only before LOCK (R207). -/
def rgyWrite (m : Mid) (off : Nat) (d : W32) (s : State) : Option State :=
  if 0x400 ≤ off ∧ off < 0x710 then
    if m = .cfg && !s.rgy.lock then some (updRgy s (fun r => { r with prof := setProf r.prof (off / 4 * 4 - 0x400) d })) else none
  else match off with
    | 0x004 => some (updRgy s (fun r => { r with evt := r.evt &&& ~~~ d }))
    | 0x008 => some (updRgy s (fun r => { r with evtEn := d &&& 0xF }))
    | 0x018 => some (effRgyCntClr d s)
    | _ => some s

/-- An RGY register read. -/
def rgyRead (off : Nat) (s : State) : W32 :=
  let r := s.rgy
  if 0x400 ≤ off ∧ off < 0x710 then BitVec.ofNat 32 (profAt r (off / 4 * 4 - 0x400) 4)
  else if 0x200 ≤ off ∧ off < 0x400 then
    match windowIdx 128 4 (off - 0x200) with
    | some h => BitVec.ofNat 32 (hopUsed s h)
    | none => 0
  else if 0x100 ≤ off ∧ off < 0x180 then
    match windowIdx 8 0x10 (off - 0x100), off % 0x10 with
    | some b, 0 => BitVec.ofNat 32 (sbBudget r b)
    | some b, 4 => BitVec.ofNat 32 (reserveOf r (sbBudget r b))
    | some b, 8 => BitVec.ofNat 32 (sbUsed s b)
    | _, _ => 0
  else match off with
    | 0x000 => putB r.lock 31 ||| putB r.empty 30 ||| put (profAt r 0 2) 0
    | 0x004 => r.evt
    | 0x008 => r.evtEn
    | 0x00C => r.last
    | 0x010 => put r.cntDwell 16 ||| put r.cntDuty 0
    | 0x014 => put r.cntSupp 16 ||| put r.cntOvrun 8 ||| put r.cntClamp 0
    | _ => 0

/-- The LTICK cycles of a bucket: WIN / 32 of a sub-band, or DWIN / 8 of the sub-band in which a hop entry lies, lengthened by 1/1 024 and
rounded up (R212). -/
def bucketLen (r : Rgy) : BucketOf → Nat
  | .sub k => ceilDiv (sbAt r k 0xC 4 * 1025) 1000
  | .hop h => match sbOf r (profAt r (0x110 + 4 * h.val) 4) with
    | some b => ceilDiv (sbAt r b 0x14 4 * 41) 10
    | none => 0

/-- PWR_LTIME at which a current bucket began. -/
def bucketAt (r : Rgy) : BucketOf → W32
  | .sub k => r.subAt[k]
  | .hop h => r.hopAt[h]

/-- BUCKET_BOUNDARY: a bucket has lasted its time: the oldest is dropped and a new empty one begins (R212). -/
def execBucketBoundary (b : BucketOf) (s : State) : Host.Outcome State Fault Refusal :=
  .next (if (s.pwr.ltime - bucketAt s.rgy b).toNat < bucketLen s.rgy b then s
    else updRgy s (fun r => match b with
    | .sub k => { r with sub := upd r.sub k (fun l => 0 :: l.take 32), subAt := r.subAt.set k.val s.pwr.ltime }
    | .hop h => { r with hop := upd r.hop h (fun l => 0 :: l.take 8), hopAt := r.hopAt.set h.val s.pwr.ltime }))

/-- RGY_CNT_CLR (R221). -/
def execRgyCntClr (m : Mid) (s : State) : Host.Outcome State Fault Refusal :=
  .next (busWrite m .rgy 0x40210018 1 (rgyWrite m 0x018 1) s)

end Sys2Proof.Machine
end

