-- ==== Sys2Proof/Machine/Radio.lean ====
section
/-!
DEFINITION. Radio: transmission: descriptors, attempts, assessment, timed launches, frames and retries (R169 to R172, R179 to
R184, R188, R195, R199 to R201).
-/

namespace Sys2Proof.Machine

open Sys2Proof

/-- A bit of TRX_EVT set. -/
def trxEvt (i : Nat) (s : State) : State := updTrx s (fun t => { t with evt := withBit t.evt i true })

/-- TRX_CTRL.EN. -/
def trxEn (s : State) : Bool := bit s.trx.ctrl 31

/-- Whether the radio works: its domain powered, the block usable and not under test. -/
def radioOn (s : State) : Bool := domReady s .radio && !unusable s 47 && !underTest s 47

/-- The carrier of a channel in Hz (R169). -/
def carrierOf (t : Trx) (chan : Nat) : Nat := t.f0.toNat + chan * fld t.chsp 23 0

/-- The carrier range of R169. -/
def carrierOk (hz : Nat) : Bool := 779000000 ≤ hz && hz ≤ 960000000

/-- The RFPLL follows the radio's state: powered and tuned to the receive carrier, or off (R169, R300). -/
def rfFollow (s : State) : State :=
  let hz := carrierOf s.trx (fld s.trx.chan 15 0)
  if !domReady s .radio || trxState s = 0 then (if s.clk.rfPower || s.clk.rf.st = .off then s else updClk s rfOff)
  else if s.trx.tx.isSome || !s.clk.xtalOk || (s.clk.rf.st != .off && s.clk.carrier = hz) then s
  else if carrierOk hz then updClk s (tune hz)
  else trxEvt 4 s

/-- A preamble detected in a sniff was followed by no sync word: it counts under FALSE (R194, R203). -/
def sniffLost (t : Trx) : Trx := if t.sniffing then { t with sniffing := false, cntFalse := satInc t.cntFalse 65535 } else t

/-- A frame or an attempt has ended. -/
def radioEnd (s : State) : State := rfFollow (chanApply s)

/-! ## Descriptor fields (R179) -/

/-- A bit of descriptor word 1. -/
def txBit (w : Vector W32 8) (i : Nat) : Bool := bit (w[1]) i
/-- SUNFSK format. -/
def txSun (w : Vector W32 8) : Bool := txBit w 30
/-- TIMED or SYNC. -/
def txTimed (w : Vector W32 8) : Bool := txBit w 25 || txBit w 24
/-- LEN, octets in BUF. -/
def txLen (w : Vector W32 8) : Nat := fld (w[1]) 10 0
/-- RETRIES. -/
def txRetries (w : Vector W32 8) : Nat := fld (w[1]) 23 21
/-- KEYSLOT. -/
def txKeySlot (w : Vector W32 8) : Fin 32 := ⟨fld (w[1]) 20 16, by unfold fld; omega⟩
/-- The octets of the finished PSDU. -/
def txDone (w : Vector W32 8) : Nat := txLen w + (if txBit w 27 then 8 else 0) + fcsLen (txBit w 15)
/-- The channel. -/
def txChan (t : Trx) (w : Vector W32 8) : Nat := if bit (w[7]) 31 then fld (w[7]) 15 0 else fld t.chan 15 0
/-- The partner of a SYNC descriptor. -/
def txPartner (w : Vector W32 8) : Fin 64 := ⟨fld (w[2]) 5 0, by unfold fld; omega⟩

/-- Whether the hardware can carry a descriptor out (R169, R179). -/
def txValid (t : Trx) (w : Vector W32 8) (buf : List Byte) : Bool :=
  txBit w 31 && !(txBit w 25 && txBit w 24) && carrierOk (carrierOf t (txChan t w))
    && 5 ≤ txDone w && txDone w ≤ 2047
    && (!(txBit w 27 || txBit w 26) || (!txSun w && natHdr buf ≤ buf.length))
    && (!txBit w 27 || natSec buf) && (!txBit w 26 || natTs buf)

/-! ## Completion (R180, R181) -/

/-- A descriptor completes: words 4 to 6 are written, OWN is cleared in the queue, the ring or the slot goes on, and TX_DONE
is set. Without an SFD instant, words 5 and 6 take free values (log 6). -/
def completeDesc (src : TxSrc) (addr code tries len : Nat) (sfd : Option (BitVec 48)) (s : State) : State :=
  let stamp := match sfd with | some v => leBytes 6 v.toNat ++ [0, 0] | none => freeBytes s.free 6 ++ [0, 0]
  let s := if sfd.isSome then s else { s with free := s.free + 6 }
  let s := post (.store .trxDma (addr + 16) (leBytes 4 (code * 2 ^ 28 + (tries % 16) * 2 ^ 24 + len) ++ stamp)) s
  let s := match src with
    | .queue =>
      updTrx (post (.setBit .trxDma (addr + 4) 31 false) s) (fun t => { t with txqCons := (t.txqCons + 1) % 64, qTries := 0 })
    | .slot k => updTrx s (fun t => { t with arm := upd t.arm k (fun a => { a with last := code, inflight := false }) })
  let s := updTrx s (fun t =>
    if code = 0 then { t with cntTxOk := satInc t.cntTxOk 65535 } else { t with cntFail := satInc t.cntFail 65535 })
  trxEvt 0 s

/-- The descriptor in hand completes; a reservation still held is released with it. -/
def completeTx (x : TxRun) (code : Nat) (s : State) : State :=
  radioEnd (completeDesc x.src x.addr code x.tries x.sent x.sfd (updTrx s (fun t => { t with tx := none })))

/-! ## Launch times (R184, R195) -/

/-- The own time, counted from REF, of a partner's zone time counted from its zone time at REF (R192, R195). -/
def ownSpan (e : Partner) (rel : Int) : Int := rhaDiv (rel * 100000000) (100000000 + e.drift.toInt).toNat

/-- The partner's next sniff start after `now`, in own time from REF (R195). -/
def nextSniff (e : Partner) (now : BitVec 48) : Int :=
  let q := (now - e.ref).toInt + ptDrift e (now - e.ref).toInt
  let per : Int := e.sper * 153600
  ownSpan e (e.sph.toNat + per * ((q - e.sph.toNat) / per + 1))

/-- The guard G in µs for a sniff at `span` own cycles from REF (R195). -/
def guardUs (s : State) (e : Partner) (span : Int) : Nat :=
  let unc := (e.dunc + sunc s) * span.toNat * 10
  min (gminUs s.trx + ceilDiv unc 153600000000) (e.sper * 500)

/-- What a descriptor's launch is: none, at a TRX_TIME with a lengthening of the preamble in octets, or a completion code. -/
inductive LaunchAt where
  | free
  | at_ (t : Nat) (ext : Nat)
  | code (c : Nat)
  deriving DecidableEq, Repr

/-- Too late for R184: less than 60 µs + CCA_TIME + 140 µs ahead. -/
def tooLate (t : Trx) (ahead : Int) : Bool := ahead * 10 < ((200 + ccaUs t) * 1536 : Nat)

/-- The launch of a descriptor that is reached now (R184, R195). -/
def launchAt (s : State) (w : Vector W32 8) : LaunchAt :=
  let t := s.trx
  if txBit w 25 then
    let ahead := (w[2] - BitVec.ofNat 32 t.time).toInt
    if tooLate t ahead then .code 5 else .at_ (mod48 (t.time + ahead.toNat)) 0
  else if txBit w 24 then
    let e := t.pt[txPartner w]
    if !e.valid || e.sper = 0 then .code 11
    else
      let now := BitVec.ofNat 48 t.time
      let span := nextSniff e now
      let g := guardUs s e span
      let start := e.ref + BitVec.ofInt 48 span - BitVec.ofNat 48 (usCyc g)
      if tooLate t (start - now).toInt then .code 5 else .at_ start.toNat (octetsFor t (2 * g))
  else .free

/-! ## Airtime sent (R214) -/

/-- The octets of a frame that has been on air since its first preamble bit: no more than it has (R214). -/
def octetsOut (t : Trx) (x : TxRun) : Nat :=
  min (ceilDiv (sinceT t x.start * bitRate t) (8 * 153600000)) (frameOctets t (txSun x.w) x.preExt (txDone x.w))

/-- A frame on air is cut off: the octets sent are charged (R214). -/
def cutOff (x : TxRun) (s : State) : State :=
  match x.resv with
  | some r => if octetsOut s.trx x = 0 then s else charge r (airUs s.trx (octetsOut s.trx x)) s
  | none => s

/-! ## Attempts (R182 to R184) -/

/-- Whether a descriptor can be sealed at all: the frame counter is not exhausted, and LEVEL names a MIC of 8 octets (R176, R201). -/
def sealable (x : TxRun) (s : State) : Bool := s.trx.fcnt != 0xFFFFFFFF && (natLevel x.buf = 2 || natLevel x.buf = 6)

/-- A frame's sealing is asked for: the next frame counter is taken with the request (R179, R231). -/
def askSeal (x : TxRun) (s : State) : Option TxRun × State :=
  let n := secLens x.buf x.buf.length
  match portRequest (if x.src = .queue then 1 else 0) (txKeySlot x.w) false n.1 n.2 s with
  | (some q, s1) => (some { x with sealing := some (q, s1.trx.fcnt) }, updTrx s1 (fun t => { t with fcnt := t.fcnt + 1 }))
  | (none, s1) => (none, s1)

/-- The attempt in hand goes on at a stage. -/
def atStage (x : TxRun) (st : TxStage) (s : State) : State :=
  updTrx s (fun t => { t with tx := some { x with stage := st, since := t.time } })

/-- The radio starts to send, at TRX_PWR or PMAX; a frame that TS stamps is sealed from here on (R184, R216). -/
def commitTx (x : TxRun) (start : Nat) (s : State) : State :=
  let go (x : TxRun) (s : State) : State :=
    let s := match x.resv with | some r => clampPower r.sub s | none => s
    let p := match x.resv with | some r => sendPower r.sub s | none => (s.trx.pwr.setWidth 8).toInt
    atStage { x with start := start, power := p } .onAir (updTrx s (fun t => { sniffLost t with rxOn := false }))
  if txBit x.w 27 && x.key.isNone then
    (if !sealable x s then completeTx x 8 s
     else match askSeal x s with
      | (some y, s1) => go y s1
      | (none, s1) => completeTx x 8 s1)
  else go x s

/-- Steps 4 to 6 of an attempt once the carrier is ready: assessment, or the preamble. A timed attempt waits for its launch. -/
def carryOn (x : TxRun) (s : State) : State :=
  if txTimed x.w then atStage x .timed s
  else if s.clk.rf.st != .locked then atStage x .ready s
  else if txBit x.w 29 then atStage x .assess s
  else commitTx x s.trx.time s

/-- Steps 2 and 3 of an attempt: admission for the worst-case airtime, and the tune. A tune to the carrier in use takes a changed
SYS_RFPLL_CFG (R303). -/
def admitTx (x : TxRun) (s : State) : State :=
  let late := if txBit x.w 27 && txBit x.w 26 then octetsFor s.trx 256 else 0
  let us := airUs s.trx (frameOctets s.trx (txSun x.w) (x.preExt + late) (txDone x.w))
  match rgyAdmit false x.carrier us s with
  | (.error dwell, s1) => completeTx x (if dwell then 4 else 3) s1
  | (.ok r, s1) =>
    let x := { x with resv := some r }
    if unusable s1 48 then completeTx x 6 (trxEvt 4 s1)
    else carryOn x (updClk s1 (tune x.carrier))

/-- Step 1 of an attempt: seal, unless TS puts that after commitment. -/
def sealTx (x : TxRun) (s : State) : State :=
  if !txBit x.w 27 || txBit x.w 26 then admitTx x s
  else if !sealable x s then completeTx x 8 s
  else match askSeal x s with
    | (some y, s1) => atStage y .sealing s1
    | (none, s1) => completeTx x 8 s1

/-- The outcome of an attempt's sealing (R201, R231): its key, or TX_SEAL. A frame already begun is cut off. -/
def sealBack (r : PortRet) (x : TxRun) (f : W32) (s : State) : State :=
  let x := { x with sealing := none }
  if r.st = 0 then updTrx (updCry s (countStatus true 0)) (fun t => { t with tx := some { x with key := some (r.key, f) } })
  else if x.stage = .onAir then completeTx { x with resv := none } 8 (cutOff x s)
  else completeTx x 8 s

/-- A new attempt of a descriptor with its buffer, after `tries` earlier ones (R182). It aborts an entry to SLUMBER (R325). -/
def attempt (src : TxSrc) (addr : Nat) (w : Vector W32 8) (buf : List Byte) (tries : Nat) (old : Option TxRun)
    (s : State) : State :=
  let s := fence s
  let t := s.trx
  let sfd := old.bind (·.sfd)
  let sent := match old with | some o => o.sent | none => 0
  let stop (c : Nat) (s : State) : State := radioEnd (completeDesc src addr c tries sent sfd s)
  if unusable s 49 then stop 3 s
  else if txBit w 27 && unusable s 50 then stop 8 s
  else if !txValid t w buf then stop 9 s
  else
    let ext := octetsFor t (fld (w[3]) 31 8)
    let x : TxRun :=
      { src := src, addr := addr, w := w, buf := buf, stage := .ready, tries := tries + 1, busies := 0, wait := 0
        carrier := carrierOf t (txChan t w), chan := txChan t w, resv := none, preExt := ext, start := t.time, key := none
        sfd := sfd, sent := sent, since := t.time }
    match launchAt s w with
    | .code c => stop c s
    | .free => sealTx x s
    | .at_ start e => sealTx { x with preExt := ext + e, start := start } s

/-- The descriptor that goes next: the lowest launched slot, else the head of the queue (R181, R199). -/
def nextDesc (t : Trx) : Option (TxSrc × Nat) :=
  match (idx 4).find? (fun k => t.launched.contains k) with
  | some k => some (.slot k, (t.arm[k]).desc.toNat)
  | none => if t.txqProd % 64 = t.txqCons % 64 then none else some (.queue, t.txqBase.toNat + 32 * (t.txqCons % 32))

/-- The radio reaches a descriptor: reads it and its buffer, and starts an attempt (R180, R181). Without a usable RGY it completes
with code 3 (R219); a TIMED or SYNC one waits while TRX_TIME waits for its advance (R329). -/
def takeDesc (src : TxSrc) (addr : Nat) (s : State) : State :=
  let tries := if src = .queue then s.trx.qTries else 0
  let drop (s : State) : State := match src with
    | .slot k => updTrx s (fun t => { t with launched := t.launched.filter (· != k) })
    | .queue => s
  let stop (c : Nat) (s : State) : State := radioEnd (completeDesc src addr c tries 0 none (drop s))
  if unusable s 49 then stop 3 s
  else match dmaRead .trxDma addr 32 s with
  | ((.okay, l), s1) =>
    let w := descWords l
    if txTimed w && s1.pwr.tadj then s1
    else if txBit w 27 && unusable s1 50 then stop 8 s1
    else match dmaRead .trxDma (w[0]).toNat (txLen w) s1 with
    | ((.okay, buf), s2) => attempt src addr w buf tries none (drop s2)
    | (_, s2) => stop 7 s2
  | (_, s1) => stop 7 s1

/-- A retry: a new attempt, on a channel written meanwhile (R188, R199). -/
def retryTx (x : TxRun) (s : State) : State :=
  attempt x.src x.addr x.w x.buf x.tries (some x) (chanApply (updTrx s (fun t => { t with tx := none })))

/-- The next descriptor's attempt starts, or an attempt goes on: sealed, retried, or with its tune over (R182, R199, R200). It waits
behind an acknowledgement that is due and behind a frame being received. -/
def txAttempt (s : State) : State :=
  if !radioOn s || s.trx.ackDue.isSome || s.trx.rxOn || s.pwr.state = .slumber then s
  else match s.trx.tx with
  | some x => match x.stage with
    | .sealing => if x.key.isSome then admitTx x s else s
    | .again => retryTx x s
    | .ready => if s.clk.rf.st = .locked then carryOn x s else completeTx x 6 (trxEvt 4 s)
    | _ => s
  | none =>
    if !trxEn s then s
    else match nextDesc s.trx with
    | some (src, a) => takeDesc src a s
    | none => s

/-- Whether an assessment's finding is busy: the mean RSSI, in 0.5 dB steps, exceeds CCA_THR, or a preamble or sync word was heard,
as MODE says; for the MODE that R183 does not list the finding is a free value (log 6). -/
def ccaBusy (s : State) (rssi : Byte) (heard : Bool) : Bool :=
  let loud : Bool := 2 * (BitVec.ofNat 8 (fld s.trx.lbt 19 12)).toInt < rssi.toInt
  match fld s.trx.lbt 31 30 with
  | 0 => loud
  | 1 => heard
  | 2 => loud || heard
  | _ => Config.freeBit s.free

/-- An assessment's finding (R183, R184). -/
def assessed (busy : Bool) (draw : Nat) (x : TxRun) (s : State) : State :=
  let t := s.trx
  if x.stage = .timed then
    (if busy then completeTx x 2 s else updTrx s (fun t => { t with tx := some { x with clear := true } }))
  else if !busy then (if s.clk.rf.st = .locked then commitTx x t.time s else completeTx x 6 (trxEvt 4 s))
  else
    let n := x.busies + 1
    let x := { x with busies := n, resv := none }
    if fld t.lbt 5 3 + 1 ≤ n then completeTx x 2 s
    else
      let be := min (fld t.lbt 11 9 + x.busies - 1) (fld t.lbt 8 6)
      atStage { x with wait := draw % 2 ^ be * boUnit t } .backoff s

/-- CHANNEL_ASSESSMENT: an assessment that has listened for CCA_TIME ends, a timed one at the start of the turnaround (R183, R184).
It waits behind an acknowledgement that is due (R199). -/
def execChannelAssessment (rssi : Byte) (heard : Bool) (s : State) (draw : Nat := 0) : Host.Outcome State Fault Refusal :=
  .next (match s.trx.tx with
    | none => s
    | some x =>
      let ended : Bool := match x.stage with
        | .assess => usCyc (ccaUs s.trx) ≤ sinceT s.trx x.since && s.trx.ackDue.isNone
        | .timed => txBit x.w 29 && !x.clear && untilT s.trx x.start ≤ usCyc turnUs
        | _ => false
      if ended then assessed (ccaBusy s rssi heard) draw x { s with free := s.free + 1 } else s)

/-- BACKOFF_END: the back-off is over; a new assessment with a new admission follows, behind an acknowledgement that is due (R182,
R183, R199, R217). -/
def execBackoffEnd (s : State) : Host.Outcome State Fault Refusal :=
  .next (match s.trx.tx with
    | some x =>
      if x.stage = .backoff && usCyc x.wait ≤ sinceT s.trx x.since && s.trx.ackDue.isNone && radioOn s then admitTx x s else s
    | none => s)

/-- TIMED_LAUNCH: the first preamble bit leaves at the launch time (R184, R199). -/
def execTimedLaunch (s : State) : Host.Outcome State Fault Refusal :=
  .next (match s.trx.tx with
    | some x =>
      if x.stage != .timed || 0 < untilT s.trx x.start then s
      else if s.clk.rf.st != .locked then completeTx x 6 (trxEvt 4 s)
      else if txBit x.w 29 && (s.trx.rxOn || !x.clear) then (if s.trx.rxOn then completeTx x 2 s else s)
      else
        let s := if s.trx.rxOn then updTrx s (fun t => { t with cntFilt := satInc t.cntFilt 65535 }) else s
        commitTx x x.start s
    | none => s)

/-! ## A frame on air and its end -/

/-- TRX_ZTIME at own time `t`: ZLK_ZT in a joined device with ZT = 1, else the radio's zone time (R190, R264). -/
def zoneOf (s : State) (t : BitVec 48) : BitVec 48 :=
  if zlkJoined s && bit s.zlk.ctrl 30 then
    let span := (t - BitVec.ofNat 48 s.trx.time).toInt
    BitVec.ofInt 48 ((s.zlk.zt / 2 ^ 16 : Nat) + span + rhaDiv (s.zlk.rate.toInt * span) 100000000)
  else zoneAt s.trx t

/-- SPER and SNEXT of this device's own SYNC frames: the sniff interval, and the cycles to the next sniff start (R174, R194). -/
def ownSync (t : Trx) (z : BitVec 48) : List Byte :=
  let int := sniffInt t
  if !bit t.ctrl 29 then List.replicate 6 0
  else
    let per := int * msCyc
    leBytes 2 int ++ leBytes 4 (per - (z.toNat + (per - fld t.sniffCfg 29 16 * msCyc % per)) % per)

/-- The octets of BUF with the times that TS asks for (R184). -/
def stampFrame (s : State) (w : Vector W32 8) (buf : List Byte) (sfd : BitVec 48) : List Byte :=
  if !txBit w 26 then buf
  else
    let z := zoneOf s sfd
    let p := putOcts buf 8 (leBytes 6 z.toNat)
    if natType p = 3 && natHdr p + 6 ≤ p.length then putOcts p (natHdr p) (ownSync s.trx z) else p

/-- The PSDU that an attempt sends (R175, R179). -/
def framePsdu (s : State) (x : TxRun) (sfd : BitVec 48) : List Byte :=
  let p := stampFrame s x.w x.buf sfd
  let p := match x.key with | some (k, f) => sealFrame k f p | none => p
  p ++ fcsOf (txSun x.w) (txBit x.w 15) p

/-- The octets added to the preamble in all: PRE_EXT, and while a stamped frame is sealed (R184). -/
def extOf (x : TxRun) (ext : Nat) : Nat := x.preExt + (if txBit x.w 27 && txBit x.w 26 then ext else 0)

/-- The power and the octets of a frame sent, and its symbols (R170, R216). -/
def sendAir (p : Int) (l : List Byte) (t : Trx) : Trx := { t with air := l, airDev := airDevs t l, airPwr := p }

/-- TX_FRAME_END: the frame has left, with `ext` octets of preamble added while it was sealed; its airtime is charged, and the
descriptor completes or awaits an acknowledgement (R181, R184, R188, R214). A frame that still waits for its seal has not ended. -/
def execTxFrameEnd (sfd : BitVec 48) (s : State) (ext : Nat := 0) : Host.Outcome State Fault Refusal :=
  .next (match s.trx.tx with
    | some x =>
      if x.stage != .onAir || x.sealing.isSome then s
      else
        let psdu := framePsdu s x sfd
        let us := airUs s.trx (frameOctets s.trx (txSun x.w) (extOf x ext) psdu.length)
        let s := match x.resv with | some r => charge r us s | none => s
        let x := { x with resv := none, sfd := some sfd, sent := psdu.length }
        let s := updTrx (atStage x .awaitAck s)
          (fun t => sendAir x.power (airOf t (txSun x.w) (txBit x.w 15) (txBit x.w 14) (preOf t + extOf x ext) psdu) t)
        if txBit x.w 28 then s else completeTx x 0 s
    | none => s)

/-- ACK_WAIT_EXPIRY: no acknowledgement came within ACK_WAIT; a retry starts, or the descriptor completes with TX_NOACK. A launched
slot goes before the retry of a queued descriptor, and an acknowledgement that is due before any (R188, R199, R217). -/
def execAckWaitExpiry (s : State) : Host.Outcome State Fault Refusal :=
  .next (match s.trx.tx with
    | some x =>
      if x.stage != .awaitAck || sinceT s.trx x.since < usCyc (fld s.trx.ack 15 0) then s
      else if txRetries x.w < x.tries then completeTx x 1 s
      else
        let s := if x.src = .queue then updTrx s (fun t => { t with qTries := x.tries }) else s
        if s.trx.ackDue.isSome then atStage x .again s
        else if x.src = .queue && !s.trx.launched.isEmpty then radioEnd (updTrx s (fun t => { t with tx := none }))
        else retryTx x s
    | none => s)

/-- The RFPLL is lost: a frame on air ends with TX_PLL, charged for the octets sent; a frame being received is counted under CRC
(R200, R214). -/
def radioLoss (s : State) : State :=
  let s := if s.trx.rxOn then trxEvt 4 (updTrx s (fun t => { t with rxOn := false, cntCrc := satInc t.cntCrc 65535 })) else s
  match s.trx.tx with
  | some x => if x.stage != .onAir then s else completeTx { x with resv := none } 6 (trxEvt 4 (cutOff x s))
  | none => s

/-! ## Register effects of the transmit side -/

/-- FLUSH: every queued descriptor not on air completes with TX_FLUSHED (R199). -/
def effTrxFlush (s : State) : State :=
  let n := (s.trx.txqProd + 64 - s.trx.txqCons % 64) % 64
  let head := s.trx.txqBase.toNat + 32 * (s.trx.txqCons % 32)
  let busy : Bool := match s.trx.tx with | some x => x.src = .queue && x.stage = .onAir | none => false
  let first := s.trx.txqCons + (if busy then 1 else 0)
  let run := match s.trx.tx with | some x => if x.src = TxSrc.queue && !busy then some x else none | none => none
  let tries := match run with | some x => x.tries | none => s.trx.qTries
  let s := if run.isSome then updTrx s (fun t => { t with tx := none }) else s
  let addr (i : Nat) : Nat := s.trx.txqBase.toNat + 32 * ((first + i) % 32)
  let s := (List.range (n - (if busy then 1 else 0))).foldl (fun s i =>
    if addr i = head then
      completeDesc .queue (addr i) 10 tries (match run with | some x => x.sent | none => 0) (run.bind (·.sfd)) s
    else completeDesc .queue (addr i) 10 0 0 none s) s
  radioEnd s

/-- TRX_ARM_k_CTRL: ARMED, and LAUNCH of an armed slot not in flight (R181). -/
def effArmCtrl (k : Fin 4) (d : W32) (s : State) : State :=
  let s := updTrx s (fun t => { t with arm := upd t.arm k (fun a => { a with armed := bit d 31 }) })
  if bit d 29 && canLaunch s k then launchSlot k s else s

end Sys2Proof.Machine
end

