-- ==== Sys2Proof/Machine/RadioRx.lean ====
section
/-!
DEFINITION. RadioRx: reception: the RX ring, filters, acknowledgements, partner updates, the scene matcher, sniffs, and the
TRX registers (R185 to R197, R200 to R204).
-/

namespace Sys2Proof.Machine

open Sys2Proof

/-- A count of dropped frames, CRC, FILT or OVF. -/
def countCrc (s : State) : State := updTrx s (fun t => { t with cntCrc := satInc t.cntCrc 65535 })
/-- A frame counted under FILT. -/
def countFilt (s : State) : State := updTrx s (fun t => { t with cntFilt := satInc t.cntFilt 65535 })
/-- A frame counted under OK. -/
def countOk (s : State) : State := updTrx s (fun t => { t with cntOk := satInc t.cntOk 65535 })

/-! ## What the PHR says (R173, R177) -/

/-- LEN of a received frame. -/
def rxLen (f : RxAir) : Nat := (f.phr.extractLsb' 0 11).toNat
/-- Whether the FCS has four octets. -/
def rxLong (f : RxAir) : Bool := if f.sun then !f.phr.getLsbD 12 else f.phr.getLsbD 11
/-- Whether the PSDU is whitened. -/
def rxWhite (f : RxAir) : Bool := if f.sun then f.phr.getLsbD 11 else f.phr.getLsbD 12
/-- The PSDU without whitening, FCS included. -/
def rxPsdu (f : RxAir) : List Byte := whiten (rxWhite f) f.psdu
/-- The PSDU without its FCS. -/
def rxBody (f : RxAir) : List Byte := (rxPsdu f).take ((rxPsdu f).length - fcsLen (rxLong f))
/-- Whether the FCS checks. -/
def rxFcsOk (f : RxAir) : Bool :=
  fcsLen (rxLong f) ≤ (rxPsdu f).length && (rxPsdu f).drop ((rxPsdu f).length - fcsLen (rxLong f)) = fcsOf f.sun (rxLong f) (rxBody f)

/-- Whether the PHR is one that the receiver takes: the reserved bits zero, no shorter than 5 octets, and no mode switch. -/
def rxPhrOk (f : RxAir) : Bool := f.psdu.length = rxLen f && 5 ≤ rxLen f && (f.sun || f.phr.extractLsb' 13 3 = 0)

/-- Whether a frame passes the type and address conditions of R186. -/
def rxPasses (t : Trx) (promisc : Bool) (f : RxAir) : Bool :=
  if f.sun then sunPasses t promisc (rxBody f) else natPasses t promisc (rxBody f)

/-- Whether a frame is unicast to this device. -/
def rxUnicast (t : Trx) (f : RxAir) : Bool :=
  if f.sun then sunToMe t (rxBody f) = 1
  else natDst (rxBody f) = fld t.addr 15 0 && fld t.addr 15 0 != 0xFFFF

/-- Whether a frame is the acknowledgement that the device awaits (R188). -/
def rxIsAck (s : State) (f : RxAir) : Bool :=
  match s.trx.tx with
  | some x =>
    let p := rxBody f
    x.stage = .awaitAck && rxFcsOk f && f.sun = txSun x.w
      && (if f.sun then sunType p = 2 && oct p 2 = oct x.buf 2
          else natType p = 1 && oct p 1 = oct x.buf 1 && natZone p = fld s.trx.addr 31 16 && natDst p = fld s.trx.addr 15 0)
  | none => false

/-- Whether a frame asks for an acknowledgement that the device gives (R187), a free RX descriptor apart. -/
def rxWantsAck (t : Trx) (f : RxAir) : Bool :=
  bit t.ctrl 24 && rxFcsOk f && rxUnicast t f && rxPasses t false f
    && (if f.sun then sunAckReq (rxBody f) else natAckReq (rxBody f))

/-- The acknowledgement frame without its FCS (R187). -/
def ackBody (t : Trx) (f : RxAir) : List Byte :=
  let p := rxBody f
  if f.sun then [0x02, 0x00, oct p 2]
  else [0x01, oct p 1] ++ leBytes 2 (fld t.addr 31 16) ++ leBytes 2 (natSrc p) ++ leBytes 2 (fld t.addr 15 0)

/-! ## Partner updates and the matcher (R193, R196) -/

/-- What a frame brings to its partner entry, from its payload in clear. -/
def rxUpd (f : RxAir) (pay : Option (List Byte)) : PtUpd :=
  let p := rxBody f
  { src := BitVec.ofNat 16 (natSrc p), rx := f.sfd, tsf := natTsf p
    sync := match pay with
      | some l => if natType p = 3 && 6 ≤ l.length then some (octs l 0 2, BitVec.ofNat 32 (octs l 2 4)) else none
      | none => none }

/-- The radio asks for the verification of a secured frame with a key slot (R196, R231). -/
def askOpen (cls : Fin 4) (slot : Fin 32) (p : List Byte) (s : State) : Option Nat × State :=
  let n := secLens p (p.length - 8)
  portRequest cls slot true n.1 n.2 s

/-- What a verification returned: the payload in clear, if the MIC is right; a check that ran is counted by its result (R231, R250). -/
def openBack (r : PortRet) (p : List Byte) (s : State) : Option (List Byte) × State :=
  if r.st != 0 then (none, s)
  else
    let x := openFrame r.key p
    (x, updCry s (countStatus true (if x.isSome then 0 else 1)))

/-- The partner update of a SYNC frame once its MIC is judged (R193). -/
def syncPartner (f : RxAir) (good : Option (List Byte)) (s : State) : State :=
  let p := rxBody f
  match good with
  | some pay => ptUpdate (rxUpd f (some pay)) s
  | none =>
    if bit s.trx.ptCfg 6 then s
    else ptUpdate (rxUpd f (if natLevel p = 6 then none else some (p.drop (natHdr p)))) s

/-- The partner update of a delivered NATIVE frame that its own reception decides (R193): a SYNC frame's MIC is verified first, a
SCENE frame under SECONLY waits for its matcher. -/
def rxPartner (f : RxAir) (s : State) : State :=
  let p := rxBody f
  let only := bit s.trx.ptCfg 6
  let clear := if natSec p then none else some (p.drop (natHdr p))
  if f.sun || !natTs p || !natWhole p || (ptFind s.trx (BitVec.ofNat 16 (natSrc p))).isNone then s
  else if natType p = 3 && natSec p then
    match askOpen 1 ⟨fld s.trx.ptCfg 4 0, by unfold fld; omega⟩ p s with
    | (some q, s1) => updTrx s1 (fun t => { t with syncs := t.syncs ++ [{ seq := q, frame := f }] })
    | (none, s1) => syncPartner f none s1
  else if only then s
  else ptUpdate (rxUpd f clear) s

/-- The matcher slot that takes a frame: the lowest enabled one whose group and scene match (R196). -/
def matchSlot (t : Trx) (f : RxAir) : Option (Fin 8) :=
  let p := rxBody f
  let group := octs p (natHdr p) 2
  let sc := (oct p (natHdr p + 2)).toNat % 8
  if f.sun || natType p != 2 || !natSec p || !natWhole p then none
  else (idx 8).find? (fun k =>
    let c := t.matcher[k]
    let m := fld c.group 31 16
    bit c.ctrl 31 && (group &&& m) = (fld c.group 15 0 &&& m) && bit c.ctrl (8 + sc))

/-- A matcher slot's failure (R196). -/
def matchFail (k : Fin 8) (replay : Bool) (s : State) : State :=
  trxEvt 6 (updTrx s (fun t => { t with
    matcher := upd t.matcher k (fun c => { c with fails := satInc c.fails 65535 })
    cntReplay := if replay then satInc t.cntReplay 65535 else t.cntReplay
    cntAuth := if replay then t.cntAuth else satInc t.cntAuth 65535 }))

/-- The check of a frame begins: partner, replay, then a job for the MIC; with the cipher engine unusable every check fails under
AUTH (R196, R201). -/
def beginCheck (x : MatchRun) (s : State) : Check × State :=
  let p := x.psdu
  if unusable s 50 then (.bad, s)
  else match ptFind s.trx (BitVec.ofNat 16 (natSrc p)) with
    | none => (.bad, s)
    | some i =>
      if natFcnt p ≤ (s.trx.pt[i]).fcnt.toNat then (.replay, s)
      else match askOpen 0 ⟨fld (s.trx.matcher[x.slot]).ctrl 20 16, by unfold fld; omega⟩ p s with
        | (some q, s1) => (.job q, s1)
        | (none, s1) => (.bad, s1)

/-- The matcher takes the first frame in its hands: one is checked at a time. -/
def matchNext (s : State) : State :=
  match s.trx.matching with
  | x :: l =>
    if x.check != .idle then s
    else
      let r := beginCheck x s
      updTrx r.2 (fun t => { t with matching := { x with check := r.1 } :: l })
  | [] => s

/-- A passed check: LAST_FCNT, HITS, the partner update under SECONLY, and the slot's route source (R193, R196). -/
def matchPass (x : MatchRun) (pay : List Byte) (s : State) : State :=
  let p := x.psdu
  let s := updTrx s (fun t => { t with
    pt := match ptFind t (BitVec.ofNat 16 (natSrc p)) with
      | some i => upd t.pt i (fun e => { e with fcnt := BitVec.ofNat 32 (natFcnt p) })
      | none => t.pt
    matcher := upd t.matcher x.slot (fun c => { c with hits := satInc c.hits 65535 }) })
  let s := if bit s.trx.ptCfg 6 && natTs p then ptUpdate (rxUpd x.frame (some pay)) s else s
  fire (0x08 + x.slot.val) s

/-- The outcome of the matcher's check of its first frame takes effect, and the next frame is checked. -/
def matchEnd (s : State) : State :=
  match s.trx.matching with
  | [] => s
  | x :: l =>
    let go (f : State → State) : State := matchNext (f (updTrx s (fun t => { t with matching := l })))
    match x.check with
    | .idle => matchNext s
    | .job _ => s
    | .replay => go (matchFail x.slot true)
    | .bad => go (matchFail x.slot false)
    | .good pay => go (matchPass x pay)

/-- A job's outcome goes to what asked for it: an attempt's sealing, a SYNC frame, or the matcher's frame; one whose asker is gone
is dropped (R196, R201, R231). -/
def portBack (s : State) (r : PortRet) : State :=
  match s.trx.tx with
  | some x => match x.sealing with
    | some (q, f) => if q = r.seq then sealBack r x f s else other s
    | none => other s
  | none => other s
where
  other (s : State) : State :=
    match s.trx.syncs.find? (fun y => y.seq = r.seq) with
    | some y =>
      let b := openBack r (rxBody y.frame) (updTrx s (fun t => { t with syncs := t.syncs.filter (fun z => z.seq != r.seq) }))
      syncPartner y.frame b.1 b.2
    | none => match s.trx.matching with
      | y :: l =>
        if y.check = .job r.seq then
          let b := openBack r y.psdu s
          updTrx b.2 (fun t => { t with matching := { y with check := match b.1 with | some p => .good p | none => .bad } :: l })
        else s
      | [] => s

/-- The radio takes the outcomes that the cipher engine returned. -/
def portReturn (s : State) : State := s.cry.ret.foldl portBack (updCry s (fun c => { c with ret := [] }))

/-! ## Delivery (R185, R186, R201) -/

/-- The RX descriptor at NEXT, if the hardware owns it: its address and words 0 and 1. -/
def rxDesc (s : State) : Option (Nat × W32 × W32) × State :=
  let a := s.trx.rxrBase.toNat + 32 * s.trx.rxrNext
  match dmaRead .trxDma a 8 s with
  | ((.okay, l), s1) => (if bit (wordOf l 1) 31 then some (a, wordOf l 0, wordOf l 1) else none, s1)
  | (_, s1) => (none, trxEvt 5 s1)

/-- A frame written to the RX ring (R185): the PSDU, words 2 to 7, OWN cleared. -/
def rxWrite (a : Nat) (w0 w1 : W32) (f : RxAir) (slot : Option (Fin 8)) (s : State) : State :=
  let p := rxPsdu f
  let hit := if f.sun then none else ptFind s.trx (BitVec.ofNat 16 (natSrc (rxBody f)))
  match dmaWrite .trxDma w0.toNat (p.take (fld w1 10 0)) s with
  | ((c, _), s1) =>
    let s1 := if c = .okay then s1 else trxEvt 5 s1
    let w2 := putB (rxFcsOk f) 31 ||| putB f.sun 30 ||| putB hit.isSome 28 ||| putB (c != .okay) 27 ||| putB f.sniffed 26 ||| put p.length 0
    let w3 := (match slot with | some k => put 1 (8 + k.val) | none => 0) ||| (match hit with | some i => put i.val 0 | none => 0)
    let w4 := put f.fofs.toNat 16 ||| put f.rssi.toNat 0
    let l := leBytes 4 w2.toNat ++ leBytes 4 w3.toNat ++ leBytes 4 w4.toNat ++ leBytes 6 f.sfd.toNat ++ [0, 0]
      ++ leBytes 4 (fld s.trx.chan 15 0)
    let q2 := dmaWrite .trxDma (a + 8) l s1
    let s2 := if q2.1.1 = .okay then q2.2 else trxEvt 5 q2.2
    let q3 := dmaWrite .trxDma (a + 4) (leBytes 4 (withBit w1 31 false).toNat) s2
    let s3 := if q3.1.1 = .okay then q3.2 else trxEvt 5 q3.2
    trxEvt 1 (updTrx s3 (fun t => { t with rxrNext := (t.rxrNext + 1) % 32 }))

/-- A frame that passes R186 is delivered, offered to the matcher and the partner table, and acknowledged. `ack` is false for a
frame held from SLUMBER (R334). -/
def rxDeliver (f : RxAir) (ack : Bool) (s : State) : State :=
  let slot := matchSlot s.trx f
  let wants := ack && rxWantsAck s.trx f
  let toRing := match slot with | some k => bit (s.trx.matcher[k]).ctrl 30 | none => true
  match (if toRing || wants then rxDesc s else (none, s)) with
  | (d, s1) =>
    if toRing && d.isNone then trxEvt 3 (updTrx s1 (fun t => { t with cntOvf := satInc t.cntOvf 65535 }))
    else
      let s2 := rxPartner f (if rxFcsOk f then countOk s1 else countCrc s1)
      let s3 := match d with
        | some (a, w0, w1) => if toRing then rxWrite a w0 w1 f slot s2 else s2
        | none => s2
      let due : AckRun :=
        { sun := f.sun, white := rxWhite f, psdu := ackBody s3.trx f ++ fcsOf f.sun (rxLong f) (ackBody s3.trx f)
          desc := if toRing then d.map (·.1) else none, since := s3.trx.time }
      let s4 := if wants && d.isSome then updTrx (fence s3) (fun t => { t with ackDue := some due }) else s3
      match slot with
      | some k => matchNext (updTrx s4 (fun t => { t with matching := t.matching ++ [{ slot := k, frame := f, psdu := rxBody f }] }))
      | none => s4

/-- A whole frame from the air is judged (R173, R178, R186): counted and dropped, consumed as an acknowledgement, or delivered. -/
def rxJudge (f : RxAir) (s : State) : State :=
  if f.sun && f.phr.getLsbD 15 then countFilt s
  else if !rxPhrOk f then countCrc s
  else if !rxFcsOk f && !bit s.trx.ctrl 25 then countCrc s
  else if rxIsAck s f then
    match s.trx.tx with
    | some x => completeTx x 0 (countOk s)
    | none => s
  else if !rxPasses s.trx (bit s.trx.ctrl 28) f then countFilt s
  else rxDeliver f true s

/-- Whether a frame passes R186 (R194, R334). -/
def rxGood (t : Trx) (f : RxAir) : Bool :=
  !(f.sun && f.phr.getLsbD 15) && rxPhrOk f && (rxFcsOk f || bit t.ctrl 25) && rxPasses t (bit t.ctrl 28) f

/-- The receiver takes frames: it works, its format is enabled, it listens, and the frame begins with the sync word or SFD in force
(R171, R173, R177, R183, R188, R194). -/
def rxListens (sun : Bool) (sync : W32) (s : State) : Bool :=
  radioOn s && receiverOn s && bit s.trx.ctrl (if sun then 26 else 27) && sync == syncOf s.trx sun

/-- A frame is received whole (R185, R186, R194). In SLUMBER a frame that passes is held and wakes the device; one that fails
leaves it asleep (R334). -/
def rxFrame (f : RxAir) (s : State) : State :=
  if !rxListens f.sun f.sync s then s
  else
    let good := rxGood s.trx f
    let s := updTrx s (fun t => { t with rxOn := false, sniffing := false, sfd := f.sfd, rssi := f.rssi })
    if s.pwr.state = .slumber then
      if good then wake .sniff (updTrx s (fun t => { t with heldRx := some f }))
      else domDown (updClk (rxJudge f s) (fun c => xtalRest (rfOff c))) .radio true
    else
      let s := radioEnd (rxJudge f s)
      if f.sniffed then
        let s := if good then wake .sniff s else s
        rfFollow (updClk s (fun c => { c with rfPower := false }))
      else s

/-- A frame held from a sniff in SLUMBER is written to the RX ring (R329, R334). -/
def deliverHeld (s : State) : State :=
  match s.trx.heldRx with
  | some f => rxDeliver f false (updTrx s (fun t => { t with heldRx := none }))
  | none => s

/-- MATCHER_RESULT: the matcher's check of its frame ends (R196, R201). -/
def execMatcherResult (s : State) : Host.Outcome State Fault Refusal := .next (matchEnd (portReturn s))

/-- SFD_DETECTED: the receiver takes the SFD instant and enters the receive state (R189, R194). -/
def execSfdDetected (sun : Bool) (sync : W32) (s : State) (sfd : BitVec 48 := 0) : Host.Outcome State Fault Refusal :=
  .next (if rxListens sun sync s then updTrx s (fun t => { t with rxOn := true, sniffing := false, sfd := sfd }) else s)

/-- The zone time now. -/
def zoneNow (s : State) : BitVec 48 := zoneOf s (BitVec.ofNat 48 s.trx.time)

/-- The zone time of sniff instant `k`: PH, then every INT (R194). -/
def sniffZone (t : Trx) (k : Int) : Int := (fld t.sniffCfg 29 16 * msCyc : Nat) + k * (sniffInt t * msCyc : Nat)

/-- The sniff instant last reached at a zone time; negative before the first (R194). -/
def sniffIdx (t : Trx) (z : Int) : Int := (z - (fld t.sniffCfg 29 16 * msCyc : Nat)) / (sniffInt t * msCyc : Nat)

/-- The PWR_LTIME count of a sniff instant in SLUMBER, from the entry point (R334). -/
def loftInstant (t : Trx) (p : SleepPoint) (k : Int) : Int :=
  p.ltime.toNat + rhaDiv ((sniffZone t k - p.zone) * (100000000 + p.pred)) 468750000000

/-- The LTICK cycles since SLUMBER was entered, added to PWR_LTIME at its entry. -/
def loftNow (s : State) (p : SleepPoint) : Int := p.ltime.toNat + (s.pwr.ltime - p.ltime).toNat

/-- The first sniff instant in SLUMBER that is not yet past, or has been reached in this LTICK cycle. -/
def loftNext (s : State) (p : SleepPoint) : Int :=
  let span : Int := (s.pwr.ltime - p.ltime).toNat
  let k := sniffIdx s.trx (p.zone + span * 468750000000 / (100000000 + p.pred))
  if loftNow s p ≤ loftInstant s.trx p k then k
  else if loftNow s p ≤ loftInstant s.trx p (k + 1) then k + 1 else k + 2

/-- The sniff instant last reached; in SLUMBER as the loft times it (R194, R334). -/
def sniffSlot (s : State) : Option Int :=
  let k : Int := match s.pwr.state, s.pwr.sleep with
    | .slumber, some p =>
      let n := loftNext s p
      if loftInstant s.trx p n ≤ loftNow s p then n else n - 1
    | _, _ => sniffIdx s.trx (zoneNow s).toNat
  if k < 0 then none else some k

/-- The receiver of a sniff turns off (R194); in SLUMBER with the RADIO domain (R334). -/
def sniffOff (s : State) : State :=
  if s.pwr.state = .slumber then domDown (updClk s (fun c => xtalRest (rfOff c))) .radio true
  else rfFollow (updClk s (fun c => { c with rfPower := false }))

/-- The cycles of four octet times (R194). -/
def fourOctets (t : Trx) : Nat := ceilDiv (32 * 153600000) (bitRate t)

/-- Whether a sniff instant has come that no sniff has taken (R194, R334). -/
def sniffDue (s : State) : Bool := match sniffSlot s with | some k => s.trx.sniffAt != some k | none => false

/-- CLK_YARD cycles until the next sniff instant (R194). -/
def sniffIn (s : State) : Int := sniffZone s.trx (max 0 (sniffIdx s.trx (zoneNow s).toNat + 1)) - (zoneNow s).toNat

/-- SNIFF: at a sniff instant the receiver listens. `preamble` is a preamble heard, with the cycles until it ends: reception then goes
on until a sync word, or until four octet times after that end (R194, R199). -/
def execSniff (preamble : Option Nat) (s : State) : Host.Outcome State Fault Refusal :=
  .next (if !sniffDue s then s
    else
      let s := updTrx s (fun t => { t with sniffAt := sniffSlot s })
      if !radioOn s || !trxEn s || !bit s.trx.ctrl 29 || bit s.trx.ctrl 30 || s.trx.rxOn || s.trx.ackDue.isSome
          || (match s.trx.tx with | some x => x.stage = .onAir || x.stage = .awaitAck | none => false) then
        rfFollow (updClk s (fun c => { c with rfPower := false }))
      else match preamble with
        | some n => trxEvt 2 (updTrx s (fun t => { sniffLost t with
            sniffing := true, sniffEnd := n + fourOctets t, cntDet := satInc t.cntDet 65535 }))
        | none => sniffOff (updTrx s sniffLost))

/-- A cycle of a sniff's reception: at its end without a sync word the preamble counts under FALSE and the receiver turns off (R194). -/
def tickSniff (s : State) : State :=
  if !s.trx.sniffing then s
  else if s.trx.sniffEnd = 0 then sniffOff (updTrx s sniffLost)
  else updTrx s (fun t => { t with sniffEnd := t.sniffEnd - 1 })

/-- SNIFF_RFPLL_START: the RFPLL is powered from 100 µs before a sniff instant (R194, R300). -/
def execSniffRfpllStart (s : State) : Host.Outcome State Fault Refusal :=
  .next (if radioOn s && trxEn s && bit s.trx.ctrl 29 && !bit s.trx.ctrl 30 && s.pwr.state != .slumber && trxState s = 0
      && sniffIn s ≤ usCyc 100 then
      let hz := carrierOf s.trx (fld s.trx.chan 15 0)
      if carrierOk hz then updClk s (fun c => tune hz { c with rfPower := true }) else trxEvt 4 s
    else s)

/-- The cycles after a received frame at which its acknowledgement leaves: 1 000 µs for SUNFSK, ACK_DLY for NATIVE (R187). -/
def ackAfter (t : Trx) (k : AckRun) : Nat := usCyc (if k.sun then 1000 else ackDly t)

/-- ACK_SEND: the acknowledgement that is due leaves at its time, or is suppressed (R187, R210, R214, R215). Without a locked RFPLL
it is not sent (R172). -/
def execAckSend (s : State) : Host.Outcome State Fault Refusal :=
  .next (match s.trx.ackDue with
    | none => s
    | some k =>
      if !radioOn s || sinceT s.trx k.since < ackAfter s.trx k then s
      else
        let us := airUs s.trx (frameOctets s.trx k.sun 0 k.psdu.length)
        let s := updTrx s (fun t => { t with ackDue := none, rxOn := false })
        if s.clk.rf.st != .locked then radioEnd s
        else match rgyAdmit true (carrierOf s.trx (fld s.trx.chan 15 0)) us s with
        | (.error _, s1) => radioEnd s1
        | (.ok r, s1) =>
          let long := if k.sun then k.psdu.length = 7 else k.psdu.length = 12
          let s2 := updTrx (charge r us (clampPower r.sub s1))
            (fun t => sendAir (sendPower r.sub s1) (airOf t k.sun long k.white (preOf t) k.psdu) t)
          radioEnd (match k.desc with | some a => post (.setBit .trxDma (a + 8) 29 true) s2 | none => s2))

/-! ## Registers (R203, R204) -/

/-- TRX_CTRL. Without EN and SNIFF_EN, or with RXON, no sniff follows that the RFPLL would be powered for (R300). -/
def effTrxCtrl (d : W32) (s : State) : State :=
  rfFollow (updClk (updTrx s (fun t => { t with ctrl := d &&& 0xFF000000 }))
    (fun c => { c with rfPower := c.rfPower && bit d 31 && bit d 29 && !bit d 30 }))

/-- Whether a TRX_MOD value is supported (R170). -/
def modOk (d : W32) : Bool :=
  fld d 31 30 != 3 && 96 ≤ fld d 14 0 && fld d 14 0 ≤ (if fld d 31 30 = 1 then 10000 else 20000)

/-- Whether a TRX_PWR value is in range (R171). -/
def pwrOk (d : W32) : Bool := -40 ≤ (d.setWidth 8).toInt && (d.setWidth 8).toInt ≤ 32

/-- All radio counts cleared. -/
def effTrxCntClr (d : W32) (s : State) : State :=
  if bit d 0 then updTrx s (fun t => { t with
    cntCrc := 0, cntOk := 0, cntFilt := 0, cntOvf := 0, cntReplay := 0, cntAuth := 0, cntFail := 0, cntTxOk := 0
    cntFalse := 0, cntDet := 0 })
  else s

/-- A partner entry's register written (R204). -/
def ptWrite (i : Fin 64) (off : Nat) (d : W32) (s : State) : State :=
  updTrx s (fun t => { t with pt := upd t.pt i (fun e =>
    if off = 0 then ptWriteId d e else if off = 0x1C then { e with fcnt := d } else e) })

/-- The partner entry, matcher slot or armed slot at an offset. -/
def ptAt (off : Nat) : Option (Fin 64) := if 0x800 ≤ off then windowIdx 64 0x20 (off - 0x800) else none
/-- The matcher slot at an offset. -/
def matcherAt (off : Nat) : Option (Fin 8) := if 0x400 ≤ off then windowIdx 8 0x10 (off - 0x400) else none
/-- The armed slot at an offset. -/
def armAt (off : Nat) : Option (Fin 4) := if 0x090 ≤ off then windowIdx 4 8 (off - 0x090) else none

/-- The registers below 0x090 and above 0x0AF; none is SLVERR. -/
def trxWriteMain (off : Nat) (d : W32) (s : State) : Option State :=
  let set (f : Trx → Trx) : Option State := some (updTrx s f)
  match off with
  | 0x000 => some (effTrxCtrl d s)
  | 0x008 => set (fun t => { t with evt := t.evt &&& ~~~ d })
  | 0x00C => set (fun t => { t with evtEn := d &&& 0x7F })
  | 0x010 => some (rfFollow (updTrx s (fun t => { t with f0 := d })))
  | 0x014 => some (rfFollow (updTrx s (fun t => { t with chsp := d &&& 0x00FFFFFF })))
  | 0x018 => some (radioEnd (updTrx s (fun t => { t with chanPend := some (d &&& 0xFFFF) })))
  | 0x020 => if modOk d then set (fun t => { t with mod := d &&& 0xE0007FFF }) else none
  | 0x024 => set (fun t => { t with dev := d &&& 0x000FFFFF })
  | 0x028 => if pwrOk d then set (fun t => { t with pwr := d &&& 0xFF }) else none
  | 0x02C => set (fun t => { t with pa := d &&& 0xC00000FF })
  | 0x030 => set (fun t => { t with sync := d })
  | 0x034 => set (fun t => { t with pre := d &&& 0x0FFF013F })
  | 0x040 => set (fun t => { t with lbt := d &&& 0xDFFFFFF8 })
  | 0x044 => set (fun t => { t with bo := d &&& 0x3FF })
  | 0x050 => set (fun t => { t with ack := d &&& 0x03FFFFFF })
  | 0x054 => set (fun t => { t with addr := d })
  | 0x058 => set (fun t => { t with panid := d &&& 0xFFFF })
  | 0x05C => set (fun t => { t with extLo := d })
  | 0x060 => set (fun t => { t with extHi := d })
  | 0x070 => if s.trx.txqProd % 64 = s.trx.txqCons % 64 then set (fun t => { t with txqBase := d &&& 0xFFFFFFE0 }) else none
  | 0x074 => set (fun t => { t with txqProd := fld d 5 0 })
  | 0x07C => some (if bit d 0 then effTrxFlush s else s)
  | 0x080 => if fld s.trx.ctrl 31 29 = 0 then set (fun t => { t with rxrBase := d &&& 0xFFFFFFE0 }) else some s
  | 0x0B0 => if d.toNat < s.trx.fcnt.toNat then none else set (fun t => { t with fcnt := d })
  | 0x0D0 => set (fun t => { t with ptCfg := d &&& 0xFFFF075F })
  | 0x0D4 => set (fun t => { t with gmin := d &&& 0x3FF })
  | 0x0D8 => set (fun t => { t with sniffCfg := d &&& 0x3FFF3FFF })
  | 0x11C => some (effTrxCntClr d s)
  | _ => some s

/-- A TRX register written; none is SLVERR. -/
def trxWrite (off : Nat) (d : W32) (s : State) : Option State :=
  match ptAt off with
  | some i => some (ptWrite i (off % 0x20) d s)
  | none => match matcherAt off with
    | some k => some (updTrx s (fun t => { t with matcher := upd t.matcher k (fun c =>
        if off % 0x10 = 0 then { c with ctrl := d &&& 0xC01FFF00 } else if off % 0x10 = 4 then { c with group := d } else c) }))
    | none => match armAt off with
      | some k =>
        if off % 8 = 0 then some (updTrx s (fun t => { t with arm := upd t.arm k (fun a => { a with desc := d }) }))
        else some (effArmCtrl k d s)
      | none => trxWriteMain off d s

/-- A partner entry's register read (R204). -/
def ptRead (e : Partner) (off : Nat) : W32 :=
  match off with
  | 0x00 => putB e.valid 31 ||| putB e.parent 30 ||| put e.upd 16 ||| put e.addr.toNat 0
  | 0x04 => e.ofs.setWidth 32
  | 0x08 => put (e.ofs.toNat / 2 ^ 32) 0
  | 0x0C => e.ref.setWidth 32
  | 0x10 => put e.sper 16 ||| put (e.ref.toNat / 2 ^ 32) 0
  | 0x14 => put e.drift.toNat 16 ||| put e.dunc 0
  | 0x18 => e.sph
  | 0x1C => e.fcnt
  | _ => 0

/-- The registers below 0x090 and above 0x0AF. -/
def trxReadMain (off : Nat) (s : State) : W32 :=
  let t := s.trx
  match off with
  | 0x000 => t.ctrl
  | 0x004 => putB (s.clk.rf.st = .locked) 31 ||| putB (s.clk.rf.st = .coast) 30 ||| put (trxState s) 16
  | 0x008 => t.evt | 0x00C => t.evtEn | 0x010 => t.f0 | 0x014 => t.chsp | 0x018 => t.chanPend.getD t.chan
  | 0x020 => t.mod | 0x024 => t.dev | 0x028 => t.pwr | 0x02C => t.pa | 0x030 => t.sync | 0x034 => t.pre
  | 0x040 => t.lbt | 0x044 => t.bo | 0x050 => t.ack | 0x054 => t.addr | 0x058 => t.panid | 0x05C => t.extLo | 0x060 => t.extHi
  | 0x070 => t.txqBase | 0x074 => put t.txqProd 0 | 0x078 => put t.txqCons 0 | 0x080 => t.rxrBase | 0x084 => put t.rxrNext 0
  | 0x0B0 => t.fcnt
  | 0x0C4 => put t.timeHi.toNat 0 | 0x0CC => put t.ztimeHi.toNat 0
  | 0x0D0 => t.ptCfg | 0x0D4 => put (sunc s) 16 ||| t.gmin | 0x0D8 => t.sniffCfg | 0x0E0 => put t.rssi.toNat 0
  | 0x100 => put t.cntCrc 16 ||| put t.cntOk 0
  | 0x104 => put t.cntFilt 16 ||| put t.cntOvf 0
  | 0x108 => put t.cntReplay 16 ||| put t.cntAuth 0
  | 0x10C => put t.cntFail 16 ||| put t.cntTxOk 0
  | 0x110 => put t.cntFalse 16 ||| put t.cntDet 0
  | _ => 0

/-- A TRX register read; reading a time's lower word latches its upper bits (R203). -/
def trxRead (off : Nat) (s : State) : W32 × State :=
  match off with
  | 0x0C0 => (BitVec.ofNat 32 s.trx.time, updTrx s (fun t => { t with timeHi := BitVec.ofNat 16 (t.time / 2 ^ 32) }))
  | 0x0C8 => ((zoneNow s).setWidth 32, updTrx s (fun t => { t with ztimeHi := (zoneNow s).extractLsb' 32 16 }))
  | _ =>
    (match ptAt off with
    | some i => ptRead s.trx.pt[i] (off % 0x20)
    | none => match matcherAt off with
      | some k =>
        let c := s.trx.matcher[k]
        if off % 0x10 = 0 then c.ctrl else if off % 0x10 = 4 then c.group
        else if off % 0x10 = 8 then put c.fails 16 ||| put c.hits 0 else 0
      | none => match armAt off with
        | some k =>
          let a := s.trx.arm[k]
          if off % 8 = 0 then a.desc else putB a.armed 31 ||| putB a.inflight 30 ||| put a.last 0
        | none => trxReadMain off s, s)

/-- A write of a TRX register. -/
def trxBus (m : Mid) (off : Nat) (d : W32) (s : State) : State :=
  busWrite m .trx (0x40200000 + off) d (trxWrite off d) s

/-! ## Commands that are register accesses -/

/-- TXQ_PROD: descriptors are handed to the hardware (R181). -/
def execTxqProd (m : Mid) (data : W32) (s : State) : Host.Outcome State Fault Refusal := .next (trxBus m 0x074 data s)

/-- LAUNCH: a write of an armed slot's CTRL with LAUNCH (R181). -/
def execLaunch (m : Mid) (k : Fin 4) (data : W32) (s : State) : Host.Outcome State Fault Refusal :=
  .next (trxBus m (0x094 + 8 * k.val) (data ||| 0x20000000) s)

/-- TRX_FLUSH (R199). -/
def execTrxFlush (m : Mid) (s : State) : Host.Outcome State Fault Refusal := .next (trxBus m 0x07C 1 s)

/-- PARTNER_ENTRY_WRITE: a write of PT_i_ID (R204). -/
def execPartnerEntryWrite (m : Mid) (i : Fin 64) (data : W32) (s : State) : Host.Outcome State Fault Refusal :=
  .next (trxBus m (0x800 + 0x20 * i.val) data s)

/-- TRX_CNT_CLR (R203). -/
def execTrxCntClr (m : Mid) (s : State) : Host.Outcome State Fault Refusal := .next (trxBus m 0x11C 1 s)

/-- TRX_TIME_LO: a read that latches the upper bits (R203). -/
def execTrxTimeLo (m : Mid) (s : State) : Host.Outcome State Fault Refusal :=
  .next (busRead m .trx 0x402000C0 (trxRead 0x0C0) s)

/-- TRX_ZTIME_LO: a read that latches the upper bits (R203). -/
def execTrxZtimeLo (m : Mid) (s : State) : Host.Outcome State Fault Refusal :=
  .next (busRead m .trx 0x402000C8 (trxRead 0x0C8) s)

end Sys2Proof.Machine
end

