-- ==== Sys2Proof/Machine/Zlk.lean ====
section
/-!
DEFINITION. Zlk: the Troax link: cycle, forming, joining and leading, wired zone time, remote values, scenes and data frames
(R252 to R269, R278 to R283). Bursts are given with all their octets, PRE and SYNC included, as R253 lays them out.
-/

namespace Sys2Proof.Machine

open Sys2Proof

/-- The Troax link updated. -/
def updZlk (s : State) (f : Zlk → Zlk) : State := { s with zlk := f s.zlk }

/-- A bit of ZLK_EVT set. -/
def zlkEvt (i : Nat) (s : State) : State := updZlk s (fun z => { z with evt := withBit z.evt i true })

/-- Whether the ZLK works: usable, and not OFF. -/
def zlkOn (s : State) : Bool := !unusable s 57 && domReady s .yard && s.zlk.state != .off

/-- The device's own address. -/
def zlkAddr (z : Zlk) : Fin 32 := ⟨fld z.ctrl 20 16, by unfold fld; omega⟩

/-- PUB_EN. -/
def zlkPubEn (z : Zlk) : Bool := bit z.ctrl 29

/-- STALE_N; 0 acts as 1 (R283). -/
def staleN (z : Zlk) : Nat := max 1 (fld z.ctrl 11 8)

/-- A burst of a known length with PRE and SYNC whose check octets `k` are right for what follows SYNC (R253, R254). -/
def burstOk (l : List Byte) (n : Nat) : Bool :=
  l.length = n && oct l 0 = 0x55 && oct l 1 = 0xE2
    && leBytes 2 (crc16 ((l.drop 2).take (n - 4))) = l.drop (n - 2)

/-- A burst that fails its check is ignored and counted in CRC_ERR (R254). -/
def zlkBad (s : State) : State := zlkEvt 6 (updZlk s (fun z => { z with cntCrc := satInc z.cntCrc 65535 }))

/-- The lowest address of a map. -/
def lowestOf (m : W32) : Option (Fin 32) := (idx 32).find? (fun a => bit m a.val)

/-- The next address of a map after `a`, cyclically. -/
def nextOf (m : W32) (a : Fin 32) : Option (Fin 32) :=
  ((idx 32).map (fun i => (⟨(a.val + 1 + i.val) % 32, by omega⟩ : Fin 32))).find? (fun b => bit m b.val)

/-- The addresses of a map. -/
def countOf (m : W32) : Nat := ((idx 32).filter (fun a => bit m a.val)).length

/-! ## Remote values (R265) -/

/-- Every RV_k whose conditions make it stale is marked stale; it stays so until the next valid VALUE (R265). `quiet` counts the cycle
starts since a VALUE, of which the first ends the cycle that brought it. -/
def rvLatch (s : State) : State :=
  let joined := zlkJoined s
  updZlk s (fun z => { z with rv := (idx 16).foldl (fun v k => upd v k (fun r =>
    { r with stale := r.stale || !r.en || !joined || !bit z.vmap r.src.val || staleN z < r.quiet })) z.rv })

/-- A valid VALUE of an address: the remote values that select it take it and become fresh (R265). -/
def rvTake (a : Fin 32) (v : BitVec 24) (s : State) : State :=
  let s := updZlk s (fun z => { z with rv := (idx 16).foldl (fun w k => upd w k (fun r =>
    if r.en && r.src = a then { r with val := v, stale := false, quiet := 0 } else r)) z.rv })
  (idx 16).foldl (fun s k => if (s.zlk.rv[k]).en && (s.zlk.rv[k]).src = a then published (0x30 + k.val) s else s) (rvLatch s)

/-- A cycle passes without a valid VALUE for every remote value, until one comes (R265). -/
def rvAge (s : State) : State :=
  rvLatch (updZlk s (fun z => { z with rv := (idx 16).foldl (fun v k => upd v k (fun r => { r with quiet := satInc r.quiet 16 })) z.rv }))

/-! ## TX descriptors (R269) -/

/-- The address of the head descriptor. -/
def zlkHead (z : Zlk) : Nat := z.txqBase.toNat + 16 * (z.txqCons % 8)

/-- The queued descriptors. -/
def zlkQueued (z : Zlk) : Nat := (z.txqProd % 16 + 16 - z.txqCons % 16) % 16

/-- The head descriptor completes: words 2 and 3 written, OWN cleared, TX_DONE. Without a SYNC instant word 3 takes a free value (log 6).
The stores are posted: nothing here waits for them (log 20). -/
def zlkComplete (code : Nat) (sync : Option W32) (s : State) : State :=
  let a := zlkHead s.zlk
  let w3 := match sync with | some v => leBytes 4 v.toNat | none => freeBytes s.free 4
  let s := if sync.isSome then s else { s with free := s.free + 4 }
  let s := post (.store .zlkDma (a + 8) (leBytes 4 (code * 2 ^ 28 + s.zlk.txWait) ++ w3)) s
  let s := post (.setBit .zlkDma (a + 4) 31 false) s
  zlkEvt 1 (updZlk s (fun z => { z with txqCons := (z.txqCons + 1) % 16, txWait := 0 }))

/-- Every queued descriptor completes with a code. -/
def zlkCompleteAll (code : Nat) (s : State) : State :=
  (List.range (zlkQueued s.zlk)).foldl (fun s _ => zlkComplete code none s) s

/-- An engine's access that its instant cannot wait for: it is made now, or where it must wait `f` gives none, and the access itself
completes when it can (log 20). -/
def attemptNow {α : Type} (m : Mid) (f : State → α × State) (s : State) : Option α × State :=
  match f (updEng s (fun e => { e with got := [], stuck := none })) with
  | (v, t) => match t.yard.eng.stuck with
    | none => (some v, updEng t (fun _ => s.yard.eng))
    | some x => (none, joinWait { x with cont := some { task := .store m 0 [], got := [] } } s)

/-- Whether the head descriptor is owned by hardware: DREQ (R256). A descriptor whose read is refused completes with YARD, and the next
one is looked at (R281); one whose read must wait gives no DREQ. -/
def zlkDreqN : Nat → State → Bool × State
  | 0, s => (false, s)
  | n + 1, s =>
    match attemptNow .zlkDma (dmaRead .zlkDma (zlkHead s.zlk + 4) 4) s with
    | (some (.okay, l), s1) => (bit (wordOf l 0) 31, s1)
    | (some _, s1) => zlkDreqN n (zlkComplete 3 none s1)
    | (none, s1) => (false, s1)

/-- DREQ of the TX queue as it stands. -/
def zlkDreq (s : State) : Bool × State := zlkDreqN (zlkQueued s.zlk) s

/-! ## States (R258, R259) -/

/-- The device is no longer joined, or starts afresh, in a state: queued descriptors complete NOTJOINED if it was joined (R269). -/
def zlkLeave (st : ZlkState) (s : State) : State :=
  let s := if s.zlk.state = .follower || s.zlk.state = .leader then zlkCompleteAll 2 s else s
  rvLatch (updZlk s (fun z => { z with
    state := st, pmap := 0, vmap := 0, nextP := 0, nextV := 0, heard := 0, missed := 0, joinSent := false, joinOut := false, joinWait := 0
    grant := none, ownColl := 0, rolled := false, pubRef := false }))

/-- A duplicate address: DUP is set and joining is barred, in LISTEN (R258, R280). -/
def zlkDup (s : State) : State := zlkEvt 4 (updZlk (zlkLeave .listen s) (fun z => { z with dup := true, barred := true }))

/-- ZLK_CTRL written: EN enters LISTEN or goes OFF; ADDR, PUB_EN and FORM change only while EN = 0 (R258, R283). -/
def effZlkCtrl (d : W32) (s : State) : Option State :=
  let c := s.zlk.ctrl
  let v := d &&& 0xF01F0F70
  if bit c 31 && (v ^^^ c) &&& 0x301F0000 != 0 then none
  else
    let t := updZlk s (fun z => { z with ctrl := v })
    if bit v 31 && !bit c 31 then some (updZlk (zlkLeave .listen t) (fun z => { z with dup := false, barred := false, sent := [] }))
    else if !bit v 31 && bit c 31 then some (zlkLeave .off t)
    else some (rvLatch t)

/-- ZLK_ENABLE and ZLK_DISABLE: writes of ZLK_CTRL (R258). -/
def execZlkEnable (m : Mid) (data : W32) (s : State) : Host.Outcome State Fault Refusal :=
  .next (busWrite m .zlk 0x40400000 (data ||| 0x80000000) (effZlkCtrl (data ||| 0x80000000)) s)

/-- ZLK_DISABLE (R258). -/
def execZlkDisable (m : Mid) (data : W32) (s : State) : Host.Outcome State Fault Refusal :=
  .next (busWrite m .zlk 0x40400000 (data &&& 0x7FFFFFFF) (effZlkCtrl (data &&& 0x7FFFFFFF)) s)

/-- Whether VMAP bit `a` may be set: fewer than 16 others are (R257, R278). -/
def roomV (m : W32) (a : Nat) : Bool := countOf (withBit m a false) < 16

/-- The device's own bits in the maps that a leader sends (R257), within the limit of R278 (log 77). -/
def withOwn (z : Zlk) (own : Fin 32) : Zlk :=
  { z with
    nextP := withBit z.nextP own.val true
    nextV := withBit z.nextV own.val (zlkPubEn z && roomV z.nextV own.val) }

/-- FORM: the device forms a zone (R258). It aborts an entry to SLUMBER (R325). -/
def execForm (s : State) : Host.Outcome State Fault Refusal :=
  .next (if zlkOn s && s.zlk.state = .listen && bit s.zlk.ctrl 28 && !s.zlk.barred then
    let s := fence s
    let own := zlkAddr s.zlk
    let zt := (zoneOf s (BitVec.ofNat 48 s.trx.time)).toNat * 2 ^ 16
    let s := updZlk s (fun z => withOwn { z with
      state := .leader, zt := zt, ztRem := 0, cycle := 0, leader := own, sent := [], dreq := 0, gotRoll := 0
      echoed := own, granted := own, silent := .replicate 32 0, nextP := 0, nextV := 0 } own)
    rvLatch (zlkEvt 2 (updZlk s (fun z => { z with pmap := z.nextP, vmap := z.nextV })))
  else s)

/-! ## The cycle (R255 to R259) -/

/-- Half microseconds from the cycle start to the data window (R255). -/
def winStart (z : Zlk) : Nat := 54 + 9 * countOf z.pmap + 6 * countOf (z.pmap &&& z.vmap)

/-- ZLK_WIN (R268). -/
def zlkWin (z : Zlk) : Nat := min 200 ((489 - winStart z) / 2 - 7)

/-- Eighths of a CLK_YARD cycle from a burst's first octet to the end of SYNC when PRE goes before it (R252, R253). -/
def syncDelay8 : Nat := 2458

/-- The octets of the leader's beacon (R253, R261). -/
def beaconOctets (z : Zlk) (echo : Option (Fin 32)) (grant : Option (Fin 32)) : List Byte :=
  let t8 := z.zt / 2 ^ 13 + syncDelay8
  let body := [BitVec.ofNat 8 (0x20 + (zlkAddr z).val)] ++ leBytes 2 z.cycle.toNat ++ leBytes 6 (t8 / 8) ++ leBytes 1 (t8 % 8)
    ++ leBytes 4 z.pmap.toNat ++ leBytes 4 z.vmap.toNat
    ++ (match echo with
        | some a => leBytes 1 a.val ++ leBytes 2 (BitVec.ofInt 16 z.late[a]).toNat
        | none => [0xFF, 0, 0])
    ++ (match grant with | some a => leBytes 1 a.val | none => [0xFF])
  [0x55, 0xE2] ++ body ++ leBytes 2 (crc16 body)

/-- A burst goes out from now on (R252). -/
def sendBurst (l : List Byte) (s : State) : State := updZlk s (fun z => { z with sent := l, burstAt := 10 * s.time })

/-- A mismatch of ZLK_RXD against a burst sent sets COLL (R280). -/
def zlkColl (mismatch : Bool) (s : State) : State :=
  if mismatch then zlkEvt 7 (updZlk s (fun z => { z with cntColl := satInc z.cntColl 65535 })) else s

/-- The leader starts a cycle: it takes over the next maps, chooses echo and grant, and sends its beacon (R255, R257, R262, R268). -/
def leaderCycle (s : State) : State :=
  match zlkDreq s with
  | (own, s1) =>
    let z := s1.zlk
    let me := zlkAddr z
    let first := z.sent.isEmpty
    let changed := z.nextP != z.pmap || z.nextV != z.vmap
    let want := withBit (z.dreq &&& z.nextP) me.val own
    let echo := nextOf (withBit (z.gotRoll &&& z.nextP) me.val false) z.echoed
    let grant := nextOf want z.granted
    let s2 := updZlk s1 (fun z =>
      { z with
        state := .leader, leader := me, cycle := if first then z.cycle else z.cycle + 1
        pmap := z.nextP, vmap := z.nextV, gotRoll := 0, dreq := 0
        echoed := echo.getD z.echoed, granted := grant.getD z.granted, grant := grant, missed := 0 })
    let s2 := sendBurst (beaconOctets s2.zlk echo grant) s2
    rvLatch (if changed then zlkEvt 3 s2 else s2)

/-- A cycle ends: the addresses whose slot brought no valid roll burst have been silent for one more (R257), and own mismatches are
consecutive only while roll bursts are sent (R280). -/
def cycleEnds (z : Zlk) : Zlk :=
  { z with
    silent := Vector.ofFn (fun a => if bit z.pmap a.val && !bit z.gotRoll a.val then z.silent[a] + 1 else 0)
    ownColl := if z.rolled then z.ownColl else 0
    rolled := false }

/-- CYCLE_START: a cycle starts. The lowest address of the last beacon's PMAP leads it, and its beacon may mismatch; every other device
awaits that beacon (R255, R259, R280). -/
def execCycleStart (s : State) (mismatch : Bool := false) : Host.Outcome State Fault Refusal :=
  .next (if !zlkOn s then s
    else
      let s := rvAge (updZlk s cycleEnds)
      if zlkJoined s then
        let me := zlkAddr s.zlk
        if lowestOf s.zlk.pmap = some me then
          zlkColl mismatch (leaderCycle (updZlk s (fun z => withOwn z me)))
        else updZlk s (fun z => { z with
          state := .follower, missed := z.missed + 1, grant := none, gotRoll := 0, dreq := 0 })
      else s)

/-! ## Beacons (R257 to R262) -/

/-- The fields of a beacon. -/
structure Beacon where
  src   : Fin 32
  cycle : BitVec 16
  t8    : Nat
  pmap  : W32
  vmap  : W32
  eaddr : Nat
  eofs  : Int
  grant : Nat
  deriving DecidableEq, Repr

/-- A beacon taken apart (R253). -/
def parseBeacon (l : List Byte) : Beacon :=
  { src := ⟨(oct l 2).toNat % 32, by omega⟩, cycle := BitVec.ofNat 16 (octs l 3 2), t8 := octs l 5 6 * 8 + octs l 11 1 % 8
    pmap := BitVec.ofNat 32 (octs l 12 4), vmap := BitVec.ofNat 32 (octs l 16 4), eaddr := octs l 20 1
    eofs := (BitVec.ofNat 16 (octs l 21 2)).toInt, grant := octs l 23 1 }

/-- A difference of two 48-bit times in eighths, signed. -/
def diff8 (a b : Int) : Int := (BitVec.ofInt 51 (a - b)).toInt

/-- Zone time moved by `e` eighths of a cycle. -/
def moveZt (e : Int) (z : Zlk) : Zlk := { z with zt := (((z.zt : Int) + e * 8192) % 2 ^ 64).toNat }

/-- RATE after an error `e` (R261); it stands still while the SYSPLL coasts (R298). -/
def newRate (z : Zlk) (e : Int) : BitVec 16 :=
  BitVec.ofInt 16 (satS 16 (z.rate.toInt + rhaDiv (e * 100000000) (307200 * 2 ^ fld z.ctrl 6 4)))

/-- A follower corrects its time and rate (R261), and learns D from an echo of its own roll burst (R262). -/
def followTime (b : Beacon) (rx8 : Nat) (s : State) : State :=
  let coast := s.clk.sys.st = .coast
  updZlk s (fun z =>
    let e := diff8 (b.t8 + z.dly.toInt) rx8
    let z := moveZt e { z with rate := if coast then z.rate else newRate z e }
    if b.eaddr = (zlkAddr z).val then
      { z with dly := BitVec.ofInt 16 (rhaDiv (b.eofs + z.dSent.toInt) 2), dlyValid := true }
    else z)

/-- The layout of a beacon taken over; LAYOUT is set when it changes (R255, R283). -/
def takeLayout (b : Beacon) (s : State) : State :=
  let changed := b.pmap != s.zlk.pmap || b.vmap != s.zlk.vmap
  let s := updZlk s (fun z => { z with
    cycle := b.cycle, leader := b.src, pmap := b.pmap, vmap := b.vmap, nextP := b.pmap, nextV := b.vmap, missed := 0
    grant := if h : b.grant < 32 then some ⟨b.grant, h⟩ else none })
  rvLatch (if changed then zlkEvt 3 s else s)

/-- The own bit of a beacon's PMAP. -/
def inMap (b : Beacon) (z : Zlk) : Bool := bit b.pmap (zlkAddr z).val

/-- BEACON: a beacon with the device's ZLK_ZT at its SYNC instant in eighths of a cycle (R257 to R262, R298). -/
def execBeacon (octets : List Byte) (rx8 : Nat) (s : State) : Host.Outcome State Fault Refusal :=
  .next (if !zlkOn s then s
    else if !(burstOk octets 26 && (oct octets 2).toNat / 32 = 1) then zlkBad s
    else
      let b := parseBeacon octets
      let s := updZlk s (fun z => { z with cntBeacon := satInc z.cntBeacon 65535 })
      match s.zlk.state with
      | .off => s
      | .leader => s
      | .listen =>
        if s.zlk.barred then s
        else if inMap b s.zlk then zlkDup s
        else if s.zlk.heard = 1 && b.cycle = s.zlk.cycle + 1 then
          takeLayout b (updZlk s (fun z => moveZt (diff8 b.t8 rx8)
            { z with state := .joining, heard := 2, joinSent := false, joinOut := false, joinWait := 0 }))
        else updZlk s (fun z => { z with heard := 1, cycle := b.cycle, leader := b.src })
      | .joining =>
        if inMap b s.zlk then
          if s.zlk.joinSent then
            let s := updZlk s (fun z => { z with state := .follower, pubRef := zlkPubEn z && !bit b.vmap (zlkAddr z).val })
            takeLayout b (followTime b rx8 (zlkEvt 2 s))
          else zlkDup s
        else takeLayout b (updZlk s (fun z => { z with joinOut := false }))
      | .follower =>
        if inMap b s.zlk then takeLayout b (followTime b rx8 s)
        else updZlk (zlkLeave .listen s) (fun z => { z with heard := 1, cycle := b.cycle, leader := b.src }))

/-- LEADER_LOST: a follower has missed three beacons (R259). -/
def execLeaderLost (s : State) : Host.Outcome State Fault Refusal :=
  .next (if zlkOn s && s.zlk.state = .follower && 3 ≤ s.zlk.missed then zlkEvt 5 (zlkLeave .listen s) else s)

/-! ## Roll bursts (R256, R257, R262, R265 to R267, R280) -/

/-- The ROLL word to send (R253). -/
def rollWord (z : Zlk) (dreq : Bool) : Nat :=
  (if dreq then 2 ^ 15 else 0) + (if z.pend then 2 ^ 14 + z.qScene % 8 * 2 ^ 11 + z.qGroup % 2 ^ 11 else 0)

/-- ROLL_LATCH: the device latches and sends its roll burst, which began with SYNC one octet time earlier (R256, R265, R280). -/
def execRollLatch (mismatch : Bool) (s : State) : Host.Outcome State Fault Refusal :=
  .next (
    let me := zlkAddr s.zlk
    if !zlkJoined s || !bit s.zlk.pmap me.val || (s.zlk.state = .follower && s.zlk.missed != 0) then s
    else match zlkDreq s with
    | (dreq, s1) =>
      let pub := bit s1.zlk.vmap me.val
      let v := BitVec.ofInt 24 (senseBus s1 (fld s1.zlk.pub 7 0))
      let body := leBytes 2 (rollWord s1.zlk dreq) ++ (if pub then leBytes 3 v.toNat else [])
      let s2 := updZlk s1 (fun z => { z with
        sent := [0xE2] ++ body ++ leBytes 1 (crc8 body), burstAt := 10 * s1.time - 1536, pend := false, dSent := z.dly
        rolled := true
        txWait := if dreq then satInc z.txWait 65535 else z.txWait })
      let s3 := if pub then rvTake me v s2 else s2
      if !mismatch then updZlk s3 (fun z => { z with ownColl := 0 })
      else
        let s4 := updZlk (zlkColl true s3) (fun z => { z with ownColl := z.ownColl + 1 })
        if 2 ≤ s4.zlk.ownColl then zlkDup s4 else s4)

/-- The filter slot that a scene meets: the lowest enabled one whose group and scene match (R267). -/
def zlkFilter (z : Zlk) (sc group : Nat) : Option (Fin 8) :=
  (idx 8).find? (fun k =>
    let m := fld (z.fltGroup[k]) 26 16
    bit (z.fltCtrl[k]) 31 && (group &&& m) = (fld (z.fltGroup[k]) 10 0 &&& m) && bit (z.fltCtrl[k]) (8 + sc))

/-- Whether a ROLL SYNC lies in its window, 0.5 µs before to 0.5 µs after its nominal instant (R255). -/
def inRollWindow (late8 : Int) : Bool := -614 ≤ late8 && late8 ≤ 614

/-- Whether a burst in the slot of an address is a valid roll burst. A device that is not joined takes its length from the burst, since
it has no layout (R253, R254, R258). -/
def rollOk (z : Zlk) (a : Fin 32) (l : List Byte) : Bool :=
  (if z.state = .listen then l.length = 4 || l.length = 7 else l.length = if bit z.vmap a.val then 7 else 4)
    && oct l 0 = 0xE2 && leBytes 1 (crc8 ((l.drop 1).take (l.length - 2))) = l.drop (l.length - 1)

/-- ROLL: a burst in the slot of an address, with its SYNC instant against the nominal one in eighths of a cycle (R254 to R258, R262,
R265, R267). Outside its window no SYNC is looked for. -/
def execRoll (a : Fin 32) (octets : List Byte) (late8 : Int) (s : State) : Host.Outcome State Fault Refusal :=
  .next (
    if !zlkOn s || !inRollWindow late8 then s
    else if !rollOk s.zlk a octets then zlkBad s
    else if a = zlkAddr s.zlk then
      (if (s.zlk.state = .listen || s.zlk.state = .joining) && !s.zlk.barred then zlkDup s else s)
    else
      let w := octs octets 1 2
      let s := if zlkJoined s && bit s.zlk.pmap a.val then updZlk s (fun z => { z with
          gotRoll := withBit z.gotRoll a.val true, dreq := withBit z.dreq a.val (w.testBit 15)
          silent := z.silent.set a.val 0, late := z.late.set a.val late8 })
        else s
      let s := if octets.length = 7 then rvTake a (BitVec.ofNat 24 (octs octets 3 3)) s else s
      if !w.testBit 14 then s
      else match zlkFilter s.zlk (w / 2 ^ 11 % 8) (w % 2 ^ 11) with
        | some k => fire (0x10 + k.val) s
        | none => s)

/-- MEMBER_DROP: the leader clears an address that four consecutive cycles brought no roll burst of from the next maps (R257). -/
def execMemberDrop (a : Fin 32) (s : State) : Host.Outcome State Fault Refusal :=
  .next (if zlkOn s && s.zlk.state = .leader && a != zlkAddr s.zlk && 4 ≤ s.zlk.silent[a] then
      updZlk s (fun z => { z with
        nextP := withBit z.nextP a.val false, nextV := withBit z.nextV a.val false, silent := z.silent.set a.val 0 })
    else s)

/-- RV_STALE: RV_k is stale once STALE_N cycles have passed without a valid VALUE (R265). -/
def execRvStale (k : Fin 16) (s : State) : Host.Outcome State Fault Refusal :=
  .next (updZlk s (fun z => { z with rv := upd z.rv k (fun r => { r with stale := r.stale || staleN z < r.quiet }) }))

/-! ## Joining (R253, R257, R258) -/

/-- JOIN_SLOT: a JOINING device whose wait has ended sends a JOIN, which may mismatch; `draw` is the wait in cycles should it not be
admitted (R258, R280). -/
def execJoinSlot (draw : Fin 8) (s : State) (mismatch : Bool := false) : Host.Outcome State Fault Refusal :=
  .next (if !zlkOn s || s.zlk.state != .joining || s.zlk.joinOut then s
    else if s.zlk.joinWait != 0 then updZlk s (fun z => { z with joinWait := z.joinWait - 1 })
    else
      let hdr := [BitVec.ofNat 8 ((if zlkPubEn s.zlk then 0x60 else 0x40) + (zlkAddr s.zlk).val)]
      zlkColl mismatch (sendBurst ([0x55, 0xE2] ++ hdr ++ leBytes 1 (crc8 hdr)) (updZlk s (fun z => { z with
        joinSent := true, joinOut := true, joinWait := draw.val, cntJoin := satInc z.cntJoin 255 }))))

/-- JOIN: the leader admits a device with the next beacon (R257); a burst that fails its check is counted (R254, R279). -/
def execJoin (octets : List Byte) (s : State) : Host.Outcome State Fault Refusal :=
  .next (
    let hdr := oct octets 2
    let a := hdr.toNat % 32
    let type := hdr.toNat / 32
    if !zlkOn s then s
    else if !(octets.length = 4 && oct octets 0 = 0x55 && oct octets 1 = 0xE2 && oct octets 3 = BitVec.ofNat 8 (crc8 [hdr])
        && (type = 2 || type = 3)) then zlkBad s
    else if s.zlk.state != .leader then s
    else updZlk s (fun z => { z with
      nextP := withBit z.nextP a true
      nextV := if type = 3 && roomV z.nextV a then withBit z.nextV a true else z.nextV
      silent := (idx 32).foldl (fun v i => if i.val = a then v.set i.val 0 else v) z.silent }))

/-! ## Data frames (R268, R269, R280, R281) -/

/-- ZLK_ZT bits 31:0 at the SYNC instant of a burst that starts now. -/
def syncNow (z : Zlk) : W32 := BitVec.ofNat 32 ((z.zt / 2 ^ 13 + syncDelay8) / 8)

/-- DATA_WINDOW: the granted device sends its head descriptor, or completes it (R268, R269, R280, R281). Where an access must wait the
window stays silent, and the descriptor stays queued (log 20). -/
def execDataWindow (mismatch : Bool) (s : State) : Host.Outcome State Fault Refusal :=
  .next (if !zlkJoined s || s.zlk.grant != some (zlkAddr s.zlk) || zlkQueued s.zlk = 0 then s
    else
      let s := updZlk s (fun z => { z with grant := none })
      match attemptNow .zlkDma (dmaRead .zlkDma (zlkHead s.zlk) 16) s with
      | (some (.okay, l), s1) =>
        let w1 := wordOf l 1
        let n := fld w1 7 0
        if !bit w1 31 then s1
        else if n = 0 ∨ 200 < n then zlkComplete 6 none s1
        else if zlkWin s1.zlk < n then zlkComplete 1 none s1
        else match attemptNow .zlkDma (dmaRead .zlkDma (wordOf l 0).toNat n) s1 with
          | (some (.okay, pay), s2) =>
            let body := [BitVec.ofNat 8 (0x80 + (zlkAddr s2.zlk).val)] ++ leBytes 1 (fld w1 15 8) ++ leBytes 1 n ++ pay
            let t := syncNow s2.zlk
            let s3 := sendBurst ([0x55, 0xE2] ++ body ++ leBytes 2 (crc16 body)) s2
            zlkComplete (if mismatch then 5 else 0) (some t) (zlkColl mismatch s3)
          | (some _, s2) => zlkComplete 3 none s2
          | (none, s2) => s2
      | (some _, s1) => zlkComplete 3 none s1
      | (none, s1) => s1)

/-- A DATA frame written to the RX ring (R269). A refused access closes the descriptor without delivery (R281). -/
def zlkDeliver (octets : List Byte) (sync : W32) (s : State) : State :=
  let a := s.zlk.rxrBase.toNat + 16 * (s.zlk.rxrNext % 8)
  let n := (oct octets 4).toNat
  let drop (s : State) : State := zlkEvt 8 (updZlk s (fun z => { z with cntDrop := satInc z.cntDrop 65535 }))
  match dmaRead .zlkDma a 8 s with
  | ((.okay, l), s1) =>
    if !bit (wordOf l 1) 31 then drop s1
    else
      let next (s : State) : State := updZlk s (fun z => { z with rxrNext := (z.rxrNext + 1) % 8 })
      match dmaWrite .zlkDma (wordOf l 0).toNat ((octets.drop 5).take n) s1 with
      | ((.okay, _), s2) =>
        let w1 := put ((oct octets 2).toNat % 32) 16 ||| put (oct octets 3).toNat 8 ||| put n 0
        match dmaWrite .zlkDma (a + 4) (leBytes 4 w1.toNat ++ leBytes 4 sync.toNat ++ [0, 0, 0, 0]) s2 with
        | ((.okay, _), s3) => zlkEvt 0 (next s3)
        | (_, s3) => next s3
      | (_, s2) => next (dmaWrite .zlkDma (a + 4) (leBytes 4 (withBit (wordOf l 1) 31 false).toNat) s2).2
  | (_, s1) => updZlk s1 (fun z => { z with rxrNext := (z.rxrNext + 1) % 8 })

/-- A DATA burst received, with ZLK_ZT bits 31:0 at its SYNC instant (R254, R269, R281). -/
def dataBurst (octets : List Byte) (sync : W32) (s : State) : State :=
  let n := (oct octets 4).toNat
  let dst := (oct octets 3).toNat
  if !zlkOn s then s
  else if !(burstOk octets (n + 7) && (oct octets 2).toNat / 32 = 4 && 1 ≤ n && n ≤ 200) then zlkBad s
  else if dst = (zlkAddr s.zlk).val || dst = 0xFF then zlkDeliver octets sync s
  else s

/-! ## Registers (R283) -/

/-- ZLK_SCN: SCENE and GROUP, and QUEUE while joined (R266). -/
def effZlkScn (d : W32) (s : State) : Option State :=
  if bit d 31 && !zlkJoined s then none
  else
    let s := updZlk s (fun z => { z with group := fld d 10 0, scene := fld d 26 24 })
    some (if bit d 31 then zlkQueue (fld d 26 24) s else s)

/-- FLUSH: queued descriptors complete FLUSHED, and a data window granted meanwhile stays silent (R279). -/
def effZlkFlush (s : State) : State := updZlk (zlkCompleteAll 4 s) (fun z => { z with grant := none })

/-- All Troax counts cleared. -/
def effZlkCntClr (d : W32) (s : State) : State :=
  if bit d 0 then updZlk s (fun z => { z with
    cntCrc := 0, cntBeacon := 0, cntColl := 0, cntRepl := 0, cntJoin := 0, cntDrop := 0 })
  else s

/-- ZLK_RV_k: a new SRC applies from the next burst and leaves the value stale until then (R265, R279). -/
def effRv (k : Fin 16) (d : W32) (s : State) : State :=
  rvLatch (updZlk s (fun z => { z with rv := upd z.rv k (fun r =>
    let src : Fin 32 := ⟨fld d 4 0, by unfold fld; omega⟩
    { r with en := bit d 31, src := src, stale := r.stale || src != r.src, quiet := if src = r.src then r.quiet else 0 }) }))

/-- Whether a sense bus code may be published: remote values and reserved codes may not (R283). -/
def pubOk (c : Nat) : Bool := !((0x30 ≤ c && c < 0x40) || codeReserved c)

/-- The remote value or filter slot at an offset. -/
def rvAt (off : Nat) : Option (Fin 16) := if 0x040 ≤ off then windowIdx 16 4 (off - 0x040) else none
/-- The filter slot at an offset. -/
def fltAt (off : Nat) : Option (Fin 8) := if 0x080 ≤ off then windowIdx 8 8 (off - 0x080) else none

/-- A ZLK register written; none is SLVERR. -/
def zlkWrite (off : Nat) (d : W32) (s : State) : Option State :=
  match rvAt off with
  | some k => some (effRv k d s)
  | none => match fltAt off with
    | some k => some (updZlk s (fun z =>
        if off % 8 = 0 then { z with fltCtrl := z.fltCtrl.set k.val (d &&& 0x8000FF00) }
        else { z with fltGroup := z.fltGroup.set k.val (d &&& 0x07FF07FF) }))
    | none => match off with
      | 0x000 => effZlkCtrl d s
      | 0x008 => some (updZlk s (fun z => { z with evt := z.evt &&& ~~~ d }))
      | 0x00C => some (updZlk s (fun z => { z with evtEn := d &&& 0x1FF }))
      | 0x018 =>
        let v := d &&& 0xFF
        if !pubOk (fld v 7 0) || (bit s.zlk.ctrl 31 && v != s.zlk.pub) then none else some (updZlk s (fun z => { z with pub := v }))
      | 0x01C => effZlkScn d s
      | 0x0C0 => some (updZlk s (fun z => { z with txqBase := d &&& 0xFFFFFFF0 }))
      | 0x0C4 => some (updZlk s (fun z => { z with txqProd := fld d 3 0 }))
      | 0x0CC => some (if bit d 0 then effZlkFlush s else s)
      | 0x0D0 => some (updZlk s (fun z => { z with rxrBase := d &&& 0xFFFFFFF0 }))
      | 0x0EC => some (effZlkCntClr d s)
      | _ => some s

/-- ZLK_STAT.STATE (R258). -/
def zlkStateNum : ZlkState → Nat
  | .off => 0 | .listen => 1 | .joining => 2 | .follower => 3 | .leader => 4

/-- A ZLK register read; reading ZLK_ZT_LO latches the upper bits (R283). -/
def zlkRead (off : Nat) (s : State) : W32 × State :=
  let z := s.zlk
  match off with
  | 0x028 => (BitVec.ofNat 32 (z.zt / 2 ^ 16), updZlk s (fun z => { z with ztHi := BitVec.ofNat 16 (z.zt / 2 ^ 48) }))
  | _ =>
    (match rvAt off with
    | some k => putB (z.rv[k]).en 31 ||| putB (z.rv[k]).stale 30 ||| put (z.rv[k]).src.val 0
    | none => match fltAt off with
      | some k => if off % 8 = 0 then z.fltCtrl[k] else z.fltGroup[k]
      | none => match off with
        | 0x000 => z.ctrl
        | 0x004 => putB (zlkJoined s) 31 ||| putB z.dup 29 ||| putB z.pubRef 28 ||| put (zlkStateNum z.state) 24
            ||| put z.leader.val 16 ||| put z.cycle.toNat 0
        | 0x008 => z.evt | 0x00C => z.evtEn | 0x010 => z.pmap | 0x014 => z.vmap | 0x018 => z.pub
        | 0x01C => putB z.pend 30 ||| put (z.scene % 8) 24 ||| put z.group 0
        | 0x020 => putB z.dlyValid 31 ||| put z.dly.toNat 0
        | 0x024 => put z.rate.toNat 0
        | 0x02C => put z.ztHi.toNat 0
        | 0x030 => if zlkJoined s then put (zlkWin z) 0 else 0
        | 0x0C0 => z.txqBase | 0x0C4 => put z.txqProd 0 | 0x0C8 => put z.txqCons 0
        | 0x0D0 => z.rxrBase | 0x0D4 => put z.rxrNext 0
        | 0x0E0 => put z.cntCrc 16 ||| put z.cntBeacon 0
        | 0x0E4 => put z.cntColl 16 ||| put z.cntRepl 8 ||| put z.cntJoin 0
        | 0x0E8 => put z.cntDrop 0
        | _ => 0, s)

/-- A write of a ZLK register. -/
def zlkBus (m : Mid) (off : Nat) (d : W32) (s : State) : State := busWrite m .zlk (0x40400000 + off) d (zlkWrite off d) s

/-- QUEUE: firmware queues a scene (R266). -/
def execQueue (m : Mid) (data : W32) (s : State) : Host.Outcome State Fault Refusal :=
  .next (zlkBus m 0x01C (data ||| 0x80000000) s)

/-- ZLK_TXQ_PROD: data descriptors are handed over (R269). -/
def execZlkTxqProd (m : Mid) (data : W32) (s : State) : Host.Outcome State Fault Refusal := .next (zlkBus m 0x0C4 data s)

/-- ZLK_FLUSH (R279). -/
def execZlkFlush (m : Mid) (s : State) : Host.Outcome State Fault Refusal := .next (zlkBus m 0x0CC 1 s)

/-- ZLK_CNT_CLR (R283). -/
def execZlkCntClr (m : Mid) (s : State) : Host.Outcome State Fault Refusal := .next (zlkBus m 0x0EC 1 s)

/-- ZLK_ZT_LO: a read that latches the upper bits (R283). -/
def execZlkZtLo (m : Mid) (s : State) : Host.Outcome State Fault Refusal :=
  .next (busRead m .zlk 0x40400028 (zlkRead 0x028) s)

end Sys2Proof.Machine
end

