-- ==== Sys2Proof/Machine/Power.lean ====
section
/-!
DEFINITION. Power: requests for power states, their refusal, entry and exit, wake events, and the domain masks (R317 to R341).
-/

namespace Sys2Proof.Machine

open Sys2Proof

/-! ## Domains going down with their work in progress (R317, R319) -/

/-- The radio's work in progress is lost: an attempt, whose octets sent are charged (R214), a reception, an acknowledgement, and the
frames being checked; a launched slot is no longer in flight. -/
def radioDrop (s : State) : State :=
  let s := match s.trx.tx with | some x => if x.stage = .onAir then cutOff x s else s | none => s
  updTrx (updClk s rfOff) (fun t => { sniffLost t with
    tx := none, rxOn := false, ackDue := none, matching := [], syncs := [], launched := []
    qTries := (match t.tx with | some x => if x.src = .queue then x.tries else t.qTries | none => t.qTries)
    arm := (idx 4).foldl (fun v k => upd v k (fun a => { a with inflight := false })) t.arm })

/-- The cipher engine's and the firmware verification's work in progress is lost; the radio's requests come back refused (log 76). -/
def cryptoDrop (s : State) : State :=
  let lost := (s.cry.jobs ++ unitJobs s.cry ++ s.cry.held).filter (fun j => j.user = .trx)
  { s with
    cry := { s.cry with
      jobs := [], done := [], held := []
      ret := s.cry.ret ++ lost.map (fun j => { seq := j.seq, st := 0x31, key := [] })
      unit := (idx 5).foldl (fun v u => upd v u (fun q => { q with run := none, susp := none })) s.cry.unit }
    pkv := { s.pkv with
      pend := false, owner := if s.pkv.owner = .firmware then .none else s.pkv.owner } }

/-- A domain leaves the powered state; `keep` is retention of an SRAM bank. A bank in retention that is not kept loses its contents
(R317, R319). -/
def retire (d : Domain) (keep : Bool) (s : State) : State :=
  if !domReady s d then
    match d with
    | .sram k => if !keep && bit s.pwr.domOn (domBit d) then { s with mem := s.mem.lose k } else s
    | _ => s
  else match d with
    | .radio => domDown (radioDrop s) d keep
    | .crypto => domDown (cryptoDrop s) d keep
    | _ => domDown s d keep

/-- Domains with a bit in PWR_DOM_ON (R319, R341). -/
def maskDomains : List Domain :=
  [.flash, .sense, .radio, .crypto] ++ (idx 8).map .sram ++ (idx 8).map .paddock

/-- The PWR_DOM_ON bit of a domain written. -/
def setDomOn (d : Domain) (b : Bool) (s : State) : State := updPwr s (fun p => { p with domOn := withBit p.domOn (domBit d) b })

/-- Whether a paddock is PARKED or VERIFIED with park mode OFF. -/
def parkedOff (s : State) (p : Fin 8) : Bool :=
  ((s.cfg.pdk[p]).state = .parked || (s.cfg.pdk[p]).state = .verified) && !(s.cfg.pdk[p]).hold

/-- Whether the PWR_DOM_ON bit of a domain may be cleared (R319). -/
def mayClear (s : State) : Domain → Bool
  | .paddock p => parkedOff s p
  | .sense => (idx 8).all (fun p => parkedOff s p || pdkUnusable s p) && (idx 32).all (fun n => !(s.stl[n]).retryPend)
  | _ => true

/-- With the RADIO domain powered the RFPLL follows the radio's settings again (R300). -/
def rfBack (d : Domain) (s : State) : State := if d = .radio then rfFollow s else s

/-- One domain follows its new PWR_DOM_ON bit. -/
def domFollow (v : W32) (s : State) (d : Domain) : State :=
  if domIsolated s d || bit v (domBit d) = bit s.pwr.domOn (domBit d) then s
  else if bit v (domBit d) then rfBack d (domUp (setDomOn d true s) d)
  else setDomOn d false (retire d false s)

/-- PWR_DOM_ON: domains are powered on, off or into retention; a write that clears a bit which may not be cleared is refused
as a whole (R319). -/
def effDomOn (v : W32) (s : State) : Option State :=
  if maskDomains.all (fun d => domIsolated s d || bit v (domBit d) || !bit s.pwr.domOn (domBit d) || mayClear s d) then
    some (maskDomains.foldl (domFollow v) s)
  else none

/-! ## Requests (R322, R331) -/

/-- Whether a source that wakes from SLUMBER is enabled. -/
def slumberWakes (p : Pwr) : Bool := p.wakeEn &&& 0x4E != 0

/-- The power state a TARGET code names (R341). -/
def pwrOfNum : Nat → Option PwrState
  | 0 => some .run | 1 => some .runFast | 2 => some .doze | 3 => some .nap | 4 => some .slumber
  | _ => none

/-- A request is armed. -/
def armReq (t : PwrState) (m : Mid) (d : W32) (s : State) : State :=
  updPwr s (fun p => { p with armed := some (t, m), req := d &&& 0x107, exitNap := bit d 8 })

/-- PWR_REQ (R322, R331): the table of what is allowed; anything else is SLVERR. -/
def effPwrReq (m : Mid) (d : W32) (s : State) : Option State :=
  let p := s.pwr
  if !(m = .hostS || m = .groom) || p.move != .none then none
  else match p.armed, pwrOfNum (fld d 2 0) with
    | some (_, a), some .run =>
      if a = m then some (updPwr s (fun p => { p with armed := none, req := d &&& 0x107 })) else none
    | some _, _ => none
    | none, some t =>
      (match p.state, m, t with
      | .run, .hostS, .runFast =>
        if 7040 ≤ s.sns.tempData.toInt then none
        else some (updPwr s (fun p => { p with move := .biasing, req := d &&& 0x107 }))
      | .runFast, .hostS, .run =>
        some (updClk (updPwr s (fun p => { p with state := .run, req := d &&& 0x107 })) (fun c => { c with fast := false }))
      | .run, .hostS, .doze | .runFast, .hostS, .doze => some (armReq t m d s)
      | .run, .hostS, .nap | .runFast, .hostS, .nap => some (armReq t m d s)
      | .run, .hostS, .slumber | .runFast, .hostS, .slumber | .nap, .groom, .slumber =>
        if slumberWakes p then some (armReq t m d s) else none
      | .nap, .groom, .run => some (startExit 8 (updPwr s (fun p => { p with req := d &&& 0x107 })))
      | _, _, _ => none)
    | none, none => none

/-- A write of PWR_REQ by a command. -/
def pwrReq (m : Mid) (d : W32) (s : State) : Host.Outcome State Fault Refusal :=
  .next (busWrite m .pwr 0x40004004 d (effPwrReq m d) s)

/-- PWR_REQ_RUN_FAST (R331). -/
def execPwrReqRunFast (m : Mid) (s : State) : Host.Outcome State Fault Refusal := pwrReq m 1 s

/-- PWR_REQ_RUN (R322). -/
def execPwrReqRun (m : Mid) (s : State) : Host.Outcome State Fault Refusal := pwrReq m 0 s

/-- PWR_REQ_DOZE (R322). -/
def execPwrReqDoze (m : Mid) (s : State) : Host.Outcome State Fault Refusal := pwrReq m 2 s

/-- PWR_REQ_NAP (R322). -/
def execPwrReqNap (m : Mid) (s : State) : Host.Outcome State Fault Refusal := pwrReq m 3 s

/-- PWR_REQ_SLUMBER (R322). -/
def execPwrReqSlumber (m : Mid) (exitNap : Bool) (s : State) : Host.Outcome State Fault Refusal :=
  pwrReq m (put 4 0 ||| putB exitNap 8) s

/-- FORWARD_BIAS_SETTLED: the CLK_CORE divisor changes to 2; a TEMP of 115 °C or more drops the state at once (R331, R338). In
BYPASS the divisor does not apply (R304). -/
def execForwardBiasSettled (s : State) : Host.Outcome State Fault Refusal :=
  .next (if s.pwr.move = .biasing then
    fastDrop (updClk (updPwr s (fun p => { p with move := .none, state := .runFast })) (fun c => { c with fast := !c.bypass }))
  else s)

/-! ## Refusers (R323, R324) -/

/-- A refuser that holds: its code, KIND and ITEM. -/
abbrev Refuser := Nat × Nat × Nat

/-- Refuser 1, LPE: the lowest KIND that holds, with its lowest item. -/
def refLpe (s : State) : Option Refuser :=
  let stall (f : Stall → Bool) : Option (Fin 32) := (idx 32).find? (fun n => f s.stl[n] && !pdkUnusable s (pdkOf n))
  let pdk (f : Paddock → Bool) : Option (Fin 8) := (idx 8).find? (fun p => f s.cfg.pdk[p])
  match stall (fun t => t.en) with
  | some n => some (1, 1, n.val)
  | none => match stall (fun t => t.retryPend) with
    | some n => some (1, 2, n.val)
    | none => match pdk (fun q => q.state = .parking || q.state = .loading || q.state = .unparking) with
      | some p => some (1, 3, p.val)
      | none => match pdk (fun q => (q.state = .parked || q.state = .verified) && q.hold) with
        | some p => some (1, 4, p.val)
        | none => none

/-- Refuser 2, TRX. -/
def refTrx (s : State) : Option Refuser :=
  let t := s.trx
  if !t.launched.isEmpty || (match t.tx with | some x => x.stage = .onAir || x.stage = .awaitAck || x.src != .queue | none => false) then
    some (2, 1, 0)
  else if (match t.tx with | some x => x.resv.isSome | none => false) then some (2, 2, 0)
  else if t.ackDue.isSome then some (2, 3, 0)
  else none

/-- Refuser 3, CRY. -/
def refCry (s : State) : Option Refuser :=
  if 0 < inFlight s then some (3, 1, min (inFlight s) 255)
  else if s.pkv.owner != .none || s.pkv.pend then some (3, 2, 0)
  else none

/-- Refuser 4, ZLK. -/
def refZlk (s : State) : Option Refuser := if s.zlk.state = .leader then some (4, 1, (zlkAddr s.zlk).val) else none

/-- Refuser 5, FLASH: the bank of the command in progress. -/
def refFlash (s : State) : Option Refuser :=
  s.boot.flRun.map (fun f => (5, 1, if 0x08100000 ≤ f.addr.toNat then 1 else 0))

/-- The wake sources with a PWR_WAKE_PEND bit, by rising code. -/
def pendSources : List WakeSrc := [.timer, .sniff, .pio, .hostIrq, .groomIrq, .dbg]

/-- Refuser 6, WAKE: a pending source that wakes from the target state, or a TIMER less than 32 LTICK cycles away. -/
def refWake (s : State) (t : PwrState) : Option Refuser :=
  (pendSources.find? (fun w => wakes s.pwr w t && (bit s.pwr.wakePend (wakeCode w)
      || (w = .timer && (s.pwr.timerCmp - s.pwr.ltime).toNat < 32)))).map (fun w => (6, wakeCode w, 0))

/-- The refusers that hold for a target state, by rising code. -/
def refusers (s : State) : PwrState → List Refuser
  | .slumber => [refLpe s, refTrx s, refCry s, refZlk s, refFlash s, refWake s .slumber].filterMap id
  | .nap => [refFlash s, refWake s .nap].filterMap id
  | t => [refWake s t].filterMap id

/-- The entry is refused (R324). -/
def refuse (l : List Refuser) (s : State) : State :=
  match l with
  | [] => s
  | (c, k, i) :: _ =>
    updPwr s (fun p => pwrEvt 0 { p with
      armed := none, refCnt := satInc p.refCnt 65535
      refuser := l.foldl (fun w x => withBit w (15 + x.1) true) (put c 0)
      detail := put i 8 ||| put k 0 })

/-! ## Entry (R325, R326, R328, R330, R335) -/

/-- A latched pad's drive and level: a driver whose level is open is latched at a free value (R335, R368). -/
def padImage (s : State) (i : Fin 24) : Bool × Bool :=
  match padDrive s i with
  | .level b => (true, b)
  | .varies => (true, Config.freeBit (s.free + i.val))
  | .release => (false, false)

/-- The pads and FAULT_N are latched (R335). A group still held keeps its image. -/
def latchPads (s : State) : State :=
  let bits (f : Fin 24 → Bool) : BitVec 24 := (idx 24).foldl (fun w i => if f i then w ||| (1#24 <<< i.val) else w) 0
  let io := s.pio
  let held := { io with
    heldDrive := bits (fun i => (padImage s i).1)
    heldLevel := bits (fun i => (padImage s i).2)
    heldCfg := (idx 24).foldl (fun v i => if pinHeld s i then v else v.set i.val io.cfg[i]) io.heldCfg
    hold := 7 }
  { s with
    free := s.free + 24
    pio := held
    pwr := { s.pwr with faultHeld := some (faultLow s) } }

/-- Transmissions in progress of the ZLK, DALI, the UARTs and the I2C masters are cut off (R328). -/
def cutPorts (s : State) : State :=
  { s with
    dli := if dliSending s.dli then { s.dli with run := .idle, sent := s.dli.sent.dropLast } else s.dli
    uart := (idx 2).foldl (fun v u => upd v u (fun q => { q with cur := none })) s.uart
    i2c := (idx 2).foldl (fun v i => upd v i (fun q => { q with busy := false, held := false, out := [], more := [] })) s.i2c
    zlk := { s.zlk with sent := if zlkDe s then [] else s.zlk.sent } }

/-- The entry sequence starts (R325). DOZE is entered at once (R330), with CLK_CORE's divisor at 4 (R286). -/
def startEntry (t : PwrState) (s : State) : State :=
  let s := updPwr s (fun p => { p with armed := none })
  match t with
  | .doze => updClk (updPwr s (fun p => { p with state := .doze, dozeFrom := p.state })) (fun c => { c with fast := false })
  | .nap => updPwr s (fun p => { p with move := .entering .nap p.state })
  | .slumber => latchPads (cutPorts (updPwr s (fun p => { p with move := .entering .slumber p.state })))
  | _ => s

/-- REQUEST_INSTANT: the condition of an armed request holds; a test stops for NAP and SLUMBER; the entry is refused, or starts
(R322 to R325, R418, R420). -/
def execRequestInstant (s : State) : Host.Outcome State Fault Refusal :=
  .next (match s.pwr.armed with
    | none => s
    | some (t, _) =>
      let s := if t = .nap || t = .slumber then bistAbort s else s
      let l := refusers s t
      if l.isEmpty then startEntry t s else refuse l s)

/-- A core stops and its domain goes off. -/
def hostDown (s : State) : State := domDown (updPwr s (fun p => { p with hostOn := false })) .host false

/-- The groom core stops and its domain goes off. -/
def groomDown (s : State) : State := domDown (updPwr s (fun p => { p with groomOn := false })) .groom false

/-- FLASH goes off and its PWR_DOM_ON bit is cleared (R326). -/
def flashDown (s : State) : State := setDomOn .flash false (retire .flash false s)

/-- An SRAM bank goes into retention, or off with its bit cleared (R326, R328). -/
def sramRest (s : State) (k : Fin 8) : State :=
  if bit s.pwr.sramRet k.val then retire (.sram k) true s else setDomOn (.sram k) false (retire (.sram k) false s)

/-- NAP is entered (R326). -/
def enterNap (s : State) : State :=
  let s := ((idx 8).filter (fun k => k.val < 7)).foldl sramRest (flashDown (hostDown s))
  updClk (updPwr s (fun p => { p with state := .nap, move := .none })) (fun c => { c with fast := false })

/-- The sleep point is captured (R310, R328). -/
def captureSleep (s : State) : State :=
  updPwr s (fun p => { p with sleep := some {
    trx := s.trx.time, zone := (zoneNow s).toNat, ltime := p.ltime, pred := slkPred s.clk.slk s.sns.temp.toInt
    moves := [(p.ltime, s.clk.ltXlf)], back := p.ltime } })

/-- The gallery is disarmed and its memory lost (R321). -/
def galleryDown (s : State) : State :=
  { s with
    gal := { s.gal with ctrl := withBit s.gal.ctrl 31 false, left := none }
    mem := s.mem.clear 0x40120000 0x40130000 }

/-- The FIFOs of the ports are lost (R321). -/
def dropFifos (s : State) : State :=
  { s with
    uart := (idx 2).foldl (fun v u => upd v u (fun q => { q with rx := [], tx := [] })) s.uart
    i2c := (idx 2).foldl (fun v i => upd v i (fun q => { q with rx := [], tx := [], out := [], more := [] })) s.i2c }

/-- The synthesizers stop, and XTAL unless it is kept (R289, R296, R328). -/
def clocksDown (s : State) : State :=
  updClk s (fun c => xtalRest { rfOff c with
    fast := false
    sys := { c.sys with st := if c.sys.st = .failed then .failed else .off, coastCyc := 0, switching := false } })

/-- The core buck regulates VCORE to a voltage in mV: 0.70 V in standby (R427). -/
def buckAt (mv : Nat) (s : State) : State := { s with sup := { s.sup with vcore := mv } }

/-- SLUMBER is entered (R321, R328): a follower leaves its zone (R260). -/
def enterSlumber (s : State) : State :=
  let s := galleryDown (dropFifos (captureSleep s))
  let s := if zlkOn s then zlkLeave .off s else s
  let s := flashDown (groomDown (hostDown s))
  let s := ([.sense, .radio, .crypto] ++ (idx 8).map .paddock : List Domain).foldl (fun s d => retire d true s) s
  let s := (idx 8).foldl sramRest s
  buckAt 700 (updPwr (clocksDown (domDown s .yard true)) (fun p => { p with state := .slumber, move := .none }))

/-- ENTRY_COMPLETE: the final step of an entry sequence (R326, R328). -/
def execEntryComplete (s : State) : Host.Outcome State Fault Refusal :=
  .next (match s.pwr.move with
    | .entering .nap _ => enterNap s
    | .entering .slumber _ => enterSlumber s
    | _ => s)

/-! ## Wake events and exit (R327, R329, R330, R332) -/

/-- Whether the event of a source shows in the state: an interrupt presented, a frame held from a sniff, an edge on a wake pin. -/
def wakeShown (s : State) : WakeSrc → Bool
  | .dbg => true
  | .timer => s.pwr.ltime = s.pwr.timerCmp
  | .sniff => s.trx.heldRx.isSome
  | .pio => (idx 24).any (fun i => s.pio.evt.getLsbD i.val && bit (s.pio.ecfg[i]) 11)
  | .hostIrq => irqInput s .host
  | .groomIrq => irqInput s .groom
  | .fence | .groomReq => false

/-- WAKE_EVENT: a wake source's event (R332). FENCE and GROOMREQ come only with the commands that cause them. -/
def execWakeEvent (src : WakeSrc) (s : State) : Host.Outcome State Fault Refusal :=
  .next (if wakeShown s src then wake src s else s)

/-- TIMER: PWR_LTIME has become equal to PWR_TIMER_CMP (R332). -/
def execTimer (s : State) : Host.Outcome State Fault Refusal :=
  .next (if s.pwr.ltime = s.pwr.timerCmp then wake .timer s else s)

/-- A domain with its PWR_DOM_ON bit set becomes ready unless it is isolated. -/
def domReturn (s : State) (d : Domain) : State :=
  if bit s.pwr.domOn (domBit d) && !domIsolated s d && !domReady s d then domUp s d else s

/-- FLASH and HOST are ready, and the host core starts at PWR_HOST_VEC with its integer registers zero (R327, R329); an isolated domain is
left out (R338). -/
def hostUp (s : State) : State :=
  let s := if domIsolated s .flash then s else domReturn (setDomOn .flash true s) .flash
  if domIsolated s .host then s
  else updPwr (domUp s .host) (fun p => { p with hostOn := true, hostPc := p.hostVec, hostSp := 0, hostA0 := 0 })

/-- GROOM is ready and the groom core starts at PWR_GROOM_VEC (R329); an isolated domain is left out (R338). -/
def groomUp (s : State) : State :=
  if domIsolated s .groom then s
  else updPwr (domUp s .groom) (fun p => { p with groomOn := true, groomPc := p.groomVec })

/-- WOKE, and the state that the exit led to. -/
def woke (t : PwrState) (s : State) : State := updPwr s (fun p => pwrEvt 2 { p with state := t, move := .none })

/-- NAP has been left for RUN (R327). -/
def exitNap (s : State) : State :=
  woke .run (hostUp (((idx 8).map Domain.sram).foldl domReturn s))

/-- Whether SYSPLL gives the clocks again, or XTAL does in BYPASS (R304, R329). -/
def clocksBack (s : State) : Bool :=
  s.clk.sys.st = .locked || s.clk.sys.st = .coast || (s.clk.bypass && s.clk.xtalOk)

/-- SLUMBER has been left (R329): domains return, the sleep interval ends, a held frame is delivered, the ZLK listens again. -/
def exitSlumber (t : PwrState) (s : State) : State :=
  let s := domUp s .yard
  let s := maskDomains.foldl (fun s d => if d = .flash then s else domReturn s d) s
  let s := updPwr s (fun p => { p with sleep := p.sleep.map (fun q => { q with back := p.ltime }), faultHeld := none })
  let s := buckAt 900 { s with lpe := { s.lpe with pwmBase := 0 } }
  let s := if bit s.zlk.ctrl 31 && !unusable s 57 then zlkLeave .listen s else s
  let s := engineRun .heldFrame [] deliverHeld (rfFollow s)
  let s := groomUp s
  woke t (if t = .run then hostUp s else s)

/-- EXIT_COMPLETE: the exit sequence ends (R327, R329). -/
def execExitComplete (s : State) : Host.Outcome State Fault Refusal :=
  .next (match s.pwr.move, s.pwr.state with
    | .exiting _, .nap => exitNap s
    | .exiting t, .slumber => if clocksBack s then exitSlumber t s else s
    | _, _ => s)

/-- The LTICK cycles before a sniff instant at which the loft begins: XLEAD × 50 µs for XTAL, 100 µs for RADIO (R334). -/
def loftLead (s : State) : Int := max (fld s.pwr.sniffCfg 7 0 * 50) 100 * 32768 / 1000000

/-- Whether the loft's next sniff is near enough to begin (R334). -/
def loftDue (s : State) : Bool :=
  match s.pwr.sleep with
  | some p => loftInstant s.trx p (loftNext s p) - loftLead s - 1 ≤ loftNow s p
  | none => false

/-- LOFT_SNIFF: in SLUMBER the loft starts XTAL and powers RADIO and the RFPLL ahead of a sniff instant (R334); a wake in progress skips
it (R338). -/
def execLoftSniff (s : State) : Host.Outcome State Fault Refusal :=
  .next (if s.pwr.state = .slumber && s.pwr.move = .none && trxEn s && bit s.trx.ctrl 29 && !unusable s 47 && loftDue s then
    let s := domUp (updClk s xtalOnly) .radio
    let hz := carrierOf s.trx (fld s.trx.chan 15 0)
    if carrierOk hz then updClk s (fun c => tune hz { c with rfPower := true }) else trxEvt 4 s
  else s)

/-! ## Registers (R341) -/

/-- PWR_CNT_CLR. -/
def effPwrCntClr (d : W32) (s : State) : State := if bit d 0 then updPwr s (fun p => { p with refCnt := 0, abortCnt := 0 }) else s

/-- A write of a PWR register; none is SLVERR. -/
def pwrWrite (m : Mid) (off : Nat) (d : W32) (s : State) : Option State :=
  let w (f : Pwr → Pwr) : Option State := some (updPwr s f)
  match off with
  | 0x004 => effPwrReq m d s
  | 0x008 => w (fun p => { p with evt := p.evt &&& ~~~ d })
  | 0x00C => w (fun p => { p with evtEn := d &&& 0x3F })
  | 0x010 => w (fun p => { p with wakeEn := d &&& 0x5E })
  | 0x014 => w (fun p => { p with wakePend := p.wakePend &&& ~~~ d })
  | 0x030 => some (effPwrCntClr d s)
  | 0x040 => effDomOn d s
  | 0x048 => w (fun p => { p with sramRet := d &&& 0xFF })
  | 0x04C => w (fun p => { p with domFail := p.domFail &&& ~~~ d })
  | 0x050 => w (fun p => { p with hostVec := d &&& 0xFFFFFFFE })
  | 0x054 => w (fun p => { p with groomVec := d &&& 0xFFFFFFFE })
  | 0x064 => w (fun p => { p with timerCmp := d })
  | 0x068 => w (fun p => { p with sniffCfg := d &&& 0xFF })
  | _ => some s

/-- PWR_STAT. -/
def pwrStat (p : Pwr) : W32 :=
  putB p.armed.isSome 31 ||| putB (p.move != .none) 30 ||| putB p.tadj 29
    ||| put (match p.armed with | some (t, _) => pwrNum t | none => 0) 16 ||| put (pwrNum p.state) 0

/-- A read of a PWR register. -/
def pwrRead (off : Nat) (s : State) : W32 :=
  let p := s.pwr
  match off with
  | 0x000 => pwrStat p
  | 0x004 => p.req | 0x008 => p.evt | 0x00C => p.evtEn | 0x010 => p.wakeEn | 0x014 => p.wakePend
  | 0x018 => p.lastWake | 0x01C => p.lastT | 0x020 => put p.refCnt 0 | 0x024 => put p.abortCnt 0
  | 0x028 => p.refuser | 0x02C => p.detail
  | 0x040 => p.domOn | 0x044 => p.ready | 0x048 => p.sramRet | 0x04C => p.domFail
  | 0x050 => p.hostVec | 0x054 => p.groomVec | 0x060 => p.ltime | 0x064 => p.timerCmp | 0x068 => p.sniffCfg
  | _ => 0

/-- PWR_DOM_ON (R319). -/
def execPwrDomOn (m : Mid) (data : W32) (s : State) : Host.Outcome State Fault Refusal :=
  .next (busWrite m .pwr 0x40004040 data (effDomOn data) s)

/-- PWR_CNT_CLR (R341). -/
def execPwrCntClr (m : Mid) (s : State) : Host.Outcome State Fault Refusal :=
  .next (busWrite m .pwr 0x40004030 1 (fun s => some (effPwrCntClr 1 s)) s)

end Sys2Proof.Machine
end

