-- ==== Sys2Proof/Machine/Reset.lean ====
section
/-!
DEFINITION. Reset: the resets and their causes, what the LOFT domain keeps, reset release, and the watchdogs (R9, R41, R74, R315,
R340, R372, R374 to R379, R404, R406, R422, R444).
-/

namespace Sys2Proof.Machine

open Sys2Proof

/-! ## Memory across a reset -/

/-- The bytes that an interrupted flash command leaves undefined: the doubleword, or the sector and with sector 0 of a bank its
status sector (R381, R402). -/
def flashHurt (f : FlashRun) : List (Nat × Nat) :=
  let a := f.addr.toNat
  if f.erase then
    let b := a / 4096 * 4096
    if b % 0x100000 = 0 then [(b, 4096), (b + 0xCF000, 4096)] else [(b, 4096)]
  else [(a / 8 * 8, 8)]

/-- Ranges of memory left undefined (log 6). -/
def hurt (l : List (Nat × Nat)) (s : State) : State :=
  l.foldl (fun s r => { s with mem := s.mem.writeN r.1 (freeBytes s.free r.2), free := s.free + r.2 }) s

/-- What a reset leaves undefined: a flash command in progress, and the loft SRAM slice under test (R402, R420). -/
def hurtAtReset (s : State) : List (Nat × Nat) :=
  (match s.boot.flRun with | some f => flashHurt f | none => [])
    ++ (match s.bist.run with | some r => if r.target.val = 10 then [(0x28000000 + 1024 * r.cur, 1024)] else [] | none => [])

/-- Gallery memory and the BIST save area read zero after every reset (R422). -/
def clearOwn (m : Mem) : Mem := (m.clear 0x40120000 0x40130000).clear 0x40020800 0x40020C00

/-- Memory after the loss of power: every SRAM bank has lost its contents, and the loft SRAM is clear (R320, R375). -/
def losePower (m : Mem) : Mem :=
  let m := (idx 8).foldl (fun m k => m.lose k) m
  m.clear 0x28000000 0x28004000

/-! ## What the LOFT domain keeps (R375) -/

/-- The clock fields that only a power-on reset returns to their reset values (R315). -/
def keepClk (z c : Clk) : Clk :=
  { z with xlfOk := c.xlfOk, ltXlf := c.ltXlf, xtalCfg := c.xtalCfg, cload := c.cload, slkCfg := c.slkCfg
           cloadDue := c.cloadDue, slk := c.slk }

/-- The power controller's kept registers (R340, R375). -/
def keepPwr (z p : Pwr) : Pwr :=
  { z with lastWake := p.lastWake, lastT := p.lastT, refCnt := p.refCnt, abortCnt := p.abortCnt, refuser := p.refuser
           detail := p.detail, domFail := p.domFail, timerCmp := p.timerCmp, sniffCfg := p.sniffCfg, ltime := p.ltime }

/-- What lies outside the device, or is never erased: levels driven onto pins, and the OTP. -/
def keepOutside (z s : State) : State :=
  { z with
    pending := s.pending, time := s.time, free := s.free, mem := s.mem
    pio := { z.pio with ext := s.pio.ext, strap := s.pio.strap, filt := s.pio.filt }
    uart := (idx 2).foldl (fun v u => upd v u (fun q => { q with cts := (s.uart[u]).cts })) z.uart
    boot := { z.boot with otp := s.boot.otp, floor := s.boot.floor, otpC1 := s.boot.otpC1, otpC2 := s.boot.otpC2 }
    sup := { z.sup with hot := s.sup.hot } }

/-- The boot controller's kept registers (R375, R396). -/
def keepBoot (z b : Boot) : Boot :=
  { z with skip := b.skip, sticky := b.sticky, lastRst := b.lastRst, lastFail := b.lastFail, banks := b.banks, hist := b.hist
           histCnt := b.histCnt, histNew := b.histNew, bootNum := b.bootNum, digest := b.digest, flAddr := b.flAddr
           flLo := b.flLo, flHi := b.flHi }

/-- The LOFT domain kept over a reset other than a power-on reset (R375, R422, R444). -/
def keepLoft (z s : State) : State :=
  { z with
    ltHalf := s.ltHalf
    rgy := { z.rgy with sub := s.rgy.sub, hop := s.rgy.hop, subAt := s.rgy.subAt, hopAt := s.rgy.hopAt }
    clk := keepClk z.clk s.clk
    pwr := keepPwr z.pwr s.pwr
    boot := keepBoot z.boot s.boot
    bist := { z.bist with prev := s.bist.umap }
    sup := { z.sup with uvSeen := s.sup.uvSeen, hotSeen := s.sup.hotSeen, uvCnt := s.sup.uvCnt, hotCnt := s.sup.hotCnt } }

/-- A reset cause recorded (R374). -/
def recordCause (c : Nat) (s : State) : State :=
  { s with boot := { s.boot with sticky := s.boot.sticky ||| (1#10 <<< c), lastRst := c } }

/-- A reset other than a power-on reset, with its cause (R374, R375). -/
def resetDevice (c : Nat) (s : State) : State :=
  let s := hurt (hurtAtReset s) s
  let z := keepLoft (keepOutside State.reset s) s
  recordCause c { z with mem := clearOwn z.mem }

/-- A power-on reset clears the LOFT domain too (R374, R375, R396). -/
def resetPower (s : State) : State :=
  let s := hurt (hurtAtReset s) s
  let z := keepOutside State.reset s
  { z with mem := losePower (clearOwn z.mem) }

/-- POR (R374). -/
def execPor (s : State) : Host.Outcome State Fault Refusal := .next (resetPower s)

/-- PIN (R374). -/
def execPin (s : State) : Host.Outcome State Fault Refusal := .next (resetDevice 1 s)

/-- BROWN (R374, R443). -/
def execBrown (s : State) : Host.Outcome State Fault Refusal := .next (resetDevice 2 s)

/-- DBG_RESET (R374). -/
def execDbgReset (s : State) : Host.Outcome State Fault Refusal := .next (resetDevice 9 s)

/-- COAST_LIMIT: a SYSPLL coast that has lasted 10 ms resets the device (R299). -/
def execCoastLimit (s : State) : Host.Outcome State Fault Refusal :=
  .next (if s.clk.sys.st = .coast && 1536000 ≤ s.clk.sys.coastCyc then resetDevice 6 s else s)

/-- BOOT_RST_REQ written (R374). -/
def effRstReq (d : W32) (s : State) : State := if d = 0x52530001 then resetDevice 5 s else s

/-! ## Release and the XTAL start (R367, R378, R379, R401) -/

/-- RESET_RELEASE: the loft sequencer starts XTAL, and the straps are sampled (R367, R378, R379). -/
def execResetRelease (straps : BitVec 5) (s : State) : Host.Outcome State Fault Refusal :=
  .next (if s.boot.inReset then
    let strapOf (i : Fin 24) : Bool := straps.getLsbD (i.val - 19)
    let p := s.pio
    let io := { p with
      strap := straps
      ext := (idx 24).foldl (fun v i => if 19 ≤ i.val then v.set i.val (some (strapOf i)) else v) p.ext }
    updClk { s with pio := io, boot := { s.boot with inReset := false } } xtalStart
  else s)

/-- XTAL_START_RETRY: with no XTAL the loft sequencer starts it anew (R401). -/
def execXtalStartRetry (s : State) : Host.Outcome State Fault Refusal :=
  .next (if !s.boot.inReset && !s.boot.started && !s.clk.xtalOk then updClk s xtalStart else s)

/-! ## Watchdogs (R376, R377, R406) -/

/-- The index of a core's watchdog. -/
def wdtOf : Core → Fin 2
  | .host => 0
  | .groom => 1

/-- A watchdog updated. -/
def updWdt (s : State) (w : Core) (f : Wdt → Wdt) : State := { s with wdt := upd s.wdt (wdtOf w) f }

/-- Whether a watchdog counts: enabled, and its core clocked (R376). -/
def wdtCounts (s : State) (w : Core) : Bool :=
  bit (s.wdt[wdtOf w]).ctrl 31 && (match w, s.pwr.state with
    | _, .run => true
    | _, .runFast => true
    | .groom, .nap => true
    | _, _ => false)

/-- SYS_WDT_w_CTRL (R377, R406): locked fields are ignored; EN stays 1 during a trial. -/
def effWdtCtrl (w : Core) (d : W32) (s : State) : State :=
  updWdt s w (fun q =>
    if bit q.ctrl 30 then q
    else
      let v := d &&& 0xFFFF3FFF
      let v := if w = .host && s.boot.trial then withBit v 31 true else v
      { q with ctrl := v, cnt := if bit v 31 then q.cnt else 0, pre := if bit v 31 then q.pre else 0 })

/-- SYS_WDT_w_KICK: the right value restarts the count; another one expires an enabled watchdog (R376). -/
def effKick (w : Core) (d : W32) (s : State) : State :=
  updWdt s w (fun q =>
    if d = 0x0000A5C3 then { q with cnt := 0, pre := 0 }
    else if bit q.ctrl 31 then { q with bad := true } else q)

/-- A write of a watchdog register in SYS (R406). -/
def wdtWrite (off : Nat) (d : W32) (s : State) : State :=
  let w : Core := if off < 0x410 then .host else .groom
  match off % 16 with
  | 0x0 => effWdtCtrl w d s
  | 0x4 => effKick w d s
  | 0xC => updWdt s w (fun q => { q with warn := q.warn && !bit d 0 })
  | _ => s

/-- A read of a watchdog register in SYS (R377, R406). -/
def wdtRead (off : Nat) (s : State) : W32 :=
  let w : Core := if off < 0x410 then .host else .groom
  let q := s.wdt[wdtOf w]
  match off % 16 with
  | 0x0 => if w = .host && s.boot.trial then withBit q.ctrl 31 true else q.ctrl
  | 0x8 => put (min q.cnt 16383) 0
  | 0xC => putB q.warn 0
  | _ => 0

/-- WDT_EXPIRY: an enabled watchdog's count reached TMO, or its kick was wrong (R376). -/
def execWdtExpiry (w : Core) (s : State) : Host.Outcome State Fault Refusal :=
  let q := s.wdt[wdtOf w]
  .next (if (wdtCounts s w && fld q.ctrl 13 0 ≤ q.cnt) || (bit q.ctrl 31 && q.bad) then
    resetDevice (match w with | .host => 3 | .groom => 4) s
  else s)

/-- WDT_WARN: the count reached WARN; a WARN at or above TMO gives no warning (R376). -/
def execWdtWarn (w : Core) (s : State) : Host.Outcome State Fault Refusal :=
  let q := s.wdt[wdtOf w]
  .next (if wdtCounts s w && fld q.ctrl 29 16 < fld q.ctrl 13 0 && fld q.ctrl 29 16 ≤ q.cnt then updWdt s w (fun q => { q with warn := true }) else s)

/-- KICK: a write of a watchdog's KICK register (R376). -/
def execKick (m : Mid) (w : Core) (data : W32) (s : State) : Host.Outcome State Fault Refusal :=
  let off := 0x404 + 0x10 * (wdtOf w).val
  .next (busWrite m .sys (0x40000000 + off) data (fun s => some (wdtWrite off data s)) s)

end Sys2Proof.Machine
end

