-- ==== Sys2Proof/Machine/Boot.lean ====
section
/-!
DEFINITION. Boot: flash banks and commands, the firmware check, the choice of a bank, release, the boot ROM's services,
BOOT_HISTORY, service levels, and the BOOT registers (R377 to R406).
-/

namespace Sys2Proof.Machine

open Sys2Proof

/-- The boot controller updated. -/
def updBoot (s : State) (f : Boot → Boot) : State := { s with boot := f s.boot }

/-! ## Flash banks and their markers (R380, R385) -/

/-- The base address of a bank. -/
def bankBase (b : Bool) : Nat := if b then 0x08100000 else 0x08000000

/-- The index of a bank. -/
def bankIdx (b : Bool) : Fin 2 := if b then 1 else 0

/-- Bytes of a bank. -/
def bankRead (s : State) (b : Bool) (off n : Nat) : List Byte := s.mem.readN (bankBase b + off) n

/-- The offset of a doubleword of the status sector. -/
def markOff (off : Nat) : Nat := 0xCF000 + off

/-- Whether a marker is set: its doubleword does not read all ones. -/
def markSet (s : State) (b : Bool) (off : Nat) : Bool := (bankRead s b (markOff off) 8).any (· != 0xFF)

/-- The low word of a marker, 0 while it is clear. -/
def markLow (s : State) (b : Bool) (off : Nat) : Nat :=
  if markSet s b off then leNat (bankRead s b (markOff off) 4) else 0

/-- A marker programmed by the boot ROM. -/
def programMark (b : Bool) (off lo : Nat) (s : State) : State :=
  { s with mem := s.mem.writeN (bankBase b + markOff off) (leBytes 8 lo) }

/-- ATTEMPT markers set in a bank. -/
def attemptsOf (s : State) (b : Bool) : Nat := ([0x08, 0x10, 0x18].filter (markSet s b)).length

/-! ## The firmware check (R383, R384) -/

/-- The 64-byte header of a bank. -/
def fwHdr (s : State) (b : Bool) : List Byte := bankRead s b 0 64

/-- Whether an entry offset is one that step 5 takes. -/
def entryOk (n e : Nat) : Bool := e % 2 = 0 && 64 ≤ e && e + 130 ≤ n

/-- Steps 1 to 8: the code, 0 for a pass. -/
def fwHeaderCode (s : State) (b : Bool) : Nat :=
  let h := fwHdr s b
  let n := u32 h 8
  let fl := u16 h 0x0E
  if unusable s (8 + (bankIdx b).val) then 0x69
  else if u32 h 0 = 0xFFFFFFFF then 0x6A
  else if u32 h 0 != 0x57464B42 then 0x60
  else if u16 h 4 != 1 || u16 h 6 != 0x40 || fl / 2 != 0 || (firstNonZero h 0x24 0x3C).isSome then 0x61
  else if n % 4 != 0 || n < 196 || 847872 < n || !entryOk n (u32 h 0x18) || (fl = 1 && !entryOk n (u32 h 0x1C)) then 0x62
  else if crc32 (h.take 0x3C) != u32 h 0x3C then 0x63
  else if u32 h 0x10 != 0x32334B42 then 0x64
  else if 64 < u8 h 0x0C || u8 h 0x0C < s.boot.floor then 0x65
  else 0

/-- The image of a bank whose header passed. -/
def fwImage (s : State) (b : Bool) : List Byte := bankRead s b 0 (u32 (fwHdr s b) 8)

/-- Steps 1 to 9. -/
def fwTo9 (s : State) (b : Bool) : Nat :=
  if fwHeaderCode s b != 0 then fwHeaderCode s b
  else
    let l := fwImage s b
    if keyAdmits s.boot.otp (u8 l 0x0D) (sha256 (imgKey l l.length)) then 0 else 0x66

/-- Step 11: BASE_ID. -/
def fwStep11 (s : State) (b : Bool) : Nat :=
  let id := u32 (fwHdr s b) 0x14
  if id = 0 || id = s.cfg.baseId.toNat then 0 else 0x68

/-- The header check, or the full check. -/
def fwCheck (s : State) (b full : Bool) : Nat :=
  if !full then fwHeaderCode s b
  else if fwTo9 s b != 0 then fwTo9 s b
  else
    let l := fwImage s b
    if imgVerify l l.length = 1 then fwStep11 s b else 0x67

/-- The digest of a bank's image, kept where the check did not come to step 10. -/
def fwDigest (s : State) (b full : Bool) : List Byte :=
  if full && fwTo9 s b = 0 then imgDigest (fwImage s b) (fwImage s b).length else s.boot.digest

/-- The code that the checks of the base image in a bank's Lyngo slot give (R57, R392). -/
def lyngoCode (s : State) (b : Bool) : Nat :=
  let all := bankRead s b 0xD0000 98304
  match chkHeader { base := true, pdk := 0, baseId := 0, avail := 98304 } (all.take 64) with
  | .error e => e.1
  | .ok _ =>
    let n := u32 all 8
    let l := all.take n
    if !keyAdmits s.boot.otp (u8 l 0x0F) (sha256 (imgKey l n)) then 0x20
    else if imgVerify l n != 1 then 0x21
    else (codeOf (chkSections true 0 l)).1

/-! ## Bank states (R386) and BOOT_HISTORY (R396) -/

/-- The state of a bank. -/
def classify (s : State) (b : Bool) : Nat :=
  if unusable s (8 + (bankIdx b).val) then 5
  else if fwHeaderCode s b != 0 then 0
  else if markSet s b 0x28 then 4
  else if markSet s b 0x20 then 2
  else if markSet s b 0x00 then 3
  else 1

/-- BOOT_BANK_b and BOOT_SEQ_b of one bank as the boot ROM writes them (R404, R405). -/
def snapBank (s : State) (b : Bool) : State :=
  updBoot s (fun t => { t with banks := upd t.banks (bankIdx b) (fun k => { k with
    state := classify s b, attempts := attemptsOf s b, reason := markLow s b 0x28 % 16
    secVer := if fwHeaderCode s b = 0 || fwHeaderCode s b = 0x65 then u8 (fwHdr s b) 0x0C % 128 else 0, seq := BitVec.ofNat 32 (markLow s b 0x20) }) })

/-- Both banks shown. -/
def snapBanks (s : State) : State := snapBank (snapBank s false) true

/-- FW_CODE of a bank. -/
def setFwCode (b : Bool) (c : Nat) (s : State) : State :=
  updBoot s (fun t => { t with banks := upd t.banks (bankIdx b) (fun k => { k with fwCode := c }) })

/-- A word of BOOT_HISTORY written. -/
def logEvent (ev : Nat) (b : Bool) (reason code : Nat) (s : State) : State :=
  let t := s.boot
  let i : Fin 8 := ⟨(if t.histCnt = 0 then 0 else t.histNew + 1) % 8, Nat.mod_lt _ (by decide)⟩
  let w := put ev 28 ||| put reason 24 ||| putB b 23 ||| put (attemptsOf s b) 21 ||| put t.level 19 ||| put code 8
    ||| put (t.bootNum % 256) 0
  updBoot s (fun t => { t with hist := t.hist.set i.val w, histNew := i.val, histCnt := satInc t.histCnt 255 })

/-! ## The choice of a bank (R387, R388, R401, R412) -/

/-- Whether a bank is in the skip mask. -/
def skipped (s : State) (b : Bool) : Bool := s.boot.skip.getLsbD (bankIdx b).val

/-- A gate's default rights of DBG set to read and write (R344, R401). -/
def dbgRights (w : W32) : W32 := (w &&& ~~~ (put 3 16)) ||| put 2 16

/-- NONE: nothing is released; DBG is given BOOT and SRAM0, and nothing at FLASH (R401). -/
def bootNone (code : Nat) (s : State) : State :=
  let s := logEvent 7 false 0 code (updBoot s (fun t => { t with level := 3 }))
  let boot (g : Gate) : Gate := { g with dflt := dbgRights g.dflt }
  let sram (g : Gate) : Gate := { g with
    rgn := upd g.rgn 0 (fun _ => { base := 0x20000000, limit := 0x2000FFE0, perm := dbgRights g.dflt }), ctrl := g.ctrl ||| 1 }
  let flash (g : Gate) : Gate := { g with dflt := g.dflt &&& ~~~ (put 3 16), ctrl := 0 }
  snapBanks { s with act := { s.act with gate := upd (upd (upd s.act.gate 11 boot) 2 sram) 1 flash } }

/-- The boot ROM goes on with a bank: its Lyngo slot is the source of LOAD_BASE (R389). -/
def bootWith (b trial : Bool) (s : State) : State :=
  snapBanks (updCfg (updBoot s (fun t => { t with bank := b, trial := trial }))
    (fun c => { c with src := BitVec.ofNat 32 (bankBase b + 0xD0000) }))

/-- The committed or plain bank of the highest COMMIT_SEQ, bank A on a tie. -/
def bestCommitted (s : State) : Option Bool :=
  let ok (b : Bool) : Bool := (classify s b = 1 || classify s b = 2) && !skipped s b
  match ok false, ok true with
  | true, true => some (markLow s false 0x20 < markLow s true 0x20)
  | true, false => some false
  | false, true => some true
  | false, false => none

/-- The next ATTEMPT marker of a bank programmed. -/
def nextAttempt (s : State) (b : Bool) : State :=
  match [0x08, 0x10, 0x18].find? (fun o => !markSet s b o) with
  | some o => programMark b o 0 s
  | none => s

/-- A bank in trial that is not skipped, the lower first. -/
def trialBank (s : State) : Option Bool := [false, true].find? (fun b => classify s b = 3 && !skipped s b)

/-- A trial bank out of attempts is rejected (R388). -/
def rejectSpent (s : State) (b : Bool) : State := logEvent 5 b 5 0 (programMark b 0x28 5 s)

/-- An image failure of the bank chosen (R389). -/
def imageFail (code : Nat) (s : State) : State :=
  let b := s.boot.bank
  let s := updBoot s (fun t => { t with skip := t.skip ||| (1#2 <<< (bankIdx b).val), lastFail := code })
  let s := if s.boot.trial then programMark b 0x28 6 s else s
  resetDevice 8 (logEvent 6 b 6 code s)

/-- A marker that the boot ROM programs in a bank does not verify: that is an image failure of the bank (R403). -/
def markFail (b : Bool) (s : State) : State := imageFail 0 (bootWith b true s)

/-- The choice of R387. -/
def bankChoice (marked : Bool) (s : State) : State :=
  let s := setFwCode true (fwHeaderCode s true) (setFwCode false (fwHeaderCode s false) s)
  let best (s : State) (c : Option Bool) : State := match c with
    | some b => bootWith b false s
    | none => bootNone (if s.boot.lastFail = 0 then fwHeaderCode s false else s.boot.lastFail) s
  if unusable s 6 then bootNone s.boot.lastFail s
  else match trialBank s with
    | some t =>
      if !marked then markFail t s
      else if attemptsOf s t = 3 then best (rejectSpent s t) (bestCommitted s)
      else bootWith t true (nextAttempt s t)
    | none => best s (bestCommitted s)

/-! ## Image failure and release (R389, R390, R394, R398) -/

/-- Whether power-up BIST has ended and the boot ROM works toward a release. -/
def booting (s : State) : Bool := s.bist.tmap.getLsbD 3 && s.boot.bootRom && !s.boot.released && s.boot.level != 3

/-- Whether a required paddock that is not VERIFIED was skipped, for each (R389). -/
def onlySkipped (s : State) : Bool :=
  (idx 8).all (fun p => !s.cfg.reqPdk.getLsbD p.val || !(s.cfg.pdk[p]).empty || (s.cfg.pdk[p]).last = 3)

/-- The boot ROM takes the outcome of the base load (R389). -/
def bootLoadEnd (code : Nat) (s : State) : State :=
  if !booting s then s
  else
    let s := updCfg (updBoot s (fun t => { t with cfgCode := code })) (fun c => { c with baseDone := true })
    if code = 0 || code = 1 || (code = 2 && onlySkipped s) then s else imageFail code s

/-- The state of a key slot: 0 EMPTY, 1 ACTIVE, 2 REVOKED, 3 FAULTY (R395). -/
def otpNum (k : OtpKey) : Nat := if k.revoke then 2 else if k.active then 1 else if k.blank then 0 else 3

/-- BOOT_STAT. -/
def bootStat (t : Boot) : W32 :=
  put t.level 30 ||| putB t.trial 29 ||| putB t.bank 28 ||| putB t.bootRom 27
    ||| putB ((idx 4).all (fun k => otpNum t.otp[k] = 0)) 26 ||| put t.skip.toNat 24 ||| put t.cfgCode 16 ||| put t.fwCode 8
    ||| put t.floor 0

/-- The stack pointer at release: the byte after the lowest SRAM bank that passed (R390). -/
def releaseSp (s : State) : W32 :=
  match (idx 8).find? (fun k => !unusable s (16 + k.val)) with
  | some k => BitVec.ofNat 32 (0x20000000 + 0x10000 * (k.val + 1))
  | none => 0

/-- The level at release (R389, R398). -/
def levelOf (s : State) : Nat :=
  if s.clk.bypass || s.clk.sys.st = .failed then 2
  else if s.bist.umap != 0 || s.boot.cfgCode != 0 then 1 else 0

/-- The groom core starts at an address, unless its domain is isolated (R390). -/
def groomStart (pc : W32) (s : State) : State :=
  if domIsolated s .groom || unusable s 3 then s else updPwr (domUp s .groom) (fun p => { p with groomOn := true, groomPc := pc })

/-- The firmware of the chosen bank is released (R377, R390, R394). -/
def release (s : State) : State :=
  let b := s.boot.bank
  let h := fwHdr s b
  let s := if s.boot.trial then updWdt s .host (fun q => { q with ctrl := merge q.ctrl 0x80000800 0x80003FFF })
    else updBoot s (fun t => { t with floor := max t.floor (u8 h 0x0C) })
  let s := snapBanks (updBoot s (fun t => { t with level := levelOf s, fwCode := 0 }))
  let s := logEvent 1 b 0 s.boot.cfgCode s
  let s := updPwr s (fun p => { p with
    hostOn := true, hostPc := BitVec.ofNat 32 (0x0C000000 + u32 h 0x18), hostSp := releaseSp s, hostA0 := bootStat s.boot })
  let s := updBoot s (fun t => { t with bootRom := false, skip := 0, released := true, lastFail := 0 })
  if u16 h 0x0E % 2 = 1 then groomStart (BitVec.ofNat 32 (0x0C000000 + u32 h 0x1C)) s else s

/-! ## The check engine (R384) -/

/-- The engine ends on a bank with a code; the boot ROM's full check of the bank it chose releases or fails it (R389, R390). -/
def fwFinish (b full : Bool) (code : Nat) (s : State) : State :=
  let s := setFwCode b code (updBoot s (fun t => { t with fw := .idle, digest := fwDigest s b full }))
  if full && booting s && s.cfg.baseDone && s.boot.bank = b then
    (if code = 0 then release s else imageFail code (updBoot s (fun t => { t with fwCode := code })))
  else s

/-- FW_CHECK_END: the check ends, or stops at step 10 with WAIT = 1 while the PKV is unusable (R384). -/
def execFwCheckEnd (s : State) : Host.Outcome State Fault Refusal :=
  .next (match s.boot.fw with
    | .busy b full =>
      if full && !pkvUsable s && fwTo9 s b = 0 then
        updBoot s (fun t => { t with fw := .wait b, digest := fwDigest s b true })
      else fwFinish b full (fwCheck s b full) s
    | .confirmed b pass => fwFinish b true (if pass then fwStep11 s b else 0x67) s
    | _ => s)

/-- BOOT_FWCHK: HEADER and FULL start the engine, CONFIRM ends its wait; only while BOOTROM reads 1 (R384). ARG and BANK keep
what was written (R405). -/
def effFwchk (d : W32) (s : State) : State :=
  let b := bit d 0
  let s := updBoot s (fun t => { t with fwArg := d &&& 0x11 })
  if !s.boot.bootRom then s
  else match fld d 9 8, s.boot.fw with
    | 1, .idle => updBoot s (fun t => { t with fw := .busy b false })
    | 2, .idle => updBoot s (fun t => { t with fw := .busy b true })
    | 3, .wait k => updBoot s (fun t => { t with fw := .confirmed k (bit d 4) })
    | _, _ => s

/-! ## Flash commands (R381, R382) -/

/-- The bank and offset of a flash address. -/
def flashLoc (a : Nat) : Option (Bool × Nat) :=
  if 0x08000000 ≤ a ∧ a < 0x08100000 then some (false, a - 0x08000000)
  else if 0x08100000 ≤ a ∧ a < 0x08200000 then some (true, a - 0x08100000)
  else none

/-- Whether a command is refused with PROT (R381). -/
def flashProt (s : State) (m : Mid) (b : Bool) (off : Nat) : Bool :=
  let status := 0xCF000 ≤ off && off < 0xD0000
  (s.boot.released && b = s.boot.bank && off < 0xE8000)
    || (status && !(s.boot.bootRom && m = .hostS))
    || (s.boot.trial && b != s.boot.bank)

/-- A flash command ends with a result. -/
def flashEnd (res : Nat) (s : State) : State := updBoot s (fun t => { t with flRun := none, flDone := true, flRes := res })

/-- BOOT_FL_CMD: none is SLVERR while BUSY (R382). An entry to SLUMBER fences it (R328, log 79). -/
def effFlCmd (m : Mid) (d : W32) (s : State) : Option State :=
  let op := fld d 1 0
  if s.boot.flRun.isSome then none
  else if op = 0 || op = 3 then some s
  else match flashLoc s.boot.flAddr.toNat with
    | none => some (flashEnd 3 s)
    | some (b, off) =>
      if flashProt s m b off then some (flashEnd 1 s)
      else some (updBoot (fence s) (fun t => { t with
        flRun := some { erase := op = 2, addr := t.flAddr, lo := t.flLo, hi := t.flHi }, flDone := false }))

/-- The memory that an erase sets to 0xFF, as ranges (R380, R381). -/
def eraseRanges (l : List (Nat × Nat)) (m : Mem) : Mem := l.foldl (fun m r => m.clear r.1 (r.1 + r.2)) m

/-- The command in progress ends; `verify` is that the array read back as written. A PROGRAM of a doubleword that is not erased
fails it (R382). -/
def flashFinish (verify : Bool) (s : State) : State :=
  match s.boot.flRun with
  | none => s
  | some f =>
    let a := f.addr.toNat / 8 * 8
    let good := verify && (f.erase || (s.mem.readN a 8).all (· == 0xFF))
    if !good then flashEnd 2 (hurt (flashHurt f) s)
    else if f.erase then flashEnd 0 { s with mem := eraseRanges (flashHurt f) s.mem }
    else flashEnd 0 { s with mem := s.mem.writeN a (leBytes 4 f.lo.toNat ++ leBytes 4 f.hi.toNat) }

/-- FLASH_DONE (R382). -/
def execFlashDone (verify : Bool) (s : State) : Host.Outcome State Fault Refusal := .next (flashFinish verify s)

/-! ## Services (R391 to R395, R402, R403) -/

/-- A service returns a0, and a1 where it gives a detail. -/
def svcRet (a0 : Nat) (a1 : Option Nat) (s : State) : State :=
  updBoot s (fun t => { t with
    service := BitVec.ofNat 32 a0, service1 := match a1 with | some v => BitVec.ofNat 32 v | none => t.service1 })

/-- Whether a service may run. -/
def svcOpen (m : Mid) (s : State) : Bool := m = .hostS && s.boot.released && s.boot.level != 3

/-- A service runs only for released firmware on the host core (R391). -/
def svc (m : Mid) (f : State → State) (s : State) : Host.Outcome State Fault Refusal :=
  .next (if svcOpen m s then f s else s)

/-- BOOT_TRIAL (R392, R402). -/
def svcTrial (bank opt : W32) (s : State) : State :=
  let b : Bool := bank = 1
  let busy : Bool := match s.boot.flRun with | some f => (flashLoc f.addr.toNat).map Prod.fst == some b | none => false
  if s.boot.trial then svcRet 1 none s
  else if 1 < bank.toNat then svcRet 2 none s
  else if b = s.boot.bank then svcRet 1 none s
  else if busy then svcRet 5 (some 1) s
  else if classify s b = 4 then svcRet 3 none s
  else if fwCheck s b true != 0 then svcRet 4 (some (fwCheck s b true)) (setFwCode b (fwCheck s b true) s)
  else if lyngoCode s b != 0 then svcRet 4 (some (lyngoCode s b)) s
  else
    let s := if markSet s b 0x00 then s else programMark b 0x00 0 s
    let s := snapBanks (logEvent 2 b 0 0 (setFwCode b 0 s))
    if bit opt 0 then resetDevice 8 s else svcRet 0 none s

/-- The floor after an advance to `v`; one that does not verify stops short, no one knows where (R394, R403, log 6). -/
def advanceFloor (v : Nat) (ok : Bool) (s : State) : State :=
  let f := s.boot.floor
  if v ≤ f then s
  else if ok then updBoot s (fun t => { t with floor := v })
  else updBoot { s with free := s.free + 1 } (fun t => { t with floor := f + (Config.freeByte s.free).toNat % (v - f) })

/-- BOOT_COMMIT (R392, R394, R403). -/
def svcCommit (programmed : Bool) (s : State) : State :=
  let b := s.boot.bank
  if !s.boot.trial then svcRet 1 none s
  else
    let s := flashFinish true s
    let s := programMark b 0x20 (min (markLow s (!b) 0x20 + 1) 0xFFFFFFFE) s
    let v := u8 (fwHdr s b) 0x0C
    let ok := programmed || v ≤ s.boot.floor
    let s := advanceFloor v ok s
    let s := snapBanks (logEvent 3 b 0 0 (updBoot s (fun t => { t with trial := false })))
    svcRet (if ok then 0 else 6) none s

/-- BOOT_FALLBACK (R392, R402, R403). -/
def svcFallback (reason : W32) (programmed : Bool) (s : State) : State :=
  let b := s.boot.bank
  if !s.boot.trial then svcRet 1 none s
  else if reason.toNat < 1 || 4 < reason.toNat then svcRet 2 none s
  else
    let s := logEvent 4 b reason.toNat 0 (flashFinish true s)
    resetDevice 8 (if programmed then programMark b 0x28 reason.toNat s else s)

/-- An OTP key slot updated. -/
def updOtp (s : State) (k : Fin 4) (f : OtpKey → OtpKey) : State := updBoot s (fun t => { t with otp := upd t.otp k f })

/-- KEY_PROGRAM (R392, R395, R403). A hash that does not verify is left undefined. -/
def svcKeyProgram (slot addr : W32) (verifies : Bool) (s : State) : State :=
  if h : slot.toNat < 4 then
    let k : Fin 4 := ⟨slot.toNat, h⟩
    if otpNum s.boot.otp[k] != 0 then svcRet 1 none s
    else match dmaRead .hostS addr.toNat 32 s with
      | ((.okay, l), s1) =>
        if verifies then svcRet 0 none (updOtp s1 k (fun o => { o with blank := false, hash := l, active := true }))
        else svcRet 6 none (updOtp { s1 with free := s1.free + 32 } k
          (fun o => { o with blank := false, hash := freeBytes s1.free 32 }))
      | ((.deny, _), s1) => svcRet 7 none s1
      | ((_, _), s1) => svcRet 2 none s1
  else svcRet 2 none s

/-- KEY_REVOKE (R392, R395). -/
def svcKeyRevoke (slot : W32) (s : State) : State :=
  if h : slot.toNat < 4 then
    if u8 (fwHdr s s.boot.bank) 0x0D = slot.toNat then svcRet 1 none s
    else svcRet 0 none (updOtp s ⟨slot.toNat, h⟩ (fun o => { o with revoke := true }))
  else svcRet 2 none s

/-- BOOT_TRIAL (R392). -/
def execBootTrial (m : Mid) (bank opt : W32) (s : State) : Host.Outcome State Fault Refusal := svc m (svcTrial bank opt) s

/-- BOOT_COMMIT (R392). -/
def execBootCommit (m : Mid) (programmed : Bool) (s : State) : Host.Outcome State Fault Refusal := svc m (svcCommit programmed) s

/-- BOOT_FALLBACK (R392). -/
def execBootFallback (m : Mid) (reason : W32) (programmed : Bool) (s : State) : Host.Outcome State Fault Refusal :=
  svc m (svcFallback reason programmed) s

/-- KEY_REVOKE (R392). -/
def execKeyRevoke (m : Mid) (slot : W32) (s : State) : Host.Outcome State Fault Refusal := svc m (svcKeyRevoke slot) s

/-! ## Registers (R405) -/

/-- Who may write a BOOT register: MID 0, and in NONE the debug port too (R401, R405). -/
def bootWriter (s : State) (m : Mid) : Bool := m = .hostS || (s.boot.level = 3 && m = .dbg)

/-- BOOT_GROOM, field by field as R8 has it; START starts a groom core that is not yet running (R390). -/
def effBootGroom (d : W32) (s : State) : State :=
  let old := s.boot.groom
  let vec := if old &&& 0x7FFFFFFE = 0 then d &&& 0x7FFFFFFE else old &&& 0x7FFFFFFE
  let start := bit old 31 || bit d 31
  let s' := updBoot s (fun t => { t with groom := vec ||| putB start 31 })
  if start && !bit old 31 && !s.pwr.groomOn then groomStart (vec <<< 1) s' else s'

/-- A write of a BOOT register; none is SLVERR. -/
def bootWrite (m : Mid) (off : Nat) (d : W32) (s : State) : Option State :=
  let w (f : Boot → Boot) : Option State := some (updBoot s f)
  if !bootWriter s m then none
  else match off with
    | 0x004 => w (fun t => { t with sticky := t.sticky &&& ~~~ (d.setWidth 10) })
    | 0x008 => some (effRstReq d s)
    | 0x064 => w (fun t => { t with force := bit d 0 })
    | 0x068 => some (effBootGroom d s)
    | 0x070 => some (effFwchk d s)
    | 0x080 => w (fun t => { t with flAddr := d &&& 0xFFFFFFF8 })
    | 0x084 => w (fun t => { t with flLo := d })
    | 0x088 => w (fun t => { t with flHi := d })
    | 0x08C => effFlCmd m d s
    | 0x090 => w (fun t => { t with flIe := bit d 16, flDone := t.flDone && !bit d 8 })
    | _ => some s

/-- BOOT_BANK_b. -/
def bankReg (k : Bank) : W32 := put k.state 28 ||| put k.attempts 26 ||| put k.reason 22 ||| put k.secVer 8 ||| put k.fwCode 0

/-- A read of a BOOT register. -/
def bootRead (off : Nat) (s : State) : W32 :=
  let t := s.boot
  if off = 0x000 then bootStat t
  else if off = 0x004 then put t.lastRst 24 ||| t.sticky.setWidth 32
  else if off = 0x010 then bankReg t.banks[0]
  else if off = 0x014 then bankReg t.banks[1]
  else if off = 0x018 then (t.banks[0]).seq
  else if off = 0x01C then (t.banks[1]).seq
  else if off = 0x020 then put t.histCnt 8 ||| put t.histNew 0
  else if h : 0x040 ≤ off ∧ off < 0x060 then t.hist[(off - 0x40) / 4]'(by omega)
  else if off = 0x060 then (idx 4).foldl (fun w k => w ||| put (otpNum t.otp[k]) (2 * k.val)) 0
  else if off = 0x064 then putB (faultLow s) 31 ||| putB t.force 0
  else if off = 0x068 then t.groom
  else if off = 0x070 then
    (match t.fw with | .busy _ _ => put 1 31 | .confirmed _ _ => put 1 31 | .wait _ => put 1 30 | .idle => 0) ||| t.fwArg
  else if off = 0x080 then t.flAddr
  else if off = 0x084 then t.flLo
  else if off = 0x088 then t.flHi
  else if off = 0x090 then putB t.flRun.isSome 31 ||| putB t.flIe 16 ||| putB t.flDone 8 ||| put t.flRes 0
  else if 0x0A0 ≤ off ∧ off < 0x0C0 then wordOf t.digest ((off - 0xA0) / 4)
  else 0

/-- A write of a BOOT register by a command. -/
def bootBus (m : Mid) (off : Nat) (d : W32) (s : State) : Host.Outcome State Fault Refusal :=
  .next (busWrite m .boot (0x40050000 + off) d (bootWrite m off d) s)

/-- BOOT_RST_REQ (R374). -/
def execBootRstReq (m : Mid) (data : W32) (s : State) : Host.Outcome State Fault Refusal := bootBus m 0x008 data s

/-- HEADER_CHECK (R384). -/
def execHeaderCheck (m : Mid) (b : Bool) (s : State) : Host.Outcome State Fault Refusal := bootBus m 0x070 (put 1 8 ||| putB b 0) s

/-- FULL_CHECK (R384). -/
def execFullCheck (m : Mid) (b : Bool) (s : State) : Host.Outcome State Fault Refusal := bootBus m 0x070 (put 2 8 ||| putB b 0) s

/-- FW_CONFIRM (R384). -/
def execFwConfirm (m : Mid) (pass : Bool) (s : State) : Host.Outcome State Fault Refusal :=
  bootBus m 0x070 (put 3 8 ||| putB pass 4) s

/-- PROGRAM (R382). -/
def execProgram (m : Mid) (s : State) : Host.Outcome State Fault Refusal := bootBus m 0x08C 1 s

/-- ERASE (R382). -/
def execErase (m : Mid) (s : State) : Host.Outcome State Fault Refusal := bootBus m 0x08C 2 s

/-- BOOT_GROOM (R390). -/
def execBootGroom (m : Mid) (vec : BitVec 30) (s : State) : Host.Outcome State Fault Refusal :=
  bootBus m 0x068 (put 1 31 ||| (vec.setWidth 32 <<< 1)) s

end Sys2Proof.Machine
end

