-- ==== Sys2Proof/Machine/Bist.lean ====
section
/-!
DEFINITION. Bist: the power-up test, tests on command in slices with save and restore, and the BIST registers (R407 to R423).
-/

namespace Sys2Proof.Machine

open Sys2Proof

/-- The BIST controller updated. -/
def updBist (s : State) (f : Bist → Bist) : State := { s with bist := f s.bist }

/-! ## The power-up test (R408 to R413) -/

/-- The blocks of phase 1. -/
def phase1 : BitVec 64 := 0x0000000000FF0407

/-- The blocks of the later phases. -/
def phases23 : BitVec 64 := 0xFFFFFFFF000003F8

/-- The failures found among the blocks `l`, recorded in turn. -/
def recordFails (l : BitVec 64) (fs : List BistFail) (s : State) : State :=
  (fs.filter (fun f => l.getLsbD f.block.val)).foldl (fun s f => recordFail f.block f.loc s) s

/-- The SRAM banks zeroed by the destructive March (R409). -/
def zeroSram (m : Mem) : Mem := (idx 8).foldl (fun m k => m.zeroBank k) m

/-- Whether the failed map leaves the host core unstarted (R412). -/
def fatalMap (f : BitVec 64) : Bool := f.getLsbD 0 || f.getLsbD 1 || f.getLsbD 2 || (idx 8).all (fun k => f.getLsbD (16 + k.val))

/-- Whether phase 1 can run: reset is released, the core not started, and the SYSPLL has locked or FAILED (R378, R408, R413). -/
def phase1Due (s : State) : Bool :=
  !s.boot.inReset && !s.boot.started && (s.clk.sys.st = .locked || s.clk.sys.st = .failed)

/-- BIST_PHASE_1_END: the host core starts in the boot ROM, or stays unstarted (R408, R412). -/
def execBistPhase1End (fails : List BistFail) (s : State) : Host.Outcome State Fault Refusal :=
  .next (if !phase1Due s then s
    else
      let s := recordFails phase1 fails s
      let s := updBist { s with mem := zeroSram s.mem } (fun b => { b with tmap := phase1 })
      if fatalMap s.bist.fmap then markBlocks s.bist.fmap s
      else updPwr (updBoot s (fun t => { t with started := true, bootNum := t.bootNum + 1 }))
        (fun p => { p with hostOn := true, hostPc := 0 }))

/-- The blocks that a test at 38.4 MHz skips (R413). -/
def skipMap (s : State) : BitVec 64 := if s.clk.sys.st = .failed then bypassMask else 0

/-- POWER_UP_BIST_END: the marks and what depends on them are published, and the boot ROM chooses a bank; `marked` is that the
markers it programs verify (R378, R403, R408, R410). -/
def execPowerUpBistEnd (fails : List BistFail) (us : BitVec 16) (s : State) (marked : Bool := true) : Host.Outcome State Fault Refusal :=
  .next (if !s.boot.started || s.bist.tmap.getLsbD 3 then s
    else
      let l := phases23 &&& ~~~ skipMap s
      let s := recordFails l fails s
      let s := updBist s (fun b => { b with tmap := b.tmap ||| l, puTime := us })
      bankChoice marked (markBlocks (s.bist.fmap ||| skipMap s) s))

/-! ## Tests on command (R409, R414 to R418, R421) -/

/-- Whether a block may be tested on command (R409). -/
def onCommand (i : Nat) : Bool := (0xFFFBF6FF00FF0401#64 : BitVec 64).getLsbD i

/-- The slices of a target; none for a target without slices (R409). -/
def slicesOf (i : Nat) : Option Nat := if i = 10 then some 16 else if 16 ≤ i ∧ i < 24 then some 64 else none

/-- The paddock of a map index. -/
def pdkOfBlock (i : Nat) : Fin 8 := ⟨(i - 32) % 8, Nat.mod_lt _ (by decide)⟩

/-- The condition of a target (R409). -/
def bistCond (s : State) (i : Nat) : Bool :=
  if 32 ≤ i ∧ i < 40 then
    let p := s.cfg.pdk[pdkOfBlock i]
    (p.state = .parked || p.state = .verified) && !p.hold
  else if 51 ≤ i ∧ i < 56 then (s.cry.unit[(i - 51) % 5]'(Nat.mod_lt _ (by decide))).st = .out
  else match i with
    | 41 => (idx 4).all (fun e => !bit (s.echo[e]).ctrl 31)
    | 42 => !bit s.gal.ctrl 31
    | 44 => !bit s.sns.ctrl 1
    | 45 => !bit s.sns.ctrl 2
    | 46 => !bit s.sns.ctrl 3
    | 47 | 48 | 49 => !bit s.trx.ctrl 31
    | 56 => s.pkv.owner = .none && !s.pkv.pend
    | 57 => !bit s.zlk.ctrl 31
    | 58 => !bit s.dli.ctrl 31
    | 59 => !bit s.spis.ctrl 31
    | 60 => !bit (s.uart[(0 : Fin 2)]).ctrl 31
    | 61 => !bit (s.uart[(1 : Fin 2)]).ctrl 31
    | 62 => !bit (s.i2c[(0 : Fin 2)]).ctrl 31
    | 63 => !bit (s.i2c[(1 : Fin 2)]).ctrl 31
    | _ => true

/-- The code of a refusal, 0 for none. A target that is unusable is refused as such, whatever its condition (R415, log 60). -/
def bistDetail (i first last : Nat) (s : State) : Nat :=
  if !onCommand i then 1
  else if unusable s i then 3
  else if !bistCond s i then 2
  else match slicesOf i with
    | some n => if last < first || n ≤ last then 4 else 0
    | none => 0

/-- The domain that a block's test needs. -/
def bistDomain (i : Nat) : Option Domain :=
  if h : 16 ≤ i ∧ i < 24 then some (.sram ⟨i - 16, by omega⟩)
  else if 32 ≤ i ∧ i < 40 then some (.paddock (pdkOfBlock i))
  else if 44 ≤ i ∧ i < 47 then some .sense
  else if 47 ≤ i ∧ i < 50 then some .radio
  else if 50 ≤ i ∧ i < 57 then some .crypto
  else none

/-- A target's domain is powered on demand (R320, R416). -/
def bistWake (i : Nat) (s : State) : State :=
  match bistDomain i with
  | some d => if domReady s d then s else domDemand s d
  | none => s

/-- A test starts. -/
def bistStart (d : W32) (s : State) : State :=
  let i := fld d 21 16
  let sliced : Bool := (slicesOf i).isSome
  let first := if sliced then fld d 13 8 else 0
  let s := bistWake i s
  cutGates (updBist s (fun b => { b with
    run := some { target := ⟨i % 64, Nat.mod_lt _ (by decide)⟩, cur := first, last := if sliced then fld d 5 0 else 0
                  noMark := bit d 30, result := none }
    target := i, slice := first, detail := 0, result := 0 }))

/-- BIST_CMD written: GO, refused or not, and STOP; none is SLVERR (R415, R418). -/
def effBistCmd (m : Mid) (d : W32) (s : State) : Option State :=
  if !(m = .hostS || m = .groom || m = .dbg) then none
  else if s.bist.run.isSome then (if bit d 29 then some (bistAbort s) else none)
  else if bit d 31 then
    match bistDetail (fld d 21 16) (fld d 13 8) (fld d 5 0) s with
    | 0 => some (bistStart d s)
    | e => some (updBist s (fun b => { b with detail := e, result := 3, evt := withBit b.evt 0 true }))
  else some s

/-- The units whose contents a test saves: address and length (R414). -/
def bistUnits (i cur : Nat) : List (Nat × Nat) :=
  if i = 10 then [(0x28000000 + 1024 * cur, 1024)]
  else if 16 ≤ i ∧ i < 24 then [(0x20000000 + (i - 16) * 0x10000 + 1024 * cur, 1024)]
  else if 32 ≤ i ∧ i < 40 then [(0x40101000 + (i - 32) * 0x800, 1024), (0x40101400 + (i - 32) * 0x800, 1024)]
  else if i = 56 then [(0x40310040, 160)]
  else []

/-- Whether the gates permit MID 7 to read and write every 32 bytes of a unit. -/
def unitPermitted (s : State) (u : Nat × Nat) : Bool :=
  (List.range (u.2 / 32)).all (fun j =>
    let a := u.1 + 32 * j
    match decodeTarget a with
    | some t => gatePermits s .bist t a .read && gatePermits s .bist t a .write
    | none => false)

/-- The contents of a unit as they are copied to the save area. -/
def unitBytes (s : State) (i : Nat) (u : Nat × Nat) : List Byte :=
  if i = 56 then bytesOf s.pkv.qx ++ bytesOf s.pkv.qy ++ bytesOf s.pkv.e ++ bytesOf s.pkv.r ++ bytesOf s.pkv.s
  else if 32 ≤ i ∧ i < 40 then
    (List.range (u.2 / 4)).flatMap (fun j =>
      match windowIdx 32 0x200 (u.1 + 4 * j - 0x40101000) with
      | some n => leBytes 4 (stallRead n ((u.1 + 4 * j - 0x40101000) % 0x200) s).toNat
      | none => [])
  else s.mem.readN u.1 u.2

/-- A unit copied to the save area. -/
def saveUnit (i : Nat) (u : Nat × Nat) (s : State) : State := { s with mem := s.mem.writeN 0x40020800 (unitBytes s i u) }

/-- An undefined word (log 6). -/
def freeWord (k : Nat) : W32 := BitVec.ofNat 32 (leNat (freeBytes k 4))

/-- A stall's settings left undefined. -/
def hurtStall (n : Fin 32) (s : State) : State :=
  (List.range 128).foldl (fun s j =>
    if j = 0 || stallMask (4 * j) = 0 then s
    else stallTake .cfg n (4 * j) 0 (freeWord s.free &&& stallMask (4 * j)) { s with free := s.free + 4 }) s

/-- The P-256 operands left undefined. -/
def hurtOperands (s : State) : State :=
  (idx 5).foldl (fun s q => (idx 8).foldl (fun s j =>
    updPkv { s with free := s.free + 4 } (setOperand q j (freeWord s.free))) s) s

/-- A unit whose contents could not be written back, or of which the spec does not say that they were (R414, R418, log 6). -/
def hurtUnit (i cur : Nat) (s : State) : State :=
  if i = 56 then hurtOperands s
  else if 32 ≤ i ∧ i < 40 then (stallsOf (pdkOfBlock i)).foldl (fun s n => hurtStall n s) s
  else hurt (bistUnits i cur) s

/-- A run's current unit and result. -/
def setRun (r : BistRun) (s : State) : State := updBist s (fun b => { b with run := some r, slice := r.cur })

/-- CLK_YARD cycles between two slices; a GAP below 20 acts as 20 (R414, R423). -/
def gapCyc (s : State) : Nat := max (fld s.bist.gap 15 0) 20 * 768 / 5

/-- What a unit's test gives: the test goes on with the next slice, or has its result (R414, R421). -/
def unitDone (r : BistRun) (u : UnitResult) (s : State) : State :=
  match u with
  | .pass => setRun (if r.cur < r.last then { r with cur := r.cur + 1, gap := gapCyc s } else { r with result := some 1 }) s
  | .fail loc => setRun { r with result := some 2 } (recordFail r.target loc (hurtUnit r.target.val r.cur s))
  | .restore => setRun { r with result := some 6 } (hurtUnit r.target.val r.cur s)
  | .busError => setRun { r with result := some 2, noMark := true } (recordFail r.target 0xFF00 s)

/-- SLICE: once GAP has passed, the next unit is checked at the gate, saved, tested, restored and compared; a target without slices is one unit
(R414, R421). -/
def execSlice (u : UnitResult) (s : State) : Host.Outcome State Fault Refusal :=
  .next (match s.bist.run with
    | none => s
    | some r =>
      let i := r.target.val
      if r.result.isSome || r.gap != 0 || (u = .restore && bistUnits i r.cur = []) then s
      else
        let s := bistWake i s
        if !(bistUnits i r.cur).all (unitPermitted s) then setRun { r with result := some 4 } s
        else unitDone r u ((bistUnits i r.cur).foldl (fun s w => saveUnit i w s) s))

/-- BIST_DONE: the test ends with the result of its units (R417). -/
def execBistDone (s : State) : Host.Outcome State Fault Refusal :=
  .next (match s.bist.run with
    | some r => match r.result with
      | some c => bistEnd r c s
      | none => s
    | none => s)

/-! ## Registers (R423) -/

/-- A BIST register written; none is SLVERR (R414, R423). -/
def bistWrite (m : Mid) (off : Nat) (d : W32) (s : State) : Option State :=
  if 0x800 ≤ off ∧ off < 0xC00 then none
  else match off with
    | 0x000 => effBistCmd m d s
    | 0x008 => some (updBist s (fun b => { b with evt := b.evt &&& ~~~ d }))
    | 0x00C => some (updBist s (fun b => { b with evtEn := d &&& 3 }))
    | 0x010 => some (updBist s (fun b => { b with gap := d &&& 0xFFFF }))
    | _ => some s

/-- Half `h` of a map. -/
def mapWord (w : BitVec 64) (h : Nat) : W32 := (w >>> (32 * h)).setWidth 32

/-- The maps once power-up BIST has published them (R408). -/
def bistShown (s : State) (w : BitVec 64) : BitVec 64 := if s.bist.tmap.getLsbD 3 then w else 0

/-- A BIST register read (R423). -/
def bistRead (off : Nat) (s : State) : W32 :=
  let b := s.bist
  if 0x800 ≤ off ∧ off < 0xC00 then s.mem.word (0x40020000 + off)
  else match off with
    | 0x004 => putB b.run.isSome 31 ||| put b.detail 24 ||| put b.result 16 ||| put b.target 8 ||| put b.slice 0
    | 0x008 => b.evt
    | 0x00C => b.evtEn
    | 0x010 => b.gap
    | 0x014 => b.puTime.setWidth 32
    | 0x018 => if s.bist.tmap.getLsbD 3 then b.fail else 0
    | 0x020 => mapWord (bistShown s b.umap) 0
    | 0x024 => mapWord (bistShown s b.umap) 1
    | 0x028 => mapWord (bistShown s b.fmap) 0
    | 0x02C => mapWord (bistShown s b.fmap) 1
    | 0x030 => mapWord (bistShown s b.tmap) 0
    | 0x034 => mapWord (bistShown s b.tmap) 1
    | 0x038 => mapWord b.prev 0
    | 0x03C => mapWord b.prev 1
    | _ => 0

/-- BIST_GO (R415). -/
def execBistGo (m : Mid) (data : W32) (s : State) : Host.Outcome State Fault Refusal :=
  .next (busWrite m .bist 0x40020000 (data ||| put 1 31) (bistWrite m 0 (data ||| put 1 31)) s)

/-- BIST_STOP (R418). -/
def execBistStop (m : Mid) (s : State) : Host.Outcome State Fault Refusal :=
  .next (busWrite m .bist 0x40020000 (put 1 29) (bistWrite m 0 (put 1 29)) s)

end Sys2Proof.Machine
end

