-- ==== Sys2Proof/Machine/Outputs.lean ====
section
/-!
DEFINITION. Outputs: PWM periods, over-current trips, retries, and the commands that write the guard (R139 to R145, R151,
R152, R166).
-/

namespace Sys2Proof.Machine

open Sys2Proof

/-- PER of the PWM settings in force. -/
def pwmPer (t : Stall) : Nat := fld (pwmOf t) 31 16

/-- The on-time of a period and the dither accumulator after it (R139). -/
def onTimeOf (t : Stall) : Nat × BitVec 20 :=
  let x := d20Of t * pwmPer t
  if bit (outOf t) 29 then ((t.acc.toNat + x) / 2 ^ 20, BitVec.ofNat 20 (t.acc.toNat + x))
  else ((rhaDiv (x : Int) 1048576).toNat, t.acc)

/-- RUN at the end of a period: zero after a period in which the gate rose and did not trip (R145). -/
def periodEnd (t : Stall) : Stall := { t with ocRun := if t.onTime != 0 && !t.tripped then 0 else t.ocRun }

/-- The PWM base at which a period of a stall begins in this CLK_YARD cycle, if one does (R139). -/
def periodBase (s : State) (t : Stall) : Option Nat :=
  ((List.range 4).map (s.lpe.pwmBase + ·)).find? (fun b => ((b : Int) - (fld (pwmOf t) 15 0 : Nat)) % (pwmPer t : Nat) = 0)

/-- PWM_PERIOD_START: the period of a stall in PWM mode ends and the next begins (R139, R140, R142, R145). -/
def execPwmPeriodStart (n : Fin 32) (s : State) : Host.Outcome State Fault Refusal :=
  .next (let b := periodBase s s.stl[n]
    if b.isNone || b = (s.stl[n]).periodAt || !domReady s .yard then s
    else updStl s n (fun t =>
      if fld (outOf t) 31 30 != 1 then t
      else
        let t := { periodEnd t with periodAt := b }
        if drives s n then
          let r := onTimeOf t
          { t with onTime := r.1, acc := r.2, gate := r.1 != 0, tripped := false, rise := if r.1 = 0 then t.rise else s.time }
        else gateLow t))

/-- The cause that a trip leaves pending: SHORT_RAMP while RAMPING, else OC (R145). -/
def tripCause (t : Stall) : Nat := if ramping t then 2 else 1

/-- Whether the count is complete (R145). -/
def countDone (t : Stall) : Bool := if ramping t then 3 ≤ t.ocRun else fld (protOf t) 11 8 + 1 ≤ t.ocRun

/-- The range of a stall's slot in µV (R80, R143). -/
def rangeUv (s : State) (n : Fin 32) : Int :=
  if slotRange s.sns.adl[laneOf n] (n.val % 2 = 1) then 100000 else 25000

/-- Whether CSPn − CSNn, in µV, exceeds the comparator's threshold (R143). -/
def overCurrent (s : State) (n : Fin 32) (uv : Int) : Bool :=
  ((fld (protOf s.stl[n]) 29 24 + 1 : Nat) : Int) * rangeUv s n < 32 * uv

/-- Whether the blanking interval is over: 40 × (BLANK + 1) ns from the gate's rise or the stall's enabling (R144). -/
def blankOver (s : State) (t : Stall) : Bool := 6144 * (fld (protOf t) 19 16 + 1) ≤ 1000 * (s.time - t.rise)

/-- Whether the gate has risen in this period and not tripped, or LINEAR drives it. -/
def gateUp (s : State) (n : Fin 32) : Bool := drives s n && ((s.stl[n]).gate || fld (outOf s.stl[n]) 31 30 = 2)

/-- OC_TRIP: CSPn − CSNn as it crosses, in µV. Beyond the threshold and after blanking, while the gate is driven, it makes a tripped
period, or a LINEAR trip (R143, R144, R145). -/
def execOcTrip (n : Fin 32) (s : State) (uv : Int := 0) : Host.Outcome State Fault Refusal :=
  .next (if gateUp s n && overCurrent s n uv && blankOver s s.stl[n] then
    updStl s n (fun t =>
      let lin := fld (outOf t) 31 30 = 2
      let t := { t with
        gate := false, dac := 0, volt := 0, tripped := true, ocTrips := satInc t.ocTrips 65535
        ocRun := if lin then t.ocRun else satInc t.ocRun 31 }
      if lin || countDone t then { t with pendC := some (tripCause t) } else t)
  else s)

/-- RETRY: WAIT has reached zero and a tick boundary comes in a LIVE paddock: ACTIVE clears, EN sets, and the stall re-enters
(R151). It aborts an entry to SLUMBER (R325). -/
def execRetry (n : Fin 32) (s : State) : Host.Outcome State Fault Refusal :=
  .next (if (s.stl[n]).retryPend && (s.stl[n]).waitCyc = 0 && pdkState s (pdkOf n) = .live && stallOn s n && tickNow s then
    updStl (fence s) n (fun t =>
      enableStall true s.time (some s.lpe.tick) { t with active := false, retryPend := false, waitCyc := 0 })
  else s)

/-- RETRY_USED_RESET: the stall has run for 10 s without entering FAULT (R151). -/
def execRetryUsedReset (n : Fin 32) (s : State) : Host.Outcome State Fault Refusal :=
  .next (if (s.stl[n]).en && !(s.stl[n]).active && 10000 * msCyc ≤ (s.stl[n]).runCyc then
    updStl s n (fun t => { t with used := 0, runCyc := 0 })
  else s)

/-- FAULT_CLR: a write of STL_n_FAULT with CLR = 1 (R152). -/
def execFaultClr (m : Mid) (n : Fin 32) (data : W32) (s : State) : Host.Outcome State Fault Refusal :=
  .next (stallCmd m n 0xD0 (withBit data 30 true) s)

/-- OC_CNT_CLR: a write of STL_n_OC_CNT with CLR = 1 (R166). -/
def execOcCntClr (m : Mid) (n : Fin 32) (s : State) : Host.Outcome State Fault Refusal :=
  .next (stallCmd m n 0xF8 0x80000000 s)

end Sys2Proof.Machine
end

