-- ==== Sys2Proof/Machine/Gallery.lean ====
section
/-!
DEFINITION. Gallery: records, triggers, captures and registers of the gallery (R157 to R164, R168).
-/

namespace Sys2Proof.Machine

open Sys2Proof

/-- The gallery updated. -/
def updGal (s : State) (f : Gal → Gal) : State := { s with gal := f s.gal }

/-- NP. -/
def galNp (g : Gal) : Nat := fld g.ctrl 3 0

/-- The records the ring holds (R158). -/
def galDepth (g : Gal) : Nat := 16384 / galNp g

/-- The stall and the signal of probe `i`. -/
def probeOf (g : Gal) (i : Fin 8) : Fin 32 × Nat :=
  (⟨fld (g.probe[i]) 12 8 % 32, Nat.mod_lt _ (by decide)⟩, fld (g.probe[i]) 5 0)

/-- The value of probe `i` now. -/
def probeVal (s : State) (i : Fin 8) : Int := signalOf s (probeOf s.gal i).1 (probeOf s.gal i).2

/-- The word of probe `i` in this record (R158). -/
def recordWord (s : State) (i : Fin 8) : W32 :=
  let t := s.stl[(probeOf s.gal i).1]
  putB t.lastMiss 31 ||| putB t.active 30 ||| putB t.sawSat 29 ||| put (s.gal.count % 32) 24
    ||| put24 (BitVec.ofInt 24 (probeVal s i))

/-- Whether trigger `k` is met at this record (R159). -/
def trigMet (s : State) (k : Fin 4) : Bool :=
  let g := s.gal
  let i : Fin 8 := ⟨fld (g.tc[k]) 26 24 % 8, Nat.mod_lt _ (by decide)⟩
  let v := probeVal s i
  let lv := s24 g.tl[k]
  let t := s.stl[(probeOf g i).1]
  match fld (g.tc[k]) 31 29 with
  | 1 => lv < v
  | 2 => v < lv
  | 3 => g.count != 0 && g.prev[i] ≤ lv && lv < v
  | 4 => g.count != 0 && lv ≤ g.prev[i] && v < lv
  | 5 => t.sawFault
  | 6 => t.sawMiss
  | 7 => t.sawScene
  | _ => false

/-- The triggers met at this record, bits 4:0 (R159). -/
def trigMask (s : State) : Nat :=
  ((idx 4).map (fun k => if trigMet s k then 2 ^ k.val else 0)).sum + (if s.gal.forced then 16 else 0)

/-- Whether trigger `k` is in a mask. -/
def inMask (m k : Nat) : Bool := m.testBit k

/-- The primary trigger of a trigger record, if this record is one, and whether the sequence is armed after it (R160, R161). -/
def primary (g : Gal) (m : Nat) : Option Nat × Bool :=
  if bit g.ctrl 30 then
    let a := inMask m (fld g.seq 2 0)
    let b := inMask m (fld g.seq 6 4)
    let done := b && (g.seqArmed || (a && bit g.ctrl 29))
    (if inMask m 4 then some 4 else if done then some (fld g.seq 6 4) else none, g.seqArmed || a)
  else ((List.range 5).find? (inMask m), false)

/-- The record written to gallery RAM, word by word; a refused write is dropped and sets WERR (R158, R164). -/
def writeRecord (s : State) : State :=
  ((idx 8).filter (fun i => i.val < galNp s.gal)).foldl (fun q i =>
    let a := 0x40120000 + (s.gal.wptr * galNp s.gal + i.val) * 4
    match dmaWrite .lpe a (leBytes 4 (recordWord s i).toNat) q with
    | ((.okay, _), q') => q'
    | (_, q') => updGal q' (fun g => { g with werr := true })) s

/-- What the gallery sees of the stalls is noted anew from this record on. -/
def clearSeen (s : State) : State :=
  { s with stl := (idx 32).foldl (fun v n => upd v n (fun t =>
      { t with sawFault := false, sawMiss := false, sawScene := false, sawSat := false })) s.stl }

/-- The header of a capture (R160). -/
def capture (idx0 m prim : Nat) (tick : W32) (g : Gal) : Gal :=
  { g with
    triggered := true, evt := withBit g.evt 0 true
    capMask := put prim 8 ||| put m 0
    capIdx := idx0
    capPre := min (min g.count (fld g.pre 13 0)) (galDepth g - 1)
    capTick := tick
    left := some (galDepth g - fld g.pre 13 0 - 1) }

/-- The capture ends (R160). -/
def captureDone (g : Gal) : Gal :=
  { g with ctrl := withBit g.ctrl 31 false, done := true, evt := withBit g.evt 1 true, left := none }

/-- A record: its words written, its triggers evaluated until one is met, and the ring advanced (R157 to R161). -/
def galRecord (s : State) : State :=
  let m := trigMask s
  let q := writeRecord s
  let tick := s.lpe.tick
  updGal (clearSeen q) (fun g =>
    let at0 := g.wptr
    let pr := primary g m
    let h := match g.left, pr.1 with
      | none, some p => capture at0 m p tick { g with forced := false }
      | none, none => { g with seqArmed := pr.2, forced := false }
      | some k, _ => { g with left := some (k - 1), forced := false }
    { h with
      wptr := (at0 + 1) % galDepth g
      count := g.count + 1
      prev := Vector.ofFn (fun i => probeVal s i) })

/-- The clock stall (R157, R168). -/
def galClk (g : Gal) : Fin 32 := ⟨fld g.ctrl 20 16 % 32, Nat.mod_lt _ (by decide)⟩

/-- The CLK_YARD cycles from a sample tick's boundary to a stall's nominal update instant: 2.808 or 5.290 µs (R79) and DEADLINE
(R118). -/
def nominalUpdate (t : Stall) (n : Fin 32) : Nat :=
  (if n.val % 2 = 1 then 5290 else 2808) * 1536 / 10000 + fld t.timing 29 24 * 1536 / 10

/-- The sample tick of the clock stall whose nominal update instant came last (R157). -/
def recordTick (s : State) : Option W32 :=
  let n := galClk s.gal
  let t := s.stl[n]
  (List.range 212).findSome? (fun k =>
    let w := s.lpe.tick - BitVec.ofNat 32 k
    if sampleTick t w.toNat && nominalUpdate t n ≤ tickLen * k + (tickLen - s.lpe.tickDue) then some w else none)

/-- GALLERY_RECORD: a nominal update instant of the clock stall; every (DEC + 1)-th makes a record while the gallery is armed
and its capture not complete (R157). -/
def execGalleryRecord (s : State) : Host.Outcome State Fault Refusal :=
  .next (let w := recordTick s
    if !(lpeOn s && bit s.gal.ctrl 31 && !unusable s 42 && s.gal.left != some 0) || w.isNone || w = s.gal.recAt then s
    else
      let s := updGal s (fun g => { g with recAt := w })
      if s.gal.skip < fld s.gal.ctrl 15 8 then updGal s (fun g => { g with skip := g.skip + 1 })
      else updGal (galRecord s) (fun g => { g with skip := 0 }))

/-- CAPTURE_END: the last record of a capture is written: ARM clears, DONE and FULL set (R160). -/
def execCaptureEnd (s : State) : Host.Outcome State Fault Refusal :=
  .next (if bit s.gal.ctrl 31 && s.gal.left = some 0 then updGal s captureDone else s)

/-! ## Registers (R162, R168) -/

/-- GAL_CTRL: arming starts a new capture (R162, R168). -/
def effGalCtrl (d : W32) (s : State) : Option State :=
  let v := d &&& 0xE01FFF0F
  if bit s.gal.ctrl 31 || fld v 3 0 = 0 || 8 < fld v 3 0 then none
  else if bit v 31 then
    some (clearSeen (updGal s (fun g => { g with
      ctrl := v, wptr := 0, triggered := false, done := false, capMask := 0, capIdx := 0, capPre := 0, capTick := 0
      count := 0, skip := 0, seqArmed := false, left := none, recAt := recordTick s })))
  else some (updGal s (fun g => { g with ctrl := v }))

/-- GAL_CMD (R159, R168): STOP disarms at once; FORCE is met at the first record after it. -/
def effGalCmd (d : W32) (s : State) : State :=
  let s := if bit d 0 then updGal s (fun g => { g with forced := true }) else s
  if bit d 1 then updGal s (fun g => { g with ctrl := withBit g.ctrl 31 false, left := none }) else s

/-- A write in the gallery window (R162, R168). -/
def galWrite (off : Nat) (d : W32) (s : State) : Option State :=
  let w (f : Gal → Gal) : Option State := if bit s.gal.ctrl 31 then none else some (updGal s f)
  if off = 0x000 then effGalCtrl d s
  else if off = 0x004 then w (fun g => { g with pre := d &&& 0x3FFF })
  else if off = 0x008 then w (fun g => { g with seq := d &&& 0x77 })
  else if off = 0x00C then some (effGalCmd d s)
  else if off = 0x010 then some (updGal s (fun g => { g with werr := g.werr && !bit d 28 }))
  else if off = 0x014 then some (updGal s (fun g => { g with evt := w1c g.evt d }))
  else if off = 0x018 then some (updGal s (fun g => { g with evtEn := d &&& 3 }))
  else if h : 0x020 ≤ off ∧ off < 0x040 then
    (if sigReserved (fld d 5 0) then none else w (fun g => { g with probe := g.probe.set ((off - 0x20) / 4) (d &&& 0x1F3F) }))
  else if h : 0x040 ≤ off ∧ off < 0x060 then
    (if off % 8 = 0 then w (fun g => { g with tc := g.tc.set ((off - 0x40) / 8) (d &&& 0xE7000000) })
     else w (fun g => { g with tl := g.tl.set ((off - 0x40) / 8) (d &&& 0xFFFFFF) }))
  else some s

/-- A read in the gallery window (R168). -/
def galRead (off : Nat) (s : State) : W32 :=
  let g := s.gal
  if off = 0x000 then g.ctrl
  else if off = 0x004 then g.pre
  else if off = 0x008 then g.seq
  else if off = 0x010 then putB (bit g.ctrl 31) 31 ||| putB g.triggered 30 ||| putB g.done 29 ||| putB g.werr 28 ||| put g.wptr 0
  else if off = 0x014 then g.evt
  else if off = 0x018 then g.evtEn
  else if h : 0x020 ≤ off ∧ off < 0x040 then g.probe[(off - 0x20) / 4]'(by omega)
  else if h : 0x040 ≤ off ∧ off < 0x060 then
    (if off % 8 = 0 then g.tc[(off - 0x40) / 8]'(by omega) else g.tl[(off - 0x40) / 8]'(by omega))
  else if off = 0x060 then g.capMask
  else if off = 0x064 then put g.capIdx 0
  else if off = 0x068 then put g.capPre 0
  else if off = 0x06C then g.capTick
  else 0

/-- GALLERY_ARM: a write of GAL_CTRL with ARM = 1 (R168). -/
def execGalleryArm (m : Mid) (data : W32) (s : State) : Host.Outcome State Fault Refusal :=
  .next (busWrite m .gal 0x40110000 (withBit data 31 true) (galWrite 0 (withBit data 31 true)) s)

/-- FORCE: a write of GAL_CMD.FORCE (R159). -/
def execForce (m : Mid) (s : State) : Host.Outcome State Fault Refusal :=
  .next (busWrite m .gal 0x4011000C 1 (galWrite 0x0C 1) s)

/-- GAL_STOP: a write of GAL_CMD.STOP (R168). -/
def execGalStop (m : Mid) (s : State) : Host.Outcome State Fault Refusal :=
  .next (busWrite m .gal 0x4011000C 2 (galWrite 0x0C 2) s)

end Sys2Proof.Machine
end

