-- ==== Sys2Proof/Machine/Pio.lean ====
section
/-!
DEFINITION. Pio: the registers of the general-purpose pins, the masked windows, edges and hold latches (R358 to R373).
-/

namespace Sys2Proof.Machine

open Sys2Proof

/-- The pins updated; a keeper keeps the level its node now has (R362). -/
def updPio (s : State) (f : Pio → Pio) : State :=
  let t := { s with pio := f s.pio }
  { t with pio := { t.pio with keep := pioIn t } }

/-- Bit `i` of a pin word. -/
def withPin (w : BitVec 24) (i : Fin 24) (b : Bool) : BitVec 24 := if b then w ||| (1#24 <<< i.val) else w &&& ~~~ (1#24 <<< i.val)

/-- The latch after a masked write of group `g` (R364). -/
def maskedOut (out : BitVec 24) (g : Fin 3) (mask : Byte) (d : W32) : BitVec 24 :=
  let m : BitVec 24 := (mask.setWidth 24) <<< (8 * g.val)
  let v : BitVec 24 := ((d.setWidth 8).setWidth 24) <<< (8 * g.val)
  (out &&& ~~~ m) ||| (v &&& m)

/-- Whether the pads are latched by a SLUMBER whose wake sequence has not ended (R368). -/
def wakeRuns (p : Pwr) : Bool :=
  p.state = .slumber || (match p.move with | .entering .slumber _ => true | _ => false)

/-- PIO_HOLDREL: accepted after the wake sequence has ended (R368). -/
def effHoldrel (d : W32) (s : State) : State :=
  if wakeRuns s.pwr then s
  else updPio s (fun p => { p with hold := p.hold &&& ~~~ (d.setWidth 3) })

/-- The function or pin an offset selects. -/
def pinAt (base off : Nat) : Option (Fin 24) := if base ≤ off then windowIdx 24 4 (off - base) else none

/-- The group and mask of a masked window's word (R364). -/
def windowAt (off : Nat) : Option (Fin 3 × Byte) :=
  if 0x400 ≤ off then (windowIdx 3 0x400 (off - 0x400)).map (fun g => (g, BitVec.ofNat 8 (off / 4))) else none

/-- PIO_FSEL_f: 24 to 30 are refused; once MAP is set every write is ignored with OKAY, one of 24 to 30 too (R10, R359, R369; that R369
goes before R359 is the model's choice, log 80). -/
def effFsel (f : Fin 24) (d : W32) (s : State) : Option State :=
  let v := fld d 4 0
  if s.pio.lock then some s
  else if 24 ≤ v ∧ v < 31 then none
  else some (updPio s (fun p => { p with fsel := p.fsel.set f.val v }))

/-- A write of a PIO register; none is SLVERR (R373). -/
def pioWrite (off : Nat) (d : W32) (s : State) : Option State :=
  let v : BitVec 24 := d.setWidth 24
  match windowAt off with
  | some (g, m) => some (updPio s (fun p => { p with out := maskedOut p.out g m d }))
  | none => match pinAt 0x180 off with
    | some i => some (updPio s (fun p => { p with ecfg := p.ecfg.set i.val (d &&& 0x3F00) }))
    | none => match pinAt 0x100 off with
      | some i => if s.pio.lock then some s else some (updPio s (fun p => { p with cfg := p.cfg.set i.val (d &&& 0x3F) }))
      | none => match pinAt 0x080 off with
        | some f => effFsel f d s
        | none => match off with
          | 0x004 => some (updPio s (fun p => { p with out := v }))
          | 0x008 => some (updPio s (fun p => { p with dir := v }))
          | 0x010 => some (updPio s (fun p => { p with evt := p.evt &&& ~~~ v }))
          | 0x014 => some (updPio s (fun p => { p with evtEn := v }))
          | 0x01C => some (effHoldrel d s)
          | 0x020 => some (if bit d 0 then updPio s (fun p => { p with lock := true }) else s)
          | _ => some s

/-- A read of a PIO register (R373); a read of PIO_IN draws the levels that the spec leaves open (log 6). -/
def pioRead (off : Nat) (s : State) : W32 × State :=
  let p := s.pio
  match windowAt off with
  | some (g, m) => ((((p.out >>> (8 * g.val)).setWidth 8) &&& m).setWidth 32, s)
  | none => match pinAt 0x180 off with
    | some i => (p.ecfg[i], s)
    | none => match pinAt 0x100 off with
      | some i => (p.cfg[i], s)
      | none => match pinAt 0x080 off with
        | some f => (put p.fsel[f] 0, s)
        | none => match off with
          | 0x000 => ((pioIn s).setWidth 32, { s with free := s.free + 24 })
          | 0x004 => (p.out.setWidth 32, s)
          | 0x008 => (p.dir.setWidth 32, s)
          | 0x010 => (p.evt.setWidth 32, s)
          | 0x014 => (p.evtEn.setWidth 32, s)
          | 0x018 => (p.hold.setWidth 32, s)
          | 0x020 => (putB p.lock 0, s)
          | 0x024 => (p.strap.setWidth 32, s)
          | _ => (0, s)

/-! ## Edges (R365, R366) -/

/-- The level that an edge shows at a pin's node: an outside driver gives it unless the pad drives it itself. -/
def setNode (i : Fin 24) (level : Bool) (s : State) : State :=
  if padDrive s i = .level level then s else { s with pio := { s.pio with ext := s.pio.ext.set i.val (some level) } }

/-- Whether an edge to a level is in the EDGE direction (R365). -/
def edgeWanted (cfg : W32) (level : Bool) : Bool := if level then bit cfg 12 else bit cfg 13

/-- QUALIFIED_EDGE: the filtered level of a pin changes; in the EDGE direction it sets PIO_EVT, fires its route, and with WAKE
is a wake event, which comes before what the route causes (R332, R365). -/
def execQualifiedEdge (i : Fin 24) (level : Bool) (s : State) : Host.Outcome State Fault Refusal :=
  let cfg := s.pio.ecfg[i]
  .next (if unusable s 7 || !domReady s .yard || s.pio.filt.getLsbD i.val = level then s
    else
      let s := updPio (setNode i level s) (fun p => { p with filt := withPin p.filt i level })
      if edgeWanted cfg level then
        let s := updPio s (fun p => { p with evt := withPin p.evt i true })
        fire (0x20 + i.val) (if bit cfg 11 then wake .pio s else s)
      else s)

/-- SLUMBER_EDGE: two LTICK samples show a new level at a pin sampled in SLUMBER; in the EDGE direction it sets PIO_EVT and is
a wake event, and no route fires (R366). -/
def execSlumberEdge (i : Fin 24) (level : Bool) (s : State) : Host.Outcome State Fault Refusal :=
  let cfg := s.pio.ecfg[i]
  .next (if unusable s 7 || domReady s .yard || !bit cfg 11 || fld cfg 13 12 = 0 || s.pio.filt.getLsbD i.val = level then s
    else
      let s := updPio (setNode i level s) (fun p => { p with filt := withPin p.filt i level })
      if edgeWanted cfg level then wake .pio (updPio s (fun p => { p with evt := withPin p.evt i true })) else s)

/-! ## Commands -/

/-- MASKED_WRITE (R364). -/
def execMaskedWrite (m : Mid) (g : Fin 3) (mask : Byte) (data : W32) (s : State) : Host.Outcome State Fault Refusal :=
  let off := 0x400 + g.val * 0x400 + mask.toNat * 4
  .next (busWrite m .pio (0x40030000 + off) data (pioWrite off data) s)

/-- HOLDREL (R368). -/
def execHoldrel (m : Mid) (mask : BitVec 3) (s : State) : Host.Outcome State Fault Refusal :=
  .next (busWrite m .pio 0x4003001C (mask.setWidth 32) (pioWrite 0x01C (mask.setWidth 32)) s)

/-- MAP: PIO_FSEL_f and PIO_CFG_i are locked until reset (R369). -/
def execMap (m : Mid) (s : State) : Host.Outcome State Fault Refusal :=
  .next (busWrite m .pio 0x40030020 1 (pioWrite 0x020 1) s)

end Sys2Proof.Machine
end

