-- ==== Sys2Proof/Machine/Supply.lean ====
section
/-!
DEFINITION. Supply: the VGD monitor and the thermal cut of the gate drivers (R428 to R430, R442, R444, R445).
-/

namespace Sys2Proof.Machine

open Sys2Proof

/-- The supply monitors updated. -/
def updSup (s : State) (f : Sup → Sup) : State := { s with sup := f s.sup }

/-- Drivers are enabled again: LINEAR outputs rise from 0 V and blanking starts, PWM outputs resume at the next period start (R430,
R442). -/
def ungate (s : State) : State :=
  { s with stl := (idx 32).foldl (fun v n =>
      if drives s n && fld (outOf s.stl[n]) 31 30 = 2 then
        upd v n (fun t => { t with gate := true, rise := s.time })
      else v) s.stl }

/-- VGD_UNDERVOLTAGE: every gate driver is disabled, and the event recorded and counted (R430). -/
def execVgdUndervoltage (s : State) : Host.Outcome State Fault Refusal :=
  .next (if s.sup.vgdUv then s
    else cutGates (updSup s (fun p => { p with vgdUv := true, uvSeen := true, uvCnt := satInc p.uvCnt 65535 })))

/-- VGD_RELEASE: VGD has risen to the release level (R430). -/
def execVgdRelease (s : State) : Host.Outcome State Fault Refusal :=
  .next (if s.sup.vgdUv then ungate (updSup s (fun p => { p with vgdUv := false })) else s)

/-- THERMAL_CUT: the die is above the thermal cut (R430). -/
def execThermalCut (s : State) : Host.Outcome State Fault Refusal :=
  .next (if s.sup.hot then s
    else cutGates (updSup s (fun p => { p with hot := true, hotSeen := true, hotCnt := satInc p.hotCnt 65535 })))

/-- THERMAL_CUT_RELEASE: the die has cooled through the release threshold (R430). -/
def execThermalCutRelease (s : State) : Host.Outcome State Fault Refusal :=
  .next (if s.sup.hot then ungate (updSup s (fun p => { p with hot := false })) else s)

/-- A write of a supply register in SYS (R445). -/
def supWrite (off : Nat) (d : W32) (s : State) : State :=
  match off with
  | 0x900 => updSup s (fun p => { p with uvSeen := p.uvSeen && !bit d 0, hotSeen := p.hotSeen && !bit d 1 })
  | 0x908 => if bit d 0 then updSup s (fun p => { p with uvCnt := 0, hotCnt := 0 }) else s
  | _ => s

/-- A read of a supply register in SYS (R445). -/
def supRead (off : Nat) (s : State) : W32 :=
  let p := s.sup
  match off with
  | 0x900 => putB (!p.vgdUv) 31 ||| putB p.hot 30 ||| putB p.hotSeen 1 ||| putB p.uvSeen 0
  | 0x904 => put p.uvCnt 16 ||| put p.hotCnt 0
  | _ => 0

/-- SUP_CNT_CLR (R445). -/
def execSupCntClr (m : Mid) (s : State) : Host.Outcome State Fault Refusal :=
  .next (busWrite m .sys 0x40000908 1 (fun s => some (supWrite 0x908 1 s)) s)

end Sys2Proof.Machine
end

