-- ==== Sys2Proof/Machine/Sys.lean ====
section
/-!
DEFINITION. Sys: the SYS window: clock registers (R316), watchdogs (R406), the yard's registers (R42), supplies (R445).
-/

namespace Sys2Proof.Machine

open Sys2Proof

/-- A synthesizer's state code (R316). -/
def pllNum : PllState → Nat
  | .off => 0 | .search => 1 | .acquire => 2 | .locked => 3 | .coast => 4 | .failed => 5

/-- LOCK, COAST, BAND and STATE of a synthesizer (R316). -/
def pllStat (x : PllSt) : W32 :=
  putB (x.st = .locked) 31 ||| putB (x.st = .coast) 30 ||| put x.band 16 ||| put (pllNum x.st) 0

/-- SYS_CLK_STAT (R316). -/
def clkStat (c : Clk) : W32 :=
  putB c.xtalOk 31 ||| putB c.xlfOk 30 ||| putB c.bypass 29 ||| putB c.fast 28 ||| putB c.ltXlf 27

/-- A clock register written; none is SLVERR (R316). -/
def clkWrite (off : Nat) (d : W32) (s : State) : Option State :=
  if h : 0x080 ≤ off ∧ off < 0x100 then
    let i : Fin 16 := ⟨(off - 0x80) / 8, by omega⟩
    some (if off % 8 = 0 then effSlkE i d s else effSlkD i d s)
  else match off with
    | 0x004 => some (updClk s (fun c => { c with evt := c.evt &&& ~~~ d }))
    | 0x008 => some (updClk s (fun c => { c with evtEn := d &&& 0x3FF }))
    | 0x00C => effBypass d s
    | 0x010 => some (updClk s (fun c => { c with xtalCfg := d &&& 0xC000003F }))
    | 0x020 => effSysCfg d s
    | 0x030 => effRfCfg d s
    | 0x04C => some (effClkCntClr d s)
    | 0x050 => effSlkCfg d s
    | _ => some s

/-- A clock register read (R316). -/
def clkRead (off : Nat) (s : State) : W32 :=
  let c := s.clk
  if h : 0x080 ≤ off ∧ off < 0x100 then
    let x := c.slk[(off - 0x80) / 8]'(by omega)
    if off % 8 = 0 then put x.upd 24 ||| x.e.setWidth 32 else put x.d 0
  else match off with
    | 0x000 => clkStat c
    | 0x004 => c.evt
    | 0x008 => c.evtEn
    | 0x00C => putB c.bypass 31
    | 0x010 => c.xtalCfg
    | 0x020 => c.sys.cfg
    | 0x024 => pllStat c.sys
    | 0x030 => c.rf.cfg
    | 0x034 => pllStat c.rf ||| put c.rf.path 28
    | 0x038 => put c.nint 24 ||| put c.frac 0
    | 0x048 => put c.cntSysLol 24 ||| put c.cntSysLor 16 ||| put c.cntRfLol 8 ||| put c.cntRfLor 0
    | 0x050 => c.slkCfg
    | 0x054 => putB c.slkValid 31 ||| c.slkLast.setWidth 32
    | 0x058 => c.slkT.setWidth 32
    | 0x05C => (BitVec.ofInt 24 (slkPred c.slk s.sns.temp.toInt)).setWidth 32
    | 0x060 => put (sunc s) 0
    | _ => 0

/-- A register of the SYS window written; none is SLVERR. -/
def sysWrite (off : Nat) (d : W32) (s : State) : Option State :=
  if off < 0x400 then clkWrite off d s
  else if off < 0x420 then some (wdtWrite off d s)
  else if 0x800 ≤ off ∧ off < 0x900 then some (yardWrite off d s)
  else if 0x900 ≤ off ∧ off < 0xA00 then some (supWrite off d s)
  else some s

/-- A register of the SYS window read. -/
def sysRead (off : Nat) (s : State) : W32 :=
  if off < 0x400 then clkRead off s
  else if off < 0x420 then wdtRead off s
  else if 0x800 ≤ off ∧ off < 0x900 then yardRead off s
  else if 0x900 ≤ off ∧ off < 0xA00 then supRead off s
  else 0

end Sys2Proof.Machine
end

