-- ==== Sys2Proof/Machine/Registers.lean ====
section
/-!
DEFINITION. Registers: what each target does with a read or a write (R8, R9, R22 to R24, R381, R414).
-/

namespace Sys2Proof.Machine

open Sys2Proof

/-- The offset of an address in its target's window. -/
def targetOff (t : Target) (a : Nat) : Nat :=
  match t with
  | .sys => a % 0x4000
  | .stall _ => (a - 0x40101000) % 0x200
  | .pdk _ => a % 0x100
  | _ => a % 0x1000

/-- A register target takes a 32-bit write: whether it is accepted (else SLVERR), and the state after it. -/
def regWrite (m : Mid) (t : Target) (off : Nat) (d : W32) (s : State) : Bool × State :=
  let f (g : State → Option State) : Bool × State := accepted g s
  match t with
  | .sys => f (sysWrite off d)
  | .pwr => f (pwrWrite m off d)
  | .act => f (actWrite m off d)
  | .bist => f (bistWrite m off d)
  | .pio => f (pioWrite off d)
  | .cfg => (true, cfgWrite m off d s)
  | .boot => f (bootWrite m off d)
  | .irq => f (irqWrite off d)
  | .lpe => lpeWrite off d s
  | .stall n => stallWrite m n off d s
  | .pdk p => f (pdkWrite m p off d)
  | .echo => f (echoWrite off d)
  | .gal => f (galWrite off d)
  | .sns => f (snsWrite off d)
  | .trx => f (trxWrite off d)
  | .rgy => f (rgyWrite m off d)
  | .cry => f (cryWrite m off d)
  | .pkv => f (pkvWrite off d)
  | .zlk => f (zlkWrite off d)
  | .dli => f (dliWrite off d)
  | .spis => f (spisWrite m off d)
  | .uart u => f (uartWrite u off d)
  | .i2c i => f (i2cWrite i off d)
  | .brom | .flash _ | .window | .sram _ | .loft | .galRam => (false, s)

/-- A register target takes a 32-bit read; none is SLVERR. -/
def regRead (m : Mid) (t : Target) (off : Nat) (s : State) : Option W32 × State :=
  let p (w : W32) : Option W32 × State := (some w, s)
  let q (r : W32 × State) : Option W32 × State := (some r.1, r.2)
  match t with
  | .sys => p (sysRead off s)
  | .pwr => p (pwrRead off s)
  | .act => p (actRead off s)
  | .bist => p (bistRead off s)
  | .pio => q (pioRead off s)
  | .cfg => p (cfgReadReg off s)
  | .boot => p (bootRead off s)
  | .irq => q (irqRead off s)
  | .lpe => lpeRead off s
  | .stall n => p (stallRead n off s)
  | .pdk n => p (pdkRead n off s)
  | .echo => p (echoRead off s)
  | .gal => p (galRead off s)
  | .sns => p (snsRead off s)
  | .trx => q (trxRead off s)
  | .rgy => p (rgyRead off s)
  | .cry => p (cryRead off s)
  | .pkv => p (pkvRead off s)
  | .zlk => q (zlkRead off s)
  | .dli => p (dliRead off s)
  | .spis => q (spisRead m off s)
  | .uart u => q (uartRead u off s)
  | .i2c i => q (i2cRead i off s)
  | .brom | .flash _ | .window | .sram _ | .loft | .galRam => (none, s)

/-- Whether an address suits a transaction's size (R22). -/
def alignedTo (a : Nat) (z : Size) : Bool := a % sizeBytes z = 0

/-- What a target does with a write. The data of a narrow write are its low bits (log 4). -/
def performWrite (m : Mid) (t : Target) (a : Nat) (z : Size) (d : W32) (s : State) : Bool × State :=
  if !alignedTo a z then (false, s)
  else if isMemory t then
    (if storable t then (true, { s with mem := s.mem.writeN a (leBytes (sizeBytes z) d.toNat) }) else (false, s))
  else if z = .b32 then regWrite m t (targetOff t a) d s
  else (false, s)

/-- What a target does with a read or a fetch; a register target takes no fetch, as the gates see to (R344). -/
def performRead (m : Mid) (t : Target) (a : Nat) (z : Size) (s : State) : Option W32 × State :=
  if !alignedTo a z then (none, s)
  else if isMemory t then (some (BitVec.ofNat 32 (leNat (s.mem.readN (bankAddr s t a) (sizeBytes z)))), s)
  else if z = .b32 then regRead m t (targetOff t a) s
  else (none, s)

/-- What a target does with a transaction: the data, or none for SLVERR, and the state after it. -/
def perform (m : Mid) (a : W32) (z : Size) (k : Kind) (d : W32) (s : State) : Option W32 × State :=
  match decodeTarget a.toNat with
  | none => (none, s)
  | some t => match k with
    | .write => match performWrite m t a.toNat z d s with
      | (true, s') => (some 0, s')
      | (false, s') => (none, s')
    | .read | .fetch => performRead m t a.toNat z s

/-- A transaction of a master, from its port to its response (R14 to R22). -/
def transact (m : Mid) (a : W32) (z : Size) (k : Kind) (d : W32) (s : State) : State :=
  access m (decodeTarget a.toNat) a z k d (perform m a z k d) s

/-- REGISTER_WRITE: a write by a master (R8, R9, R14 to R24). -/
def execRegisterWrite (m : Mid) (addr : W32) (size : Size) (data : W32) (s : State) : Host.Outcome State Fault Refusal :=
  .next (transact m addr size .write data s)

end Sys2Proof.Machine
end

