-- ==== Sys2Proof/Machine/Loader.lean ====
section
/-!
DEFINITION. Loader: the second pass of a load, and its end (R52 to R62, R69, R73, R207, R282, R371).
-/

namespace Sys2Proof.Machine

open Sys2Proof

/-- A store of the loader: its target, its value, and the image offset reported if it fails. -/
structure LdStore where
  addr : Nat
  data : W32
  off  : Nat

/-- One store by MID 6, whose response the loader waits for: the code, 0 for OKAY (R58). One that must wait for a domain is
noted as stuck. -/
def ldStore (x : LdStore) (s : State) : Nat × State :=
  let a := BitVec.ofNat 32 x.addr
  let d := leBytes 4 x.data.toNat
  let s := issue s
  match verdict s .cfg (decodeTarget x.addr) x.addr .write with
  | .decerr => (0x41, captureErr s .cfg a .write .decerr false)
  | .deny t => (0x42, captureDeny s .cfg t a .write)
  | .dead => (0x43, captureErr s .cfg a .write .dead false)
  | .wait dom => match s.yard.eng.refuse with
    | some (q, tmo) => if q = dom then (0x41, captureErr s .cfg a .write .slverr tmo) else (0, stickAt .cfg .write x.addr 4 d s)
    | none => (0, stickAt .cfg .write x.addr 4 d s)
  | .go t =>
    let s := grant t .cfg s
    if bistBreaks s t (x.addr % 0x1000) x.data then (0x41, captureErr s .cfg a .write .slverr false)
    else match performWrite .cfg t x.addr .b32 x.data s with
      | (true, s') => (0, s')
      | (false, s') => (0x41, captureErr s' .cfg a .write .slverr false)

/-- Whether the loader must wait for an access. -/
def ldStuck (s : State) : Bool := s.yard.eng.stuck.isSome

/-- Stores in order, `part` of them made before, up to the first failure or one that must wait: how many are made, the code and
image offset of a failure, or zeros. -/
def ldStores : List LdStore → Nat → State → (Nat × Nat × Nat) × State
  | [], n, s => ((n, 0, 0), s)
  | x :: t, n, s =>
    match ldStore x s with
    | (0, s') => if ldStuck s' then ((n, 0, 0), s') else ldStores t (n + 1) s'
    | (c, s') => ((n, c, x.off), s')

/-- The stores that word `w` at offset `k` of a gain-table section gives, for one entry: the table port's address, then the
breakpoints that it holds (R55, R58). -/
def lutStores (base k : Nat) (w : W32) (i : Item) : List LdStore :=
  if k + 4 = i.vals then [{ addr := 0x40100030, data := put i.addr 6, off := base + i.rel }]
  else if i.vals ≤ k ∧ k < i.vals + 66 then
    { addr := 0x40100034, data := put (fld w 15 0) 0, off := base + i.rel }
      :: (if k + 2 < i.vals + 66 then [{ addr := 0x40100034, data := put (fld w 31 16) 0, off := base + i.rel }] else [])
  else []

/-- The stores that word `w` at offset `k` of a body gives. -/
def wordStores (x : Sect) (k : Nat) (w : W32) : List LdStore :=
  if x.type = 7 then x.items.flatMap (lutStores x.off k w)
  else (x.items.filter (fun i => i.vals ≤ k && k < i.vals + 4 * i.count)).map (fun i =>
    { addr := i.addr + (k - i.vals), data := w, off := x.off + i.rel })

/-- Where the application of a section stops: at its end, with the code and image offset of a failure or zeros and the bytes read,
or at a word, of which a number of stores are made, to wait for an access. -/
inductive ApplyEnd where
  | ended (code off : Nat) (body : List Byte)
  | waits (k part : Nat) (body : List Byte)

/-- The words of a body are read anew and applied one by one, from offset `k` on, whose first `part` stores are made; `body` are the
bytes before it (R58). -/
def applyWords (src : Nat) (x : Sect) : Nat → Nat → Nat → List Byte → State → ApplyEnd × State
  | 0, _, _, body, s => (.ended 0 0 body, s)
  | n + 1, k, part, body, s =>
    match cfgRead (src + x.off + k) 4 s with
    | ((0, l), s1) =>
      if ldStuck s1 then (.waits k part body, s1)
      else match ldStores ((wordStores x k (BitVec.ofNat 32 (leNat l))).drop part) part s1 with
        | ((m, 0, _), s2) => if ldStuck s2 then (.waits k m body, s2) else applyWords src x n (k + 4) 0 (body ++ l) s2
        | ((_, c, o), s2) => (.ended c o (body ++ l), s2)
    | ((c, _), s1) => (.ended c 0 body, s1)

/-- What a HEADER sets: the hold limit, the paddocks that are required, and the Troax address (R53, R282, R371). -/
def applyHeader (b : List Byte) (s : State) : State :=
  let s := updCfg s (fun c => { c with holdLim := u16 b 4 % 512, reqPdk := BitVec.ofNat 8 (u8 b 2) })
  let a := if u8 b 1 = 1 then u8 b 0 % 32 else if unusable s 7 then 0 else s.pio.strap.toNat
  if unusable s 57 then s else updZlk s (fun z => { z with ctrl := merge z.ctrl (put a 16) 0x001F0000 })

/-- A section applied from where the load stands in it (R58). -/
def applySect (l : LoadRun) (x : Sect) (s : State) : ApplyEnd × State :=
  match applyWords l.src x (x.len / 4 - l.pos / 4) l.pos l.part l.body s with
  | (.ended 0 _ b, s1) => if crc32 b = x.crc then (.ended 0 0 b, s1) else (.ended 0x40 x.entry b, s1)
  | r => r

/-- A load that goes on to its next section, or stands at a word of the present one. -/
def nextSect (l : LoadRun) : LoadRun := { l with sects := l.sects.tail, pos := 0, part := 0, body := [] }

/-- The paddock of a paddock-owned section. -/
def sectPdk (x : Sect) : Fin 8 := ⟨x.pdk % 8, Nat.mod_lt _ (by decide)⟩

/-- Whether the schedule exceeds its capacity (R69, R119). -/
def schedOver (s : State) : Bool := 1000 < loadAvg s

/-- A paddock left as a failed section leaves it (R59, R65). -/
def pdkFailed (p : Fin 8) (c : Nat) (s : State) : State :=
  updPdk s p (fun q => { q with state := if q.state = .unusable then .unusable else .parked, empty := true, last := c })

/-- A paddock that its frame has made VERIFIED (R61, R69). -/
def pdkVerified (p : Fin 8) (s : State) : State := updPdk s p (fun q => { q with state := .verified, empty := false, last := 0 })

/-- A load that must wait keeps where it stands; its access waits, and LOAD_END goes on when that can (R19, R58). -/
def loadWaits (l : LoadRun) (k part : Nat) (body : List Byte) (s : State) : State :=
  let s1 := updEng (updCfg s (fun c => { c with
    load := some { l with pos := k, part := part, body := body, stage := .checked 0 0 } })) (fun e => { e with stuck := none })
  match s.yard.eng.stuck with
  | some x => joinWait { x with cont := some { task := .event .loadEnd, got := [] } } s1
  | none => s1

/-- A paddock-owned section of a base load that has been applied, or has failed (R59, R61, R119). CFG_ERR_OFF will hold the offset
of the first failure (log 67). -/
def ownedEnd (x : Sect) (c o : Nat) (l : LoadRun) (s : State) : LoadRun × State :=
  let p := sectPdk x
  if c != 0 then ({ l with failed := p :: l.failed, off := if l.failed.isEmpty then o else l.off }, pdkFailed p c s)
  else if x.type = 8 && schedOver s then ({ l with failed := p :: l.failed }, pdkFailed p 0x44 s)
  else if x.type = 8 then (l, pdkVerified p s)
  else (l, updPdk s p (fun q => { q with last := 0 }))

/-- What a section that is not a paddock's sets once it is applied: HEADER and REGPROFILE (R53, R207). -/
def sharedEnd (x : Sect) (b : List Byte) (l : LoadRun) (s : State) : LoadRun × State :=
  if x.type = 1 then ({ l with auto := u8 b 3 }, applyHeader b s)
  else if x.type = 5 then (l, updRgy s (fun g => { g with lock := true, empty := false }))
  else (l, s)

/-- The end of a second pass: its code and offset, and the load as it then stands; or none, where it waits. -/
abbrev PassEnd := Option (Nat × Nat × LoadRun) × State

/-- The sections of a base load in table order: the code and offset of a failure that ends it, or zeros (R58 to R60, R207). -/
def applyBase : List Sect → LoadRun → State → PassEnd
  | [], l, s => (some (0, 0, l), s)
  | x :: t, l, s =>
    let p := sectPdk x
    if pdkType x.type && pdkUnusable s p then
      applyBase t (nextSect { l with failed := p :: l.failed }) (updPdk s p (fun q => { q with last := 3 }))
    else if pdkType x.type && l.failed.contains p then applyBase t (nextSect l) s
    else match applySect l x s with
      | (.waits k n b, s1) => (none, loadWaits l k n b s1)
      | (.ended c o b, s1) =>
        if pdkType x.type then applyBase t (nextSect (ownedEnd x c o l s1).1) (ownedEnd x c o l s1).2
        else if c != 0 then (some (c, o, l), s1)
        else applyBase t (nextSect (sharedEnd x b l s1).1) (sharedEnd x b l s1).2

/-- Whether every required paddock is VERIFIED (R62). -/
def requiredOk (s : State) : Bool :=
  (idx 8).all (fun p => !s.cfg.reqPdk.getLsbD p.val || (s.cfg.pdk[p]).state = .verified)

/-- The paddocks of AUTO_LIVE that are VERIFIED are unparked (R61). -/
def autoLive (auto : Nat) (s : State) : State :=
  (idx 8).foldl (fun s p => if auto.testBit p.val && (s.cfg.pdk[p]).state = .verified then effUnpark p s else s) s

/-- The RGY is locked at the end of every base load (R207). -/
def rgyLock (s : State) : State := updRgy s (fun g => { g with lock := true })

/-- A base load ends with a code, which the boot ROM takes (R62, R389). -/
def endBase (code off : Nat) (s : State) : State := bootLoadEnd code (endLoad code off none (rgyLock s))

/-- The code of a base load whose sections are applied (R62); REQUIRED goes before OK and PADDOCK_FAIL (log 33). -/
def baseCode (l : LoadRun) (s : State) : Nat := if !requiredOk s then 2 else if l.failed.isEmpty then 0 else 1

/-- The second pass of a base load whose first pass passed (R58 to R62). AUTO_LIVE is carried out with PADDOCK_FAIL and REQUIRED
too (log 68). -/
def baseApply (l : LoadRun) (s : State) : State :=
  match applyBase l.sects l s with
  | (some (0, _, r), s1) =>
    let s2 := updCfg s1 (fun c => { c with baseId := l.baseId, baseVer := l.ver })
    bootLoadEnd (baseCode r s1) (autoLive r.auto (endLoad (baseCode r s1) r.off none (rgyLock s2)))
  | (some (c, o, _), s1) => endBase c o s1
  | (none, s1) => s1

/-- The sections of a partial load in table order (R58, R69). -/
def applyPartial : List Sect → LoadRun → State → PassEnd
  | [], l, s => (some (if schedOver s then 0x44 else 0, 0, l), s)
  | x :: t, l, s =>
    match applySect l x s with
    | (.waits k n b, s1) => (none, loadWaits l k n b s1)
    | (.ended 0 _ _, s1) => applyPartial t (nextSect l) s1
    | (.ended c o _, s1) => (some (c, o, l), s1)

/-- A partial load ends with a code (R65, R69, R73). -/
def endPartial (p : Fin 8) (code off : Nat) (s : State) : State :=
  endLoad code off (some p) (if code = 0 then pdkVerified p s else pdkFailed p code s)

/-- A load goes on: its source is read, or one whose first pass has ended is applied, or ends with the first pass's code (R57 to
R62, R73). -/
def loadEnd (s : State) : State :=
  match s.cfg.load with
  | none => s
  | some l => match l.stage with
    | .reading => readSource s
    | .checked 0 _ =>
      if l.base then baseApply l s
      else match applyPartial l.sects l s with
        | (some (c, o, _), s1) => endPartial l.pdk c o s1
        | (none, s1) => s1
    | .checked c o => if l.base then endBase c o s else endPartial l.pdk c o s
    | _ => s

end Sys2Proof.Machine
end

