-- ==== Sys2Proof/Machine/Engines.lean ====
section
/-!
DEFINITION. Engines: transactions that waited go on: grants, responses and the tasks of the block's own masters (R15 to R19, R36 to
R38, R320, R339), and the events of the engines that access the yard; and the SPI slave (R273, R274).
-/

namespace Sys2Proof.Machine

open Sys2Proof

/-! ## Transactions that waited (R15 to R19, R37) -/

/-- Whether a waiting transaction's target lies in a domain. -/
def waitsFor (d : Domain) (x : Txn) : Bool := (decodeTarget x.addr.toNat).bind domainOf = some d

/-- Whether a waiting transaction's target answers DEAD now. -/
def txnDead (s : State) (x : Txn) : Bool :=
  match decodeTarget x.addr.toNat with | some t => isDead s t x.addr.toNat | none => false

/-- Whether a waiting transaction can go on: its domain is ready, or its target unusable. -/
def canGo (s : State) (x : Txn) : Bool :=
  txnDead s x || (match (decodeTarget x.addr.toNat).bind domainOf with | some d => domOpen s d | none => true)

/-- The earliest transaction of each master at each target (R16). -/
def firsts : List Txn → List Txn
  | [] => []
  | x :: t => x :: (firsts t).filter (fun y =>
      !(sameMaster x.mid y.mid && decodeTarget x.addr.toNat = decodeTarget y.addr.toNat))

/-- The rank of a waiting transaction at its target (R17). -/
def txnRank (s : State) (x : Txn) : Nat :=
  match decodeTarget x.addr.toNat with | some t => grantRank s t x.mid | none => 0

/-- The transactions that go on in one cycle: at each target the one it grants, and those whose target is unusable. -/
def granted (s : State) : List Txn :=
  let l := firsts (s.yard.waiting.filter (canGo s))
  byMid (l.filter (fun x => txnDead s x || l.all (fun y =>
    txnDead s y || decodeTarget x.addr.toNat != decodeTarget y.addr.toNat || txnRank s x ≤ txnRank s y)))

/-- A waiting transaction goes on, from the checks of R19 that its target makes now. -/
def resume (s : State) (x : Txn) : State :=
  match decodeTarget x.addr.toNat with
  | none => s
  | some t =>
    if isDead s t x.addr.toNat then respond s x.mid x.addr x.kind .dead 0
    else
      let s := grant t x.mid s
      if x.kind = .write && bistBreaks s t (x.addr.toNat % 0x1000) x.data then respond s x.mid x.addr x.kind .slverr 0
      else match perform x.mid x.addr x.size x.kind x.data s with
        | (none, s') => respond s' x.mid x.addr x.kind .slverr 0
        | (some v, s') => respond s' x.mid x.addr x.kind .okay v

/-- A waiting transaction completes SLVERR, by its domain's failure or by the yard timeout (R38, R339). -/
def refuseTxn (tmo : Bool) (s : State) (x : Txn) : State :=
  let s := captureErr s x.mid x.addr x.kind .slverr tmo
  { s with yard := { s.yard with resp := { mid := x.mid, code := .slverr } } }

/-! ## Tasks of the engines (log 20) -/

/-- What an event of an engine does on the yard and with what it finds there. -/
def runEvent : Instr → State → State
  | .loadEnd => loadEnd
  | .jobAccept c => acceptJob c
  | .jobEnd u => fun s => portReturn (endJob u s)
  | .completionPost => postCpl
  | .txAttempt => fun s => txAttempt (portReturn s)
  | .rxFrame f => rxFrame f
  | .dataBurst octets sync => dataBurst octets sync
  | .keyProgram _ slot addr verifies => svcKeyProgram slot addr verifies
  | _ => id

/-- What a task does. -/
def runTask : Task → State → State
  | .event c => runEvent c
  | .heldFrame => deliverHeld
  | k => taskEffect k

/-- Whether an engine's access is of a register, which gives its response once; the loader makes its stores as it goes on (R22,
R58). -/
def takesReg (s : State) (k : Cont) (x : Txn) : Bool :=
  k.task != .event .loadEnd && !txnDead s x && !((decodeTarget x.addr.toNat).map isMemory).getD true

/-- A task goes on from its place among those that wait, with the responses it has had; `r` is the domain that refuses it. -/
def rerun (i : Nat) (r : Option (Domain × Bool)) (k : Task) (got : List Resp) (s : State) : State :=
  updEng (engineRun k got (runTask k) (updEng s (fun _ => { pos := some i, refuse := r }))) (fun _ => {})

/-- What follows once a transaction has left its place `i`: its response, or its task. -/
def goOn (r : Option (Domain × Bool)) (i : Nat) (x : Txn) (s : State) : State :=
  match x.cont with
  | none => noteSpis (match r with | some (_, tmo) => refuseTxn tmo s x | none => resume s x)
  | some k =>
    if r.isNone && takesReg s k x then
      let t := resume s x
      rerun i none k.task (k.got ++ [t.yard.resp]) { t with yard := { t.yard with resp := s.yard.resp } }
    else rerun i r k.task k.got s

/-- The waiting transaction of a tag goes on, or is refused. -/
def serveTxn (r : Option (Domain × Bool)) (tag : Fin 128) (s : State) : State :=
  match s.yard.waiting.findIdx? (fun x => x.tag = tag), s.yard.waiting.find? (fun x => x.tag = tag) with
  | some i, some x => goOn r i x { s with yard := { s.yard with waiting := s.yard.waiting.eraseIdx i } }
  | _, _ => s

/-- A transaction stalled at its master's port issues, unless it is stalled still (R15). -/
def issueOne (s : State) (x : Txn) : State :=
  if stalled s x.mid then { s with yard := { s.yard with port := s.yard.port ++ [x] } }
  else match x.cont with
    | none => noteSpis (transact x.mid x.addr x.size x.kind x.data s)
    | some k => engineRun k.task k.got (runTask k.task) s

/-- Transactions stalled at their ports issue, those of one master in their order. -/
def issuePort (s : State) : State := (byMid s.yard.port).foldl issueOne { s with yard := { s.yard with port := [] } }

/-- One cycle of the yard: each target grants, and the ports issue (R15 to R17). -/
def cycle (s : State) : State := issuePort ((granted s).foldl (fun s x => serveTxn none x.tag s) s)

/-- Cycles of the yard, while anything waits. -/
def cycles : Nat → State → State
  | 0, s => s
  | n + 1, s => if s.yard.waiting.isEmpty && s.yard.port.isEmpty then s else cycles n (cycle s)

/-- Every transaction that can go on does, with the tasks that follow from it; what is left goes on in the next cycle. -/
def settle (s : State) : State := cycles (4 * (s.yard.waiting.length + s.yard.port.length) + 4) s

/-! ## Domains that what waits needs (R38, R320, R339) -/

/-- Whether a domain is being powered on demand, or a transaction waits for it. -/
def demanded (s : State) (d : Domain) : Bool := bit s.pwr.waking (domBit d) || s.yard.waiting.any (waitsFor d)

/-- DEMAND: a domain powered on demand is ready, and the accesses that waited proceed (R320). -/
def execDemand (d : Domain) (s : State) : Host.Outcome State Fault Refusal :=
  .next (if demanded s d && !domIsolated s d then settle (rfBack d (domDemand s d)) else s)

/-- Domains whose failure to wake resets the device with cause PWR (R339). -/
def vitalDomain (s : State) : Domain → Bool
  | .host | .groom | .yard | .flash => true
  | .sram k => s.pwr.move != .none && (decodeTarget s.pwr.hostVec.toNat = some (.sram k) || decodeTarget s.pwr.groomVec.toNat = some (.sram k))
  | _ => false

/-- A domain left off: its bit in PWR_DOM_FAIL and PWR_EVT.DOM_FAIL are set (R339). -/
def leaveOff (s : State) (d : Domain) : State :=
  { s with pwr := { s.pwr with
      waking := withBit s.pwr.waking (domBit d) false, ready := withBit s.pwr.ready (domBit d) false
      domOn := if domBit d < 24 then withBit s.pwr.domOn (domBit d) false else s.pwr.domOn
      domFail := withBit s.pwr.domFail (domBit d) true, evt := withBit s.pwr.evt 5 true } }

/-- What waits for a domain completes SLVERR (R339). -/
def refuseAll (d : Domain) (s : State) : State :=
  settle ((byMid (s.yard.waiting.filter (waitsFor d))).foldl (fun s x => serveTxn (some (d, false)) x.tag s) s)

/-- DOM_FAIL: a domain is not ready within twice its bound; what waits for it completes SLVERR, and in an exit sequence a vital
one resets the device (R339). -/
def execDomFail (d : Domain) (s : State) : Host.Outcome State Fault Refusal :=
  let leaving : Bool := match s.pwr.move with | .exiting _ => true | _ => false
  .next (if domIsolated s d || domReady s d then s
    else if leaving && vitalDomain s d then resetDevice 7 (leaveOff s d)
    else if leaving || demanded s d then refuseAll d (leaveOff s d)
    else s)

/-- Whether a transaction has waited for TMO, of 4 µs each; below 0x10 it acts as 0x10 (R38, R42). -/
def timedOut (s : State) (x : Txn) : Bool := bit s.yard.cfg 8 && 3072 * max (fld s.yard.cfg 7 0) 16 ≤ 5 * x.age

/-- YARD_TIMEOUT: a transaction that has waited for TMO completes SLVERR; whether its target performed it is left open
(R38, log 6). -/
def execYardTimeout (tag : Fin 128) (s : State) : Host.Outcome State Fault Refusal :=
  .next (match s.yard.waiting.find? (fun x => x.tag = tag) with
    | none => s
    | some x =>
      if !timedOut s x then s
      else
        let late : Bool := Config.freeBit s.free
        let s := { s with free := s.free + 1 }
        let s := if late then (perform x.mid x.addr x.size x.kind x.data s).2 else s
        settle (serveTxn (some (((decodeTarget x.addr.toNat).bind domainOf).getD .yard, true)) tag s))

/-! ## The events of the engines -/

/-- An event of an engine, with what goes on at once. -/
def engineEvent (c : Instr) (s : State) : State := settle (engine c (runEvent c) s)

/-- LOAD_END: the load that runs is applied and ends, or waits (R57 to R62, R69, R73). -/
def execLoadEnd (s : State) : Host.Outcome State Fault Refusal := .next (engineEvent .loadEnd s)

/-- JOB_ACCEPT: a descriptor is accepted or rejected (R223, R226, R227, R247). -/
def execJobAccept (c : Fin 4) (s : State) : Host.Outcome State Fault Refusal := .next (engineEvent (.jobAccept c) s)

/-- JOB_DISPATCH: a unit takes work (R228 to R232, R248); the radio takes an outcome that this gives it. -/
def execJobDispatch (u : Fin 5) (s : State) : Host.Outcome State Fault Refusal := .next (portReturn (dispatch u s))

/-- JOB_END: a job ends with its output and status (R235 to R237). -/
def execJobEnd (u : Fin 5) (s : State) : Host.Outcome State Fault Refusal := .next (engineEvent (.jobEnd u) s)

/-- COMPLETION_POST: a completion is posted or dropped (R233, R247). -/
def execCompletionPost (s : State) : Host.Outcome State Fault Refusal := .next (engineEvent .completionPost s)

/-- TX_ATTEMPT: the radio takes up an attempt (R180 to R182, R187). -/
def execTxAttempt (s : State) : Host.Outcome State Fault Refusal := .next (engineEvent .txAttempt s)

/-- RX_FRAME: a frame is received (R185, R186). -/
def execRxFrame (f : RxAir) (s : State) : Host.Outcome State Fault Refusal := .next (engineEvent (.rxFrame f) s)

/-- DATA_BURST: a data burst is received (R263, R264). -/
def execDataBurst (octets : List Byte) (sync : W32) (s : State) : Host.Outcome State Fault Refusal :=
  .next (engineEvent (.dataBurst octets sync) s)

/-- KEY_PROGRAM (R392). -/
def execKeyProgram (m : Mid) (slot addr : W32) (verifies : Bool) (s : State) : Host.Outcome State Fault Refusal :=
  svc m (engineEvent (.keyProgram m slot addr verifies)) s

/-! ## The SPI slave's transactions (R273, R274) -/

/-- Whether the port takes transactions (R273). -/
def spisOn (s : State) : Bool := portUp s 59 && bit s.spis.ctrl 31

/-- Octets shifted out. -/
def shiftOut (l : List Byte) (s : State) : State := updSpis s (fun p => { p with miso := p.miso ++ l })

/-- Octets shifted out whose value the spec does not state (log 6). -/
def shiftOpen (n : Nat) (s : State) : State := shiftOut (freeBytes s.free n) { s with free := s.free + n }

/-- A word access by MID 10. -/
def spisAccess (k : Kind) (a : Nat) (d : W32) (s : State) : State :=
  noteSpis (transact .spis (BitVec.ofNat 32 a) .b32 k d s)

/-- Complete words stored at ascending addresses; the transaction ends when EN is cleared (R273). -/
def spisStore (a : Nat) : List (List Byte) → State → State
  | [], s => s
  | w :: t, s =>
    if spisOn s then spisStore (a + 4) t (shiftOpen 4 (spisAccess .write a (BitVec.ofNat 32 (beNat w)) s)) else s

/-- Words read at ascending addresses and shifted out; one that is not ready shifts out as ones and sets LATE (R274). -/
def spisLoad (a : Nat) : List Bool → State → State
  | [], s => s
  | l :: t, s =>
    if !spisOn s then s
    else
      let s := spisAccess .read a 0 s
      let late : Bool := l || s.yard.resp.waits
      spisLoad (a + 4) t (shiftOut (beBytes 4 (if late then 0xFFFFFFFF else s.yard.resp.data.toNat))
        (updSpis s (fun p => { p with late := p.late || late })))

/-- Octets in words of four; a partial word is left out. -/
def wordsOf : Nat → List Byte → List (List Byte)
  | 0, _ => []
  | n + 1, l => l.take 4 :: wordsOf n (l.drop 4)

/-- A transaction from the fall of SPIS_CSN to its rise: the octets that come in, of which the first is a command, and for each word
of a READ that it is not ready by its first bit (R273, R274). -/
def spisRun (mosi : List Byte) (late : List Bool) (s : State) : State :=
  let a := beNat ((mosi.drop 1).take 4)
  let n := mosi.length
  if !spisOn s then s
  else
    let s := updSpis s (fun p => { p with miso := [] })
    match mosi with
    | 0x02 :: _ => spisStore a (wordsOf ((n - 5) / 4) (mosi.drop 5)) (shiftOpen (min n 5) s)
    | 0x0B :: _ =>
      spisLoad a ((List.range ((n - 9 + 3) / 4)).map (fun j => (late[j]?).getD false)) (shiftOpen (min n 9) s)
    | 0x05 :: _ => shiftOut (((List.range n).flatMap (fun _ => beBytes 4 (hstat s.spis).toNat)).take (n - 1)) (shiftOpen 1 s)
    | _ => shiftOut (List.replicate (n - 1) 0xFF) (shiftOpen (min n 1) s)

/-- WRITE (R273). -/
def execWrite (mosi : List Byte) (late : List Bool) (s : State) : Host.Outcome State Fault Refusal :=
  .next (spisRun mosi late s)

/-- READ (R273, R274). -/
def execRead (mosi : List Byte) (late : List Bool) (s : State) : Host.Outcome State Fault Refusal := .next (spisRun mosi late s)

/-- STATUS (R273). -/
def execStatus (mosi : List Byte) (s : State) : Host.Outcome State Fault Refusal := .next (spisRun mosi [] s)

end Sys2Proof.Machine
end

