-- ==== Sys2Proof/Machine/Losses.lean ====
section
/-!
DEFINITION. Losses: loss of lock and loss of reference of a synthesizer, with what the radio loses (R200, R289, R293, R313).
-/

namespace Sys2Proof.Machine

open Sys2Proof

/-- What a loss of the RFPLL does to the radio (R200). -/
def rfLost (x : Pll) (ref : Bool) (was : State) (s : State) : State := if x = .rf && lossApplies was x ref then radioLoss s else s

/-- LOSS_OF_LOCK (R293). -/
def execLossOfLock (x : Pll) (s : State) : Host.Outcome State Fault Refusal := .next (rfLost x false s (lossLock x s))

/-- LOSS_OF_REFERENCE (R289, R293). -/
def execLossOfReference (x : Pll) (s : State) : Host.Outcome State Fault Refusal := .next (rfLost x true s (lossRef x s))

end Sys2Proof.Machine
end

