-- ==== Sys2Proof/Machine/Dispatch.lean ====
section
/-!
DEFINITION. Dispatch: the meaning of each command, one arm per row of spec/opcode_table.json.
-/

namespace Sys2Proof.Machine

open Sys2Proof

def exec (i : Instr) (s : State) : Host.Outcome State Fault Refusal :=
  match i with
  -- the yard, interrupts and routes
  | .registerWrite m addr size data => Sys2Proof.Machine.execRegisterWrite m addr size data s
  | .yardTimeout tag => Sys2Proof.Machine.execYardTimeout tag s
  | .yerrValidClear m ovf => Sys2Proof.Machine.execYerrValidClear m ovf s
  | .cntClr m => Sys2Proof.Machine.execCntClr m s
  | .peakClr m => Sys2Proof.Machine.execPeakClr m s
  | .irqClaim m c => Sys2Proof.Machine.execIrqClaim m c s
  | .irqComplete m c data => Sys2Proof.Machine.execIrqComplete m c data s
  | .toHost m => Sys2Proof.Machine.execToHost m s
  | .toGroom m => Sys2Proof.Machine.execToGroom m s
  | .trgFire m sw => Sys2Proof.Machine.execTrgFire m sw s
  | .trgLock m => Sys2Proof.Machine.execTrgLock m s
  | .trgDropCntClr m => Sys2Proof.Machine.execTrgDropCntClr m s
  -- the configuration loader
  | .park m p hold => Sys2Proof.Machine.execPark m p hold s
  | .load m p => Sys2Proof.Machine.execLoad m p s
  | .unpark m p => Sys2Proof.Machine.execUnpark m p s
  | .abort m p => Sys2Proof.Machine.execAbort m p s
  | .loadBase m => Sys2Proof.Machine.execLoadBase m s
  | .confirm m pass => Sys2Proof.Machine.execConfirm m pass s
  | .waitSwv => Sys2Proof.Machine.execWaitSwv s
  | .loadEnd => Sys2Proof.Machine.execLoadEnd s
  | .parkingStart p => Sys2Proof.Machine.execParkingStart p s
  | .stallFreeze n => Sys2Proof.Machine.execStallFreeze n s
  | .holdExp p => Sys2Proof.Machine.execHoldExp p s
  | .unparkingStart p => Sys2Proof.Machine.execUnparkingStart p s
  -- sensing
  | .adcResult n tick raw => Sys2Proof.Machine.execAdcResult n tick raw s
  | .calReference k tick raw => Sys2Proof.Machine.execCalReference k tick raw s
  | .vrefBad => Sys2Proof.Machine.execVrefBad s
  | .vrefReturn => Sys2Proof.Machine.execVrefReturn s
  | .startUpCalibration m en => Sys2Proof.Machine.execStartUpCalibration m en s
  | .adlCfg m k data => Sys2Proof.Machine.execAdlCfg m k data s
  | .laneRdy k r0 r1 => Sys2Proof.Machine.execLaneRdy k r0 r1 s
  | .auxConversion vin vexc => Sys2Proof.Machine.execAuxConversion vin vexc s
  | .auxCfg m data => Sys2Proof.Machine.execAuxCfg m data s
  | .pirSample j v => Sys2Proof.Machine.execPirSample j v s
  | .pirHoldEnd j => Sys2Proof.Machine.execPirHoldEnd j s
  | .settleEnd j => Sys2Proof.Machine.execSettleEnd j s
  | .pirEnable m j data => Sys2Proof.Machine.execPirEnable m j data s
  | .pirSat j => Sys2Proof.Machine.execPirSat j s
  | .pirSatClear j => Sys2Proof.Machine.execPirSatClear j s
  | .dayResult d current => Sys2Proof.Machine.execDayResult d current s
  | .tempMeasurement t => Sys2Proof.Machine.execTempMeasurement t s
  -- the loop engine
  | .lpeTick => Sys2Proof.Machine.execLpeTick s
  | .stallSample n => Sys2Proof.Machine.execStallSample n s
  | .stallCompute n => Sys2Proof.Machine.execStallCompute n s
  | .stallUpdate n => Sys2Proof.Machine.execStallUpdate n s
  | .lpePostMask m mask => Sys2Proof.Machine.execLpePostMask m mask s
  | .stlSpWrite m n data => Sys2Proof.Machine.execStlSpWrite m n data s
  | .stallEnable m n data => Sys2Proof.Machine.execStallEnable m n data s
  | .stallDisable m n data => Sys2Proof.Machine.execStallDisable m n data s
  | .lpeTabData m wr => Sys2Proof.Machine.execLpeTabData m wr s
  | .lpeLoadPeakClr m => Sys2Proof.Machine.execLpeLoadPeakClr m s
  | .missCntClr m n data => Sys2Proof.Machine.execMissCntClr m n data s
  | .clampCntClear m n j data => Sys2Proof.Machine.execClampCntClear m n j data s
  -- stall outputs, protection and tuning
  | .pwmPeriodStart n => Sys2Proof.Machine.execPwmPeriodStart n s
  | .ocTrip n uv => Sys2Proof.Machine.execOcTrip n s uv
  | .retry n => Sys2Proof.Machine.execRetry n s
  | .retryUsedReset n => Sys2Proof.Machine.execRetryUsedReset n s
  | .faultClr m n data => Sys2Proof.Machine.execFaultClr m n data s
  | .ocCntClr m n => Sys2Proof.Machine.execOcCntClr m n s
  | .echoStart m e data => Sys2Proof.Machine.execEchoStart m e data s
  | .echoStop m e data => Sys2Proof.Machine.execEchoStop m e data s
  | .echoEnd e => Sys2Proof.Machine.execEchoEnd e s
  | .galleryRecord => Sys2Proof.Machine.execGalleryRecord s
  | .captureEnd => Sys2Proof.Machine.execCaptureEnd s
  | .galleryArm m data => Sys2Proof.Machine.execGalleryArm m data s
  | .force m => Sys2Proof.Machine.execForce m s
  | .galStop m => Sys2Proof.Machine.execGalStop m s
  -- the radio
  | .txqProd m data => Sys2Proof.Machine.execTxqProd m data s
  | .launch m k data => Sys2Proof.Machine.execLaunch m k data s
  | .txAttempt => Sys2Proof.Machine.execTxAttempt s
  | .channelAssessment rssi heard draw => Sys2Proof.Machine.execChannelAssessment rssi heard s draw
  | .backoffEnd => Sys2Proof.Machine.execBackoffEnd s
  | .timedLaunch => Sys2Proof.Machine.execTimedLaunch s
  | .txFrameEnd sfd ext => Sys2Proof.Machine.execTxFrameEnd sfd s ext
  | .ackWaitExpiry => Sys2Proof.Machine.execAckWaitExpiry s
  | .trxFlush m => Sys2Proof.Machine.execTrxFlush m s
  | .rxFrame f => Sys2Proof.Machine.execRxFrame f s
  | .matcherResult => Sys2Proof.Machine.execMatcherResult s
  | .ackSend => Sys2Proof.Machine.execAckSend s
  | .sniff preamble => Sys2Proof.Machine.execSniff preamble s
  | .partnerEntryWrite m k data => Sys2Proof.Machine.execPartnerEntryWrite m k data s
  | .trxCntClr m => Sys2Proof.Machine.execTrxCntClr m s
  | .trxTimeLo m => Sys2Proof.Machine.execTrxTimeLo m s
  | .trxZtimeLo m => Sys2Proof.Machine.execTrxZtimeLo m s
  | .bucketBoundary b => Sys2Proof.Machine.execBucketBoundary b s
  | .rgyCntClr m => Sys2Proof.Machine.execRgyCntClr m s
  -- the cipher engine
  | .cryProd m c data => Sys2Proof.Machine.execCryProd m c data s
  | .jobAccept c => Sys2Proof.Machine.execJobAccept c s
  | .jobDispatch u => Sys2Proof.Machine.execJobDispatch u s
  | .jobAged tag => Sys2Proof.Machine.execJobAged tag s
  | .jobEnd u => Sys2Proof.Machine.execJobEnd u s
  | .completionPost => Sys2Proof.Machine.execCompletionPost s
  | .cplCons m data => Sys2Proof.Machine.execCplCons m data s
  | .cryFlush m mask => Sys2Proof.Machine.execCryFlush m mask s
  | .ksPol m data => Sys2Proof.Machine.execKsPol m data s
  | .ksLoad m => Sys2Proof.Machine.execKsLoad m s
  | .ksClear m => Sys2Proof.Machine.execKsClear m s
  | .outReq m u => Sys2Proof.Machine.execOutReq m u s
  | .inReq m u => Sys2Proof.Machine.execInReq m u s
  | .katEnd u pass => Sys2Proof.Machine.execKatEnd u pass s
  | .cryCntClr m => Sys2Proof.Machine.execCryCntClr m s
  | .pkvStart m => Sys2Proof.Machine.execPkvStart m s
  | .pkvDone => Sys2Proof.Machine.execPkvDone s
  -- the Troax link
  | .zlkEnable m data => Sys2Proof.Machine.execZlkEnable m data s
  | .zlkDisable m data => Sys2Proof.Machine.execZlkDisable m data s
  | .form => Sys2Proof.Machine.execForm s
  | .cycleStart mismatch => Sys2Proof.Machine.execCycleStart s mismatch
  | .beacon octets rx8 => Sys2Proof.Machine.execBeacon octets rx8 s
  | .leaderLost => Sys2Proof.Machine.execLeaderLost s
  | .rollLatch mismatch => Sys2Proof.Machine.execRollLatch mismatch s
  | .roll a octets late8 => Sys2Proof.Machine.execRoll a octets late8 s
  | .memberDrop a => Sys2Proof.Machine.execMemberDrop a s
  | .rvStale k => Sys2Proof.Machine.execRvStale k s
  | .joinSlot draw mismatch => Sys2Proof.Machine.execJoinSlot draw s mismatch
  | .join octets => Sys2Proof.Machine.execJoin octets s
  | .dataWindow mismatch => Sys2Proof.Machine.execDataWindow mismatch s
  | .dataBurst octets sync => Sys2Proof.Machine.execDataBurst octets sync s
  | .queue m data => Sys2Proof.Machine.execQueue m data s
  | .zlkTxqProd m data => Sys2Proof.Machine.execZlkTxqProd m data s
  | .zlkFlush m => Sys2Proof.Machine.execZlkFlush m s
  | .zlkCntClr m => Sys2Proof.Machine.execZlkCntClr m s
  | .zlkZtLo m => Sys2Proof.Machine.execZlkZtLo m s
  -- DALI, SPIS, UART, I2C
  | .daliFrame first run runs => Sys2Proof.Machine.execDaliFrame first run runs s
  | .send m data => Sys2Proof.Machine.execSend m data s
  | .dliTxc m data => Sys2Proof.Machine.execDliTxc m data s
  | .settleExpiry => Sys2Proof.Machine.execSettleExpiry s
  | .backwardFrameStart => Sys2Proof.Machine.execBackwardFrameStart s
  | .nobf => Sys2Proof.Machine.execNobf s
  | .txdone => Sys2Proof.Machine.execTxdone s
  | .coll => Sys2Proof.Machine.execColl s
  | .busfail ms => Sys2Proof.Machine.execBusfail s ms
  | .write mosi late => Sys2Proof.Machine.execWrite mosi late s
  | .read mosi late => Sys2Proof.Machine.execRead mosi late s
  | .status mosi => Sys2Proof.Machine.execStatus mosi s
  | .spisTohost m data => Sys2Proof.Machine.execSpisTohost m data s
  | .fromhostRead m => Sys2Proof.Machine.execFromhostRead m s
  | .uartRxChar u c par fe brk => Sys2Proof.Machine.execUartRxChar u c par fe brk s
  | .uartTxChar u => Sys2Proof.Machine.execUartTxChar u s
  | .uartDataWrite m u data => Sys2Proof.Machine.execUartDataWrite m u data s
  | .uartDataRead m u => Sys2Proof.Machine.execUartDataRead m u s
  | .go m k data => Sys2Proof.Machine.execGo m k data s
  | .i2cDone k r rx => Sys2Proof.Machine.execI2cDone k r rx s
  | .i2cTimeout k => Sys2Proof.Machine.execI2cTimeout k s
  | .i2cDataAccess m k wr => Sys2Proof.Machine.execI2cDataAccess m k wr s
  -- clocks
  | .xtalOk => Sys2Proof.Machine.execXtalOk s
  | .xtalFail => Sys2Proof.Machine.execXtalFail s
  | .bandSearchEnd x band => Sys2Proof.Machine.execBandSearchEnd x band s
  | .lock x => Sys2Proof.Machine.execLock x s
  | .lossOfLock x => Sys2Proof.Machine.execLossOfLock x s
  | .lossOfReference x => Sys2Proof.Machine.execLossOfReference x s
  | .reacquire x => Sys2Proof.Machine.execReacquire x s
  | .rfpllResearch => Sys2Proof.Machine.execRfpllResearch s
  | .syspllFailed => Sys2Proof.Machine.execSyspllFailed s
  | .referenceSwitch m data => Sys2Proof.Machine.execReferenceSwitch m data s
  | .coastLimit => Sys2Proof.Machine.execCoastLimit s
  | .bypass m => Sys2Proof.Machine.execBypass m s
  | .xlfOk => Sys2Proof.Machine.execXlfOk s
  | .xlfFail => Sys2Proof.Machine.execXlfFail s
  | .sleepClockMeasurement c => Sys2Proof.Machine.execSleepClockMeasurement c s
  | .clkCntClr m => Sys2Proof.Machine.execClkCntClr m s
  | .cloadStep => Sys2Proof.Machine.execCloadStep s
  -- power
  | .pwrReqRunFast m => Sys2Proof.Machine.execPwrReqRunFast m s
  | .forwardBiasSettled => Sys2Proof.Machine.execForwardBiasSettled s
  | .pwrReqRun m => Sys2Proof.Machine.execPwrReqRun m s
  | .pwrReqDoze m => Sys2Proof.Machine.execPwrReqDoze m s
  | .pwrReqNap m => Sys2Proof.Machine.execPwrReqNap m s
  | .pwrReqSlumber m exitNap => Sys2Proof.Machine.execPwrReqSlumber m exitNap s
  | .requestInstant => Sys2Proof.Machine.execRequestInstant s
  | .entryComplete => Sys2Proof.Machine.execEntryComplete s
  | .wakeEvent src => Sys2Proof.Machine.execWakeEvent src s
  | .exitComplete => Sys2Proof.Machine.execExitComplete s
  | .timer => Sys2Proof.Machine.execTimer s
  | .demand d => Sys2Proof.Machine.execDemand d s
  | .domFail d => Sys2Proof.Machine.execDomFail d s
  | .pwrDomOn m data => Sys2Proof.Machine.execPwrDomOn m data s
  | .pwrCntClr m => Sys2Proof.Machine.execPwrCntClr m s
  | .loftSniff => Sys2Proof.Machine.execLoftSniff s
  -- access tables
  | .all m => Sys2Proof.Machine.execAll m s
  | .one m gate => Sys2Proof.Machine.execOne m gate s
  | .violClear m g => Sys2Proof.Machine.execViolClear m g s
  | .violCntClr m => Sys2Proof.Machine.execViolCntClr m s
  -- pins
  | .qualifiedEdge k level => Sys2Proof.Machine.execQualifiedEdge k level s
  | .slumberEdge k level => Sys2Proof.Machine.execSlumberEdge k level s
  | .maskedWrite m g mask data => Sys2Proof.Machine.execMaskedWrite m g mask data s
  | .holdrel m mask => Sys2Proof.Machine.execHoldrel m mask s
  | .map m => Sys2Proof.Machine.execMap m s
  -- resets and watchdogs
  | .por => Sys2Proof.Machine.execPor s
  | .pin => Sys2Proof.Machine.execPin s
  | .brown => Sys2Proof.Machine.execBrown s
  | .dbgReset => Sys2Proof.Machine.execDbgReset s
  | .bootRstReq m data => Sys2Proof.Machine.execBootRstReq m data s
  | .wdtExpiry w => Sys2Proof.Machine.execWdtExpiry w s
  | .wdtWarn w => Sys2Proof.Machine.execWdtWarn w s
  | .kick m w data => Sys2Proof.Machine.execKick m w data s
  | .resetRelease straps => Sys2Proof.Machine.execResetRelease straps s
  -- boot
  | .powerUpBistEnd fails us marked => Sys2Proof.Machine.execPowerUpBistEnd fails us s marked
  | .headerCheck m b => Sys2Proof.Machine.execHeaderCheck m b s
  | .fullCheck m b => Sys2Proof.Machine.execFullCheck m b s
  | .fwConfirm m pass => Sys2Proof.Machine.execFwConfirm m pass s
  | .fwCheckEnd => Sys2Proof.Machine.execFwCheckEnd s
  | .program m => Sys2Proof.Machine.execProgram m s
  | .erase m => Sys2Proof.Machine.execErase m s
  | .flashDone verify => Sys2Proof.Machine.execFlashDone verify s
  | .bootTrial m bank opt => Sys2Proof.Machine.execBootTrial m bank opt s
  | .bootCommit m programmed => Sys2Proof.Machine.execBootCommit m programmed s
  | .bootFallback m reason programmed => Sys2Proof.Machine.execBootFallback m reason programmed s
  | .keyProgram m slot addr verifies => Sys2Proof.Machine.execKeyProgram m slot addr verifies s
  | .keyRevoke m slot => Sys2Proof.Machine.execKeyRevoke m slot s
  | .bootGroom m vec => Sys2Proof.Machine.execBootGroom m vec s
  -- self-test
  | .bistGo m data => Sys2Proof.Machine.execBistGo m data s
  | .bistStop m => Sys2Proof.Machine.execBistStop m s
  | .slice r => Sys2Proof.Machine.execSlice r s
  | .bistDone => Sys2Proof.Machine.execBistDone s
  -- supplies
  | .vgdUndervoltage => Sys2Proof.Machine.execVgdUndervoltage s
  | .vgdRelease => Sys2Proof.Machine.execVgdRelease s
  | .thermalCut => Sys2Proof.Machine.execThermalCut s
  | .thermalCutRelease => Sys2Proof.Machine.execThermalCutRelease s
  | .supCntClr m => Sys2Proof.Machine.execSupCntClr m s
  -- rows the table lists last
  | .cts u asserted => Sys2Proof.Machine.execCts u asserted s
  | .sfdDetected sun sync sfd => Sys2Proof.Machine.execSfdDetected sun sync s sfd
  | .sniffRfpllStart => Sys2Proof.Machine.execSniffRfpllStart s
  | .xtalStartRetry => Sys2Proof.Machine.execXtalStartRetry s
  | .bistPhase1End fails => Sys2Proof.Machine.execBistPhase1End fails s

end Sys2Proof.Machine
end

