-- ==== Sys2Proof/Machine/Time.lean ====
section
/-!
DEFINITION. Time: what 6.51 ns, one CLK_YARD period, does to the counters of time (R15 to R17, R38, R68, R90, R139, R150, R151, R189, R194, R261, R299,
R304, R305, R376, R414, log 2). Events are commands; a period lets go on only what waits for the yard, and ends a sniff (log 16).
-/

namespace Sys2Proof.Machine

open Sys2Proof

/-- A stall's times: the wait of a retry runs down, the window of R150 runs out, and the time run without a fault grows. -/
def tickStall (t : Stall) : Stall :=
  { t with
    waitCyc := if t.retryPend then t.waitCyc - 1 else t.waitCyc
    shortCyc := t.shortCyc - 1
    runCyc := if t.en && !t.active then t.runCyc + 1 else t.runCyc }

/-- The output stage of a stall in LINEAR mode (R141). -/
def tickLin (s : State) (n : Fin 32) (t : Stall) : Stall :=
  if fld (outOf t) 31 30 = 2 && drives s n then linearStep (s.time % 4 = 3) t else t

/-- A paddock's held time (R68). -/
def tickPdk (q : Paddock) : Paddock := if q.holdRun then { q with heldCyc := q.heldCyc + 1 } else q

/-- A synthesizer's coast (R299). -/
def tickPll (p : PllSt) : PllSt := if p.st = .coast then { p with coastCyc := p.coastCyc + 1 } else p

/-- ZLK_ZT advances by 1 + RATE × 10^-8 cycles (R261). -/
def tickZlk (z : Zlk) : Zlk :=
  let r := z.ztRem + 65536 * z.rate.toInt
  { z with zt := ((z.zt : Int) + 65536 + r / 100000000).toNat % 2 ^ 64, ztRem := r % 100000000 }

/-- The time since a forward frame, while it can still matter, and the time that the bus has been idle (R271). -/
def tickDli (d : Dli) : Dli :=
  { d with
    sinceFwd := d.sinceFwd.map (fun n => satInc n (256 * 15360 + 32 * 128000 + 768000))
    idle := match d.run with | .sending _ => 0 | _ => if d.busLow then 0 else satInc d.idle (255 * 15360) }

/-- TRX_TIME counts while RADIO is ready, outside SLUMBER; in BYPASS by four per XTAL cycle (R189, R304). -/
def trxStep (s : State) : Nat :=
  if !domReady s .radio || s.pwr.state = .slumber then 0
  else if !s.clk.bypass then 1
  else if s.time % 4 = 3 then 4 else 0

/-- The integrations of the daylight channels (R90). -/
def tickSns (s : State) (n : Sns) : Sns :=
  if snsOn s && bit n.ctrl 3 then { n with day := n.day.map (fun d => { d with due := d.due - 1 }) } else n

/-- The gap between two slices of a test (R414). -/
def tickBist (b : Bist) : Bist := { b with run := b.run.map (fun r => { r with gap := r.gap - 1 }) }

/-- What runs on CLK_YARD and ROOT. -/
def tickYard (s : State) : State :=
  { s with
    yard := { s.yard with waiting := s.yard.waiting.map (fun x => { x with age := x.age + 1 }) }
    cfg := { s.cfg with pdk := s.cfg.pdk.map tickPdk }
    stl := Vector.ofFn (fun n => tickLin s n (tickStall s.stl[n]))
    lpe := { s.lpe with
      tickDue := if lpeOn s then s.lpe.tickDue - 1 else s.lpe.tickDue
      pwmBase := if domReady s .yard && !s.clk.bypass then s.lpe.pwmBase + 4 else s.lpe.pwmBase }
    trx := { s.trx with time := mod48 (s.trx.time + trxStep s) }
    zlk := if domReady s .yard then tickZlk s.zlk else s.zlk
    dli := if dliOn s then tickDli s.dli else s.dli
    sns := tickSns s s.sns
    bist := tickBist s.bist
    clk := { s.clk with sys := tickPll s.clk.sys, rf := tickPll s.clk.rf, cloadDue := s.clk.cloadDue - 1 } }

/-- A watchdog's count, in units of 32 LTICK cycles (R376). -/
def tickWdt (q : Wdt) : Wdt := if q.pre + 1 < 32 then { q with pre := q.pre + 1 } else { q with pre := 0, cnt := q.cnt + 1 }

/-- One LTICK cycle: PWR_LTIME, and the watchdogs that count (R305, R341, R376). -/
def tickLoft (s : State) : State :=
  let s1 := updPwr s (fun p => { p with ltime := p.ltime + 1 })
  [Core.host, Core.groom].foldl (fun t w => if wdtCounts s w then updWdt t w tickWdt else t) s1

/-- One CLK_YARD period passes; an LTICK cycle lasts 4 687.5 of them (R305). -/
def tick (s : State) : State :=
  let s := if clocksBack s then settle (tickSniff (tickYard s)) else s
  let h := s.ltHalf + 2
  let s := if 9375 ≤ h then tickLoft { s with ltHalf := h - 9375 } else { s with ltHalf := h }
  { s with time := s.time + 1 }

end Sys2Proof.Machine
end

