-- ==== Sys2Proof/Safety.lean ====
section
/-!
DEFINITION. Safety: what counts as a safe run. No command of the spec stops the block, so a safe step is one that goes on; what
the block must keep is that its memory has one form and that a locked table stays as it is.
-/

namespace Sys2Proof.Machine

open Sys2Proof

/-- A step that goes on to a next state. -/
def goesOn (s : State) : Prop := ∃ t, step s = .next t

/-- The memory keeps the form that makes equal memories equal data. -/
def memOk (s : State) : Prop := s.mem.wf = true

/-- A state with a command put at the front of its queue. -/
def State.push (c : Instr) (s : State) : State := { s with pending := c :: s.pending }

/-- A 32-bit register write reaches its target now: a tag of the master's share is free and its port holds nothing stalled (R15),
the gate permits it, the block is not DEAD and its domain is ready (R19), no earlier transaction of the master waits there (R16),
and it does not break the condition of a running test (R409). -/
def reaches (m : Mid) (t : Target) (a : Nat) (d : W32) (s : State) : Bool :=
  !stalled s m && verdict s m (some t) (BitVec.ofNat 32 a).toNat .write = .go t
    && !bistBreaks s t ((BitVec.ofNat 32 a).toNat % 0x1000) d

/-- A 32-bit register read reaches its target now (R15, R16, R19). -/
def readReaches (m : Mid) (t : Target) (a : Nat) (s : State) : Bool :=
  !stalled s m && verdict s m (some t) (BitVec.ofNat 32 a).toNat .read = .go t

/-- The state in which a target serves a master's transaction: it is issued, which the peak count shows (R42), and granted, which
moves the target's round robin (R17). -/
def served (m : Mid) (t : Target) (s : State) : State := grant t m (issue s)

/-- Nothing waits on the yard, and no engine's task is being carried out: what any master asks next is served at once, or waits
alone. -/
def yardIdle (s : State) : Prop := s.yard.waiting = [] ∧ s.yard.port = [] ∧ s.yard.eng = {}

/-- No access that an event of an engine makes has to wait: each is answered in the cycle in which it is asked (log 20). -/
def answered (c : Instr) (s : State) : Bool := (runEvent c s).yard.eng.stuck.isNone

/-- Accepted jobs, apart from the note of since when each is at the head of its queue (R228). -/
def queued (l : List Job) : List Job := l.map (fun j => { j with headT := none })

/-- The state in which a master has received OKAY and the data `v` (R18). -/
def okay (m : Mid) (v : W32) (s : State) : State := { s with yard := { s.yard with resp := { mid := m, data := v } } }

/-- Whether a master may write the registers of a paddock: not while it is LOADING or UNPARKING, save the loader itself (R64). -/
def pdkOpen (m : Mid) (s : State) (p : Fin 8) : Prop :=
  m = .cfg ∨ (pdkState s p ≠ .loading ∧ pdkState s p ≠ .unparking)

/-- An OTP key slot is only ever programmed further: bits are set and never cleared, and a hash once written stays (R395). -/
def OtpKey.grows (a b : OtpKey) : Prop :=
  (a.active = true → b.active = true) ∧ (a.revoke = true → b.revoke = true) ∧
  (a.blank = false → b.blank = false ∧ b.hash = a.hash)

end Sys2Proof.Machine
end

