-- ==== Sys2Proof/Certificates/Slice0/Obligations.lean ====
section
/-!
DEFINITION. Obligations: what is claimed of the block, from the numbered rules of its spec. A register-write command is claimed for every
state in which it reaches its target (`reaches`): it answers a next state, in which the master has its response (`okay`), the target has
served the transaction (`served`) and only the parts named have changed. An event is claimed for every state: what it changes is named,
and all else is as before. An event of an engine that accesses the yard is claimed where nothing waits there (`yardIdle`) and its accesses
are answered; `settle` then lets what has come to wait go on, and changes nothing where nothing waits.
-/

open Sys2Proof Sys2Proof.Machine

/-- REGISTER_WRITE of 8, 16 or 32 bits to an aligned address of SRAM, loft SRAM or gallery RAM that its master may write now: the
bytes of the data's low bits are stored little-endian from the address up, every other byte reads as before, and nothing else
changes but what the transaction itself does (R6, R14, R18, R22, R23). -/
def Obligations.MemoryStore : Prop :=
  ∀ (s : State) (m : Mid) (addr data : W32) (z : Size) (t : Target),
    memOk s → decodeTarget addr.toNat = some t → storable t = true → alignedTo addr.toNat z = true →
    stalled s m = false → verdict s m (some t) addr.toNat .write = .go t →
    ∃ u, exec (.registerWrite m addr z data) s = .next u ∧
      u = okay m 0 { served m t s with mem := u.mem } ∧
      u.mem.readN addr.toNat (sizeBytes z) = leBytes (sizeBytes z) data.toNat ∧
      ∀ x, (x < addr.toNat ∨ addr.toNat + sizeBytes z ≤ x) → u.mem.read x = s.mem.read x

/-- Writes that have no effect. A register target takes no access but a 32-bit one at a multiple of 4: any other size, and any misaligned
address, is answered SLVERR with no effect but the response and its capture (R22, R39). A write that its gate does not permit is answered
DENY: it is counted, the first one after a clear is captured with its master, address, type and region, a later one sets OVF (R343 to
R346, R356). -/
def Obligations.RefusedWrites : Prop :=
  (∀ (s : State) (m : Mid) (addr data : W32) (z : Size) (t : Target),
    decodeTarget addr.toNat = some t → isMemory t = false → (z ≠ .b32 ∨ addr.toNat % 4 ≠ 0) →
    stalled s m = false → verdict s m (some t) addr.toNat .write = .go t →
    exec (.registerWrite m addr z data) s = .next (respond (served m t s) m addr .write .slverr 0)) ∧
  (∀ (s : State) (m : Mid) (addr data : W32) (z : Size) (t : Target),
    decodeTarget addr.toNat = some t → stalled s m = false → gatePermits s m t addr.toNat .write = false → unusable s 4 = false →
    ∃ u, exec (.registerWrite m addr z data) s = .next u ∧
      u = { issue s with act := u.act, yard := { (issue s).yard with resp := { mid := m, code := .deny } } } ∧
      u.act.cnt = satInc s.act.cnt 65535 ∧ u.act.ie = s.act.ie ∧
      (∀ g, g ≠ gateOf t → u.act.gate[g] = s.act.gate[g]) ∧
      u.act.gate[gateOf t] = { s.act.gate[gateOf t] with viol := some (match s.act.gate[gateOf t].viol with
        | none => { addr := addr, mid := m, kind := .write
                    region := regionOf s.act.gate[gateOf t] (bankAddr s t addr.toNat), ovf := false }
        | some v => { v with ovf := true }) })

/-- The yard's errors. YARD_TIMEOUT of a processor's transaction to memory that has waited for TMO of 4 µs each, below 0x10 as 0x10, with
TMO_EN 1: it is answered SLVERR, leaves the yard, and is counted both as a timeout and as SLVERR; whether a write was performed is left open;
one that has not waited so long goes on waiting (R38, R39, R42). YERR_VALID_CLEAR,
CNT_CLR and PEAK_CLR that reach SYS change the capture, the counters or PEAK, and nothing else but what the transaction itself does
(R39, R42). -/
def Obligations.YardErrors : Prop :=
  (∀ (s : State) (tag : Fin 128) (x : Txn) (t : Target),
    s.yard.waiting.find? (fun y => y.tag = tag) = some x → x.cont = none → x.mid ≠ .spis →
    decodeTarget x.addr.toNat = some t → isMemory t = true →
    ((bit s.yard.cfg 8 = false ∨ 5 * x.age < 3072 * max (fld s.yard.cfg 7 0) 16) → exec (.yardTimeout tag) s = .next s) ∧
    (bit s.yard.cfg 8 = true → 3072 * max (fld s.yard.cfg 7 0) 16 ≤ 5 * x.age → ∃ u, exec (.yardTimeout tag) s = .next (settle u) ∧
      u.yard.resp = { mid := x.mid, code := .slverr } ∧ u.yard.waiting = s.yard.waiting.eraseP (fun y => y.tag = tag) ∧
      u.yard.tmoCnt = satInc s.yard.tmoCnt 255 ∧ u.yard.slverrCnt = satInc s.yard.slverrCnt 255 ∧
      (s.yard.err = none → u.yard.err = some { mid := x.mid, kind := x.kind, tmo := true, code := .slverr, addr := x.addr, ovf := false }) ∧
      u = { s with mem := u.mem, yard := u.yard, free := s.free + 1 } ∧
      (u.mem = s.mem ∨ (x.kind = .write ∧ u.mem = s.mem.writeN x.addr.toNat (leBytes (sizeBytes x.size) x.data.toNat))))) ∧
  (∀ (s : State) (m : Mid),
    (∀ ovf, reaches m .sys 0x40000804 (put 1 31 ||| putB ovf 30) s = true →
      exec (.yerrValidClear m ovf) s = .next (okay m 0 { served m .sys s with yard := { (served m .sys s).yard with err := none } })) ∧
    (reaches m .sys 0x40000810 1 s = true →
      exec (.cntClr m) s = .next (okay m 0 { served m .sys s with yard := { (served m .sys s).yard with
        slverrCnt := 0, decerrCnt := 0, deadCnt := 0, tmoCnt := 0 } })) ∧
    (reaches m .sys 0x40000810 2 s = true →
      exec (.peakClr m) s = .next (okay m 0 { served m .sys s with yard := { (served m .sys s).yard with
        peak := s.yard.waiting.length + 1 } })))

/-- IRQ_CLAIM that reaches the IRQ block returns the presented source of highest priority, the lowest number among equals, marks
it claimed and clears its edge latch; 0 when none is presented (R27). IRQ_COMPLETE of a source that this core claimed releases
it. TO_HOST and TO_GROOM latch sources 45 and 46 (R43). -/
def Obligations.IrqCommands : Prop :=
  ∀ (s : State) (m : Mid) (c : Core),
    (readReaches m .irq (claimAddr c) s = true →
      (bestSource s c = none → exec (.irqClaim m c) s = .next (okay m 0 (served m .irq s))) ∧
      (∀ n, bestSource s c = some n → exec (.irqClaim m c) s = .next (okay m (put n.val 0) { served m .irq s with irq := { s.irq with
        claimed := s.irq.claimed.set n.val (some c), edge := s.irq.edge &&& ~~~ (1#64 <<< n.val) } }))) ∧
    (∀ n : Fin 64, reaches m .irq (claimAddr c) (put n.val 0) s = true → s.irq.claimed[n] = some c →
      exec (.irqComplete m c (put n.val 0)) s = .next (okay m 0 { served m .irq s with irq := { s.irq with
        claimed := s.irq.claimed.set n.val none } })) ∧
    (reaches m .irq 0x40060050 1 s = true → exec (.toHost m) s = .next (okay m 0 { served m .irq s with irq := { s.irq with
      edge := s.irq.edge ||| (1#64 <<< 45) } })) ∧
    (reaches m .irq 0x40060050 2 s = true → exec (.toGroom m) s = .next (okay m 0 { served m .irq s with irq := { s.irq with
      edge := s.irq.edge ||| (1#64 <<< 46) } }))

/-- A write of a source number to a core's claim register, for a source that this core has not claimed, has no effect and completes
OKAY (R28). -/
def Obligations.UnclaimedCompletion : Prop :=
  ∀ (s : State) (m : Mid) (c : Core) (n : Fin 64),
    reaches m .irq (claimAddr c) (put n.val 0) s = true → s.irq.claimed[n] ≠ some c →
    exec (.irqComplete m c (put n.val 0)) s = .next (okay m 0 (served m .irq s))

/-- TRG_LOCK and TRG_DROP_CNT_CLR that reach the IRQ block (R40, R44), and TRG_FIRE of one software source: when no enabled
route has it, nothing but the transaction's own effect happens; when one route has it, that route fires alone, TRG_LAST
names the source and source 47 is latched (R30, R43). -/
def Obligations.RouteCommands : Prop :=
  ∀ (s : State) (m : Mid),
    (reaches m .irq 0x40060300 1 s = true →
      exec (.trgLock m) s = .next (okay m 0 { served m .irq s with trg := { s.trg with lock := true } })) ∧
    (reaches m .irq 0x40060308 0x80000000 s = true →
      exec (.trgDropCntClr m) s = .next (okay m 0 { served m .irq s with trg := { s.trg with dropCnt := 0 } })) ∧
    (∀ k : Fin 8, reaches m .irq 0x40060304 ((1#8 <<< k.val).setWidth 32) s = true → unusable s 5 = false →
      ((∀ r : Fin 32, routeHits s (0x38 + k.val) r = false) →
        exec (.trgFire m (1#8 <<< k.val)) s = .next (okay m 0 (served m .irq s))) ∧
      (∀ r : Fin 32, (idx 32).filter (routeHits s (0x38 + k.val)) = [r] →
        ∃ t, exec (.trgFire m (1#8 <<< k.val)) s = .next t ∧ t.trg.last = 0x38 + k.val ∧
          t.irq.edge = s.irq.edge ||| (1#64 <<< 47) ∧ t.mem = s.mem ∧ t.boot = s.boot ∧ t.yard.resp = { mid := m } ∧
          (bit s.trg.route[r] 13 = false → t.stl = s.stl) ∧
          (bit s.trg.route[r] 14 = false → t.trx = s.trx) ∧
          (bit s.trg.route[r] 15 = false → t.zlk = s.zlk)))

/-- Actions that are not carried out. A software source fires the one route that has it: after the route's post, if it has one, an ACT_TX
action that finds its slot unarmed or still in flight, and an ACT_ZLK action that finds the device not joined to a running zone, are not
carried out, and each is counted in TRG_DROP_CNT; the radio and the Troax link stay as they were (R32). -/
def Obligations.DroppedActions : Prop :=
  ∀ (s : State) (m : Mid) (k : Fin 8) (r : Fin 32) (slot : Fin 4),
    reaches m .irq 0x40060304 ((1#8 <<< k.val).setWidth 32) s = true → unusable s 5 = false →
    (idx 32).filter (routeHits s (0x38 + k.val)) = [r] → fld s.trg.route[r] 17 16 = slot.val →
    let p := if bit s.trg.route[r] 13 then postMask (fld s.trg.route[r] 10 8) s.trg.mask[r] (served m .irq s) else served m .irq s
    let fired (drops : Nat) : State :=
      okay m 0 { p with trg := { p.trg with dropCnt := satAdd p.trg.dropCnt drops 65535, last := 0x38 + k.val }
                        irq := { p.irq with edge := p.irq.edge ||| (1#64 <<< 47) } }
    (bit s.trg.route[r] 14 = true → bit s.trg.route[r] 15 = false → (s.trx.arm[slot].armed = false ∨ s.trx.arm[slot].inflight = true) →
      exec (.trgFire m (1#8 <<< k.val)) s = .next (fired 1) ∧ (fired 1).trx = s.trx) ∧
    (bit s.trg.route[r] 14 = false → bit s.trg.route[r] 15 = true → s.zlk.state ≠ .follower → s.zlk.state ≠ .leader →
      exec (.trgFire m (1#8 <<< k.val)) s = .next (fired 1) ∧ (fired 1).zlk = s.zlk) ∧
    (bit s.trg.route[r] 14 = true → bit s.trg.route[r] 15 = true → (s.trx.arm[slot].armed = false ∨ s.trx.arm[slot].inflight = true) →
      s.zlk.state ≠ .follower → s.zlk.state ≠ .leader →
      exec (.trgFire m (1#8 <<< k.val)) s = .next (fired 2) ∧ (fired 2).trx = s.trx ∧ (fired 2).zlk = s.zlk)

/-- The access tables. ALL and ONE, written by a master that may write ACT, lock every gate, and gate GATE (R347, R349); VIOL_CLEAR clears a
gate's capture and VIOL_CNT_CLR the count, locked or not (R346, R349, R356). Nothing else changes. The registers of a locked gate's regions,
default and control answer SLVERR and keep their values (R349). -/
def Obligations.AccessTableCommands : Prop :=
  (∀ (s : State) (m : Mid), actWriter m = true →
    (reaches m .act 0x40010004 0x80000000 s = true →
      ∃ t, exec (.all m) s = .next t ∧ t = okay m 0 { served m .act s with act := { s.act with gate := t.act.gate } } ∧
        ∀ g : Fin 25, t.act.gate[g] = { s.act.gate[g] with locked := true }) ∧
    (∀ g : Fin 25, reaches m .act 0x40010004 (put 1 30 ||| (BitVec.ofNat 5 g.val).setWidth 32) s = true →
      ∃ t, exec (.one m (BitVec.ofNat 5 g.val)) s = .next t ∧
        t = okay m 0 { served m .act s with act := { s.act with gate := t.act.gate } } ∧
        t.act.gate[g] = { s.act.gate[g] with locked := true } ∧ ∀ j : Fin 25, j ≠ g → t.act.gate[j] = s.act.gate[j]) ∧
    (∀ g : Fin 25, reaches m .act (0x40010000 + (0x80 + g.val * 0x80 + 0x6C)) 0x80000000 s = true →
      ∃ t, exec (.violClear m g) s = .next t ∧ t = okay m 0 { served m .act s with act := { s.act with gate := t.act.gate } } ∧
        t.act.gate[g] = { s.act.gate[g] with viol := none } ∧ ∀ j : Fin 25, j ≠ g → t.act.gate[j] = s.act.gate[j]) ∧
    (reaches m .act 0x40010010 0x80000000 s = true →
      exec (.violCntClr m) s = .next (okay m 0 { served m .act s with act := { s.act with cnt := 0 } }))) ∧
  (∀ (s : State) (m : Mid) (g : Fin 25) (o : Fin 26) (d : W32),
    actWriter m = true → s.act.gate[g].locked = true →
    stalled s m = false → verdict s m (some .act) (0x40010080 + g.val * 0x80 + 4 * o.val) .write = .go .act →
    exec (.registerWrite m (BitVec.ofNat 32 (0x40010080 + g.val * 0x80 + 4 * o.val)) .b32 d) s =
      .next (respond (served m .act s) m (BitVec.ofNat 32 (0x40010080 + g.val * 0x80 + 4 * o.val)) .write .slverr 0))

/-- PARK from LIVE, UNPARK from VERIFIED or a PARKED paddock that is not EMPTY, and ABORT from LOADING, of a usable paddock that is
not under test: the paddock's state moves as R65 says and no other paddock's does; the park mode is kept, and the held time
starts from zero (R65 to R68); ABORT ends the load with ABORTED, and of an access of the load that waits nothing more follows
(R65, R73). -/
def Obligations.PaddockCommands : Prop :=
  ∀ (s : State) (m : Mid) (p : Fin 8), pdkUnusable s p = false → underTest s (32 + p.val) = false →
    (∀ hold, reaches m .cfg 0x40040000 (putB hold 8 ||| put p.val 4 ||| 1) s = true → s.cfg.pdk[p].state = .live →
      ∃ t, exec (.park m p hold) s = .next t ∧ t = okay m 0 { served m .cfg s with cfg := { s.cfg with pdk := t.cfg.pdk }, pwr := t.pwr, pio := t.pio } ∧
        t.cfg.pdk[p] = { s.cfg.pdk[p] with state := .parking, hold := hold, begun := false, holdRun := false, heldCyc := 0 } ∧
        ∀ q, q ≠ p → t.cfg.pdk[q] = s.cfg.pdk[q]) ∧
    (reaches m .cfg 0x40040000 (put p.val 4 ||| 3) s = true →
      (s.cfg.pdk[p].state = .verified ∨ (s.cfg.pdk[p].state = .parked ∧ s.cfg.pdk[p].empty = false)) →
      ∃ t, exec (.unpark m p) s = .next t ∧
        t = okay m 0 { served m .cfg s with cfg := { s.cfg with pdk := t.cfg.pdk }, stl := t.stl, sns := t.sns, pwr := t.pwr, pio := t.pio } ∧
        t.cfg.pdk[p] = { s.cfg.pdk[p] with state := .unparking, begun := false } ∧
        (∀ q, q ≠ p → t.cfg.pdk[q] = s.cfg.pdk[q]) ∧ domReady t .sense = true ∧ domReady t (.paddock p) = true ∧
        ∀ n, t.stl[n] = if pdkOf n = p then { s.stl[n] with updated := false } else s.stl[n]) ∧
    (reaches m .cfg 0x40040000 (put p.val 4 ||| 4) s = true → s.cfg.pdk[p].state = .loading →
      ∃ t, exec (.abort m p) s = .next t ∧ t = okay m 0 { dropTask (.event .loadEnd) (served m .cfg s) with cfg := { s.cfg with
          pdk := t.cfg.pdk, load := none, phase := 0, code := 0x50, errOff := 0, statPdk := p.val
          evt := withBit (withBit s.cfg.evt 1 true) 0 true } } ∧
        t.cfg.pdk[p] = { s.cfg.pdk[p] with state := .parked, empty := true, last := 0x50 } ∧
        ∀ q, q ≠ p → t.cfg.pdk[q] = s.cfg.pdk[q])

/-- LOAD from PARKED or VERIFIED with no load running: the paddock is LOADING, a partial load of it from CFG_SRC runs, or has failed with
SRC_ADDR where the source is no SRAM, and its windows have returned to their reset values, but for the run state of the park mode in
force and what waits to be shown (R65, R69, R71); no other paddock and no other stall changes. LOAD_BASE, once per reset with no load
running, starts a base load from CFG_SRC, and a second one is rejected (R61, R65). CONFIRM by MID 0 in the boot ROM decides a base load in
WAIT_SWV: with PASS it goes on to be applied, without it ends with SIGNATURE (R63). -/
def Obligations.LoadCommands : Prop :=
  ∀ (s : State) (m : Mid),
    (∀ p : Fin 8, pdkUnusable s p = false → underTest s (32 + p.val) = false → s.cfg.load = none →
      (s.cfg.pdk[p].state = .parked ∨ s.cfg.pdk[p].state = .verified) →
      reaches m .cfg 0x40040000 (put p.val 4 ||| 2) s = true →
      ∃ t l, exec (.load m p) s = .next t ∧
        t = okay m 0 { s with
          cfg := { s.cfg with load := some l, phase := stagePhase l.stage, digest := t.cfg.digest, statPdk := p.val, pdk := t.cfg.pdk }
          stl := t.stl, pwr := t.pwr, pio := t.pio, sns := t.sns, pkv := t.pkv, act := t.act, yard := t.yard } ∧
        t.cfg.pdk[p] = { s.cfg.pdk[p] with state := .loading, tag := 0 } ∧ (∀ q, q ≠ p → t.cfg.pdk[q] = s.cfg.pdk[q]) ∧
        l.base = false ∧ l.pdk = p ∧ l.src = s.cfg.src.toNat ∧
        (s.cfg.src.toNat < 0x20000000 ∨ 0x20080000 < s.cfg.src.toNat + 212 → l.stage = .checked 0x51 0) ∧
        (∀ n, pdkOf n = p → t.stl[n] = { Stall.atReset n with
          held := s.stl[n].held, acc := s.stl[n].acc, frz := s.stl[n].frz, ocRun := s.stl[n].ocRun, ocTrips := s.stl[n].ocTrips
          pendC := s.stl[n].pendC, active := s.stl[n].active, drift := s.stl[n].drift, firstC := s.stl[n].firstC
          causes := s.stl[n].causes, used := s.stl[n].used, waitCyc := s.stl[n].waitCyc, retryPend := s.stl[n].retryPend
          shortCyc := s.stl[n].shortCyc, onTime := s.stl[n].onTime, gate := s.stl[n].gate, tripped := s.stl[n].tripped
          periodAt := s.stl[n].periodAt, rise := s.stl[n].rise, linAcc := s.stl[n].linAcc, dac := s.stl[n].dac, volt := s.stl[n].volt
          shortSel := s.stl[n].shortSel, shortTh := s.stl[n].shortTh, posts := s.stl[n].posts, sawFault := s.stl[n].sawFault
          sawMiss := s.stl[n].sawMiss, sawScene := s.stl[n].sawScene, sawSat := s.stl[n].sawSat, lastMiss := s.stl[n].lastMiss }) ∧
        (∀ n, pdkOf n ≠ p → t.stl[n] = s.stl[n])) ∧
    (s.cfg.load = none → reaches m .cfg 0x40040000 5 s = true →
      (s.cfg.baseUsed = false → ∃ t l, exec (.loadBase m) s = .next t ∧
        t = okay m 0 { s with
          cfg := { s.cfg with baseUsed := true, load := some l, phase := stagePhase l.stage, digest := t.cfg.digest }
          pwr := t.pwr, sns := t.sns, pkv := t.pkv, act := t.act, yard := t.yard } ∧
        l.base = true ∧ l.src = s.cfg.src.toNat) ∧
      (s.cfg.baseUsed = true → exec (.loadBase m) s = .next (okay m 0 { served m .cfg s with cfg := { s.cfg with
        rej := 2, evt := withBit s.cfg.evt 3 true } }))) ∧
    (∀ l c o, s.cfg.load = some l → l.stage = .waitSwv c o → m = .hostS → s.boot.bootRom = true →
      (reaches m .cfg 0x40040000 0x106 s = true → exec (.confirm m true) s = .next (okay m 0 { served m .cfg s with cfg := { s.cfg with
        load := some { l with stage := .checked c o }, phase := stagePhase (.checked c o) } })) ∧
      (reaches m .cfg 0x40040000 6 s = true → exec (.confirm m false) s = .next (okay m 0 { served m .cfg s with cfg := { s.cfg with
        load := some { l with stage := .checked 0x21 0 }, phase := stagePhase (.checked 0x21 0) } })))

/-- WAIT_SWV stops a base load at step 10 for software verification (R63). LOAD_END of a load whose first pass has ended, with nothing
waiting on the yard, ends it with DONE and its code, unless an access of its second pass must wait (R19, R58): a partial load that ends
leaves its paddock VERIFIED and not EMPTY, or PARKED, EMPTY and with LAST the code
(R62, R65, R69, R73); a load that failed in the first pass writes nothing (R57), and a base load that did so leaves every paddock as it
was, the profile locked (R207). -/
def Obligations.LoadEvents : Prop :=
  ∀ (s : State) (l : LoadRun), s.cfg.load = some l → yardIdle s →
    (∀ c o, l.stage = .atStep10 c o → exec .waitSwv s = .next { s with cfg := { s.cfg with
      load := some { l with stage := .waitSwv c o }, phase := 7 } }) ∧
    (∀ o, l.stage = .checked 0 o → ∃ u, exec .loadEnd s = .next (settle u) ∧
      ((u.cfg.load.isSome = true ∧ (u.yard.waiting ≠ [] ∨ u.yard.port ≠ [])) ∨
       (u.cfg.load = none ∧ u.cfg.phase = 0 ∧ (l.base = false → bit u.cfg.evt 0 = true ∧ u.cfg.statPdk = l.pdk.val ∧
        ((u.cfg.code = 0 ∧ u.cfg.pdk[l.pdk].state = .verified ∧ u.cfg.pdk[l.pdk].empty = false ∧ u.cfg.pdk[l.pdk].last = 0) ∨
         (u.cfg.code ≠ 0 ∧ bit u.cfg.evt 1 = true ∧ u.cfg.pdk[l.pdk].state ∈ [.parked, .unusable] ∧
          u.cfg.pdk[l.pdk].empty = true ∧ u.cfg.pdk[l.pdk].last = u.cfg.code)))))) ∧
    (∀ c o, l.stage = .checked c o → l.base = false → c ≠ 0 → ∃ t, exec .loadEnd s = .next t ∧ t = { s with cfg := { s.cfg with
        load := none, phase := 0, code := c, errOff := BitVec.ofNat 32 o, statPdk := l.pdk.val
        evt := withBit (withBit s.cfg.evt 1 true) 0 true, pdk := t.cfg.pdk } } ∧
      t.cfg.pdk[l.pdk] = { s.cfg.pdk[l.pdk] with
        state := if s.cfg.pdk[l.pdk].state = .unusable then .unusable else .parked, empty := true, last := c } ∧
      ∀ q, q ≠ l.pdk → t.cfg.pdk[q] = s.cfg.pdk[q]) ∧
    (∀ c o, l.stage = .checked c o → l.base = true → c ≠ 0 →
      (booting s = false → exec .loadEnd s = .next { s with rgy := { s.rgy with lock := true }, cfg := { s.cfg with
        load := none, phase := 0, code := c, errOff := BitVec.ofNat 32 o, evt := withBit (withBit s.cfg.evt 1 true) 0 true } }) ∧
      (booting s = true → 2 < c → ∃ t, exec .loadEnd s = .next t ∧ t.boot.lastRst = 8 ∧ t.boot.lastFail = c ∧
        t.boot.skip = s.boot.skip ||| (1#2 <<< (bankIdx s.boot.bank).val)))

/-- Parking and unparking run at their instants: at a tick boundary PARKING_START begins it and freezes what is outside the schedule;
STALL_FREEZE freezes one stall in the park mode at its update instant, after an update that is still due; the paddock is PARKED once its
four stalls are frozen (R66, R67); HOLD_EXP at the hold limit takes the gates low
and leaves the state (R68); at a tick boundary UNPARKING_START makes the enabled stalls join, and the paddock is LIVE once its four stalls have made
their first update (R70). No stall and no state of another paddock changes. -/
def Obligations.ParkingEvents : Prop :=
  ∀ (s : State) (p : Fin 8),
    (s.cfg.pdk[p].state = .parking → s.cfg.pdk[p].begun = false → tickNow s = true →
      ∃ t, exec (.parkingStart p) s = .next t ∧ t = { s with stl := t.stl, cfg := { s.cfg with pdk := t.cfg.pdk, evt := t.cfg.evt } } ∧
        (∀ n, pdkOf n = p → t.stl[n].frozen = !s.stl[n].run) ∧ (∀ n, pdkOf n ≠ p → t.stl[n] = s.stl[n]) ∧
        (∀ q, q ≠ p → t.cfg.pdk[q] = s.cfg.pdk[q]) ∧
        t.cfg.pdk[p].state = if (stallsOf p).all (fun n => t.stl[n].frozen) then .parked else .parking) ∧
    (∀ n, pdkOf n = p → s.cfg.pdk[p].state = .parking → s.cfg.pdk[p].begun = true → s.stl[n].frozen = false → dueNow s n = true →
      let u := stallUpdate n s
      exec (.stallFreeze n) s = .next (if u.cfg.pdk[p].state = .parking ∧ u.cfg.pdk[p].begun = true ∧ u.stl[n].frozen = false then
        parkCheck p (updStl u n (freezeStall u.cfg.pdk[p].hold)) else u)) ∧
    (∀ n, pdkOf n = p → s.cfg.pdk[p].state = .parking → s.cfg.pdk[p].begun = true → s.stl[n].frozen = false →
      dueNow s n = false → (s.stl[n].run = false ∨ s.stl[n].updT = some s.time) →
      ∃ t, exec (.stallFreeze n) s = .next t ∧ t = { s with stl := t.stl, cfg := { s.cfg with pdk := t.cfg.pdk, evt := t.cfg.evt } } ∧
        t.stl[n].frozen = true ∧ t.stl[n].run = false ∧
        t.stl[n].held = (if s.cfg.pdk[p].hold && s.stl[n].run then s.stl[n].cmd else 0) ∧
        (s.cfg.pdk[p].hold = false → t.stl[n].gate = false) ∧ (s.cfg.pdk[p].hold = true → t.stl[n].gate = s.stl[n].gate) ∧
        (∀ j, j ≠ n → t.stl[j] = s.stl[j]) ∧ (∀ q, q ≠ p → t.cfg.pdk[q] = s.cfg.pdk[q]) ∧
        t.cfg.pdk[p].state = if (stallsOf p).all (fun n => t.stl[n].frozen) then .parked else .parking) ∧
    (s.cfg.pdk[p].hold = true → s.cfg.pdk[p].holdRun = true → s.cfg.pdk[p].state ≠ .live → s.cfg.pdk[p].state ≠ .unusable →
      min (max s.cfg.holdLim 1) 500 * 153600 ≤ s.cfg.pdk[p].heldCyc →
      ∃ t, exec (.holdExp p) s = .next t ∧ t = { s with stl := t.stl, cfg := { s.cfg with
          pdk := t.cfg.pdk, evt := withBit s.cfg.evt 2 true } } ∧
        t.cfg.pdk[p] = { s.cfg.pdk[p] with hold := false, holdExp := true, holdRun := false } ∧
        (∀ q, q ≠ p → t.cfg.pdk[q] = s.cfg.pdk[q]) ∧
        ∀ n, t.stl[n] = if pdkOf n = p then gateLow { s.stl[n] with held := 0 } else s.stl[n]) ∧
    (s.cfg.pdk[p].state = .unparking → s.cfg.pdk[p].begun = false → lanesReady s p = true → lpeOn s = true → tickNow s = true →
      ∃ t, exec (.unparkingStart p) s = .next t ∧ t = { s with stl := t.stl, cfg := { s.cfg with pdk := t.cfg.pdk, evt := t.cfg.evt } } ∧
        (∀ n, pdkOf n = p → t.stl[n].frozen = false ∧ t.stl[n].updated = !(s.stl[n].en && !s.stl[n].active) ∧
          (s.stl[n].en = true → s.stl[n].active = false → t.stl[n].joining = true ∧ t.stl[n].first = true)) ∧
        (∀ n, pdkOf n ≠ p → t.stl[n] = s.stl[n]) ∧ (∀ q, q ≠ p → t.cfg.pdk[q] = s.cfg.pdk[q]) ∧
        t.cfg.pdk[p].state = if (stallsOf p).all (fun n => t.stl[n].updated) then .live else .unparking)

/-- A conversion of a lane that converts, with AVG off: the stall's sense value is the corrected and scaled result rounded to Q2.22
and saturated, VALID, not SUBST, OVR where the input or the result was out of range (R79, R81, R82, R98). At a reference slot it is the substitute
2·x1 − x2, marked SUBST, and the sequence of references advances (R83 to R85). No register but the sensing block's changes,
and no stall but by a publication (R150). -/
def Obligations.CurrentConversions : Prop :=
  ∀ (s : State) (tick : W32) (raw : BitVec 32),
    (∀ n : Fin 32, laneOn s (laneOf n) = true → averaged s n = false →
      ∃ t, exec (.adcResult n tick raw) s = .next t ∧ t = { s with sns := t.sns, stl := t.stl } ∧
        (let y := convert s.sns.adl[laneOf n] (n.val % 2 = 1) s.sns.cs[n] raw.toInt
         let v := convRound y 1
         t.sns.cs[n].val = BitVec.ofInt 24 (satS 24 v) ∧ t.sns.cs[n].valid = true ∧ t.sns.cs[n].subst = false ∧
         t.sns.cs[n].ovr = (rawBeyond raw.toInt || overS 24 v) ∧ t.sns.cs[n].x1 = some y ∧ t.sns.cs[n].x2 = s.sns.cs[n].x1) ∧
        ∀ j, j ≠ n → t.sns.cs[j] = s.sns.cs[j]) ∧
    (∀ k : Fin 16, laneOn s k = true → bit s.sns.ctrl 0 = true → tick.toNat % 512 = 32 * k.val →
      averaged s (slotStall k (s.sns.adl[k].seq % 2 = 1)) = false →
      ∃ t, exec (.calReference k tick raw) s = .next t ∧ t = { s with sns := t.sns, stl := t.stl } ∧
        t.sns.adl[k].seq = (s.sns.adl[k].seq + 1) % 6 ∧
        (let n := slotStall k (s.sns.adl[k].seq % 2 = 1)
         t.sns.cs[n].val = BitVec.ofInt 24 (satS 24 (convRound (substitute s.sns.cs[n]) 1)) ∧ t.sns.cs[n].subst = true ∧
         ∀ j, j ≠ n → t.sns.cs[j] = s.sns.cs[j]))

/-- LANE_RDY ends a lane's start-up calibration (R102); AUX_CONVERSION publishes the input under conversion and goes on with the
scan (R87); DAY_RESULT at the end of an integration publishes the net current as EXP, MANT and SAT (R90, R92, R100); TEMP_MEASUREMENT takes the die temperature, publishes it
while TEMP_EN is 1, and at 115 °C or more ends RUN-FAST (R93, R331). -/
def Obligations.SlowConversions : Prop :=
  ∀ s : State, snsOn s = true →
    (∀ k r0 r1, s.sns.adlEn.getLsbD k.val = true → s.sns.adl[k].calRun = true → unusable s (32 + (lanePdk k).val) = false →
      ∃ t, exec (.laneRdy k r0 r1) s = .next t ∧ t = { s with sns := t.sns } ∧ t.sns.adl[k].rdy = true ∧
        t.sns.adl[k].calRun = false ∧ t.sns.adl[k].seq = 0 ∧
        ∀ b, t.sns.cs[slotStall k b].x1 = none ∧ t.sns.cs[slotStall k b].cnt = 0) ∧
    (∀ i vin vexc, s.sns.auxIn = some i → unusable s 44 = false →
      ∃ t, exec (.auxConversion vin vexc) s = .next t ∧ t = { s with sns := t.sns, stl := t.stl } ∧
        t.sns.aux[i].valid = true ∧ t.sns.aux[i].pub = auxValue t.sns.aux[i] ∧
        t.sns.aux[i].data = auxData vin (if bit s.sns.aux[i].cfg 0 then vexc else 1200000000) ∧
        (∀ j, j ≠ i → t.sns.aux[j] = s.sns.aux[j]) ∧ t.sns.auxPend = none ∧
        t.sns.auxIn = auxNext (s.sns.auxPend.getD s.sns.auxCfg) i ∧
        (auxHighest s.sns.auxCfg i = true → bit t.sns.evt 3 = true)) ∧
    (∀ d i, unusable s 46 = false → bit s.sns.ctrl 3 = true → s.sns.day[d].due = 0 →
      ∃ t, exec (.dayResult d i) s = .next t ∧ t.sns.day[d].valid = true ∧
        (t.sns.day[d].exp, t.sns.day[d].mant, t.sns.day[d].sat) = dayEncode i ∧ t.sns.day[d].pub = dayValue t.sns.day[d] ∧
        (∀ j, j ≠ d → t.sns.day[j] = s.sns.day[j]) ∧ t.sns.cs = s.sns.cs ∧ t.mem = s.mem ∧ t.cfg = s.cfg ∧ t.boot = s.boot) ∧
    (∀ v, (bit s.sns.ctrl 4 = true ∨ s.sns.adlEn ≠ 0) → s.pwr.tadj = false →
      ∃ t, exec (.tempMeasurement v) s = .next t ∧ t.sns.temp = v ∧
        (bit s.sns.ctrl 4 = true → t.sns.tempData = v ∧ t.sns.tempValid = true) ∧
        (bit s.sns.ctrl 4 = false → t.sns.tempData = s.sns.tempData) ∧
        (s.pwr.state = .runFast → 7360 ≤ v.toInt → t.pwr.state = .run ∧ t.clk.fast = false) ∧
        (v.toInt < 7360 → t.pwr = s.pwr ∧ t.clk = s.clk) ∧ t.mem = s.mem ∧ t.cfg = s.cfg ∧ t.sns.cs = s.sns.cs)

/-- Writes that reach the sensing block. START_UP_CALIBRATION: lanes newly enabled run start-up calibration and leave CAL_FAIL, lanes
disabled stop (R99, R102). ADL_CFG is taken while the lane's paddock is neither LIVE nor PARKING, else SLVERR (R95). AUX_CFG is held until the conversion in
progress ends (R87). PIR_ENABLE of a channel that was off starts it afresh, settling unless SETTLE is 0 (R89). -/
def Obligations.SensingCommands : Prop :=
  ∀ (s : State) (m : Mid),
    (∀ en : BitVec 16, reaches m .sns 0x40140004 (en.setWidth 32) s = true →
      ∃ t, exec (.startUpCalibration m en) s = .next t ∧ t = okay m 0 { served m .sns s with sns := { s.sns with adlEn := t.sns.adlEn, adl := t.sns.adl } } ∧
        t.sns.adlEn = en ∧ ∀ k : Fin 16, t.sns.adl[k] =
          if en.getLsbD k.val then (if s.sns.adlEn.getLsbD k.val then s.sns.adl[k] else { adlRestart true s.sns.adl[k] with calFail := false })
          else { s.sns.adl[k] with rdy := false, calRun := false }) ∧
    (∀ k data, reaches m .sns (0x40140100 + k.val * 0x10) data s = true →
      (pdkBusy s (lanePdk k) = false → ∃ t, exec (.adlCfg m k data) s = .next t ∧
        t = okay m 0 { served m .sns s with sns := { s.sns with adl := t.sns.adl } } ∧ t.sns.adl[k].cfg = data &&& 0x33 ∧
        ∀ j, j ≠ k → t.sns.adl[j] = s.sns.adl[j]) ∧
      (pdkBusy s (lanePdk k) = true → exec (.adlCfg m k data) s =
        .next (respond (served m .sns s) m (BitVec.ofNat 32 (0x40140100 + k.val * 0x10)) .write .slverr 0))) ∧
    (∀ data, reaches m .sns 0x40140400 data s = true →
      (∀ i, s.sns.auxIn = some i → exec (.auxCfg m data) s = .next (okay m 0 { served m .sns s with sns := { s.sns with auxPend := some (data &&& 0x3FF) } })) ∧
      (s.sns.auxIn = none → exec (.auxCfg m data) s = .next (okay m 0 { served m .sns s with sns := { s.sns with
        auxCfg := data &&& 0x3FF, auxPend := none, auxIn := if bit s.sns.ctrl 1 then auxLowest (data &&& 0x3FF) else none } }))) ∧
    (∀ j data, reaches m .sns (0x40140500 + j.val * 0x20) (withBit data 0 true) s = true →
      ∃ t, exec (.pirEnable m j data) s = .next t ∧ t = okay m 0 { served m .sns s with sns := { s.sns with pir := t.sns.pir } } ∧
        t.sns.pir[j].cfg = withBit data 0 true &&& 0x3FFFF301 ∧
        (bit s.sns.ctrl 2 = true → bit s.sns.pir[j].cfg 0 = false →
          t.sns.pir[j].armed = false ∧ t.sns.pir[j].ages = [] ∧ t.sns.pir[j].det = false ∧
          t.sns.pir[j].settle = (fld (withBit data 0 true &&& 0x3FFFF301) 29 24 != 0)))

/-- VREF_BAD and VREF_RETURN set what the lanes see of the reference, and while SENSE works the event (R96, R100). For a PIR channel that runs: a sample
publishes its value, and while the channel counts pulses, a pulse that completes COUNT within WIN asserts the decision (R88, R89);
PIR_HOLD_END ends the decision once HOLD has passed without a pulse; SETTLE_END after SETTLE arms the channel if its last sample lay
below THR/2 (R89); PIR_SAT suspends counting and
PIR_SAT_CLEAR resumes it unarmed (R100). The other channel keeps its state, and nothing but the sensing block changes save by a
publication and a decision's trigger. -/
def Obligations.PirAndReference : Prop :=
  ∀ s : State,
    (snsOn s = true → s.pwr.state ≠ .slumber →
      exec .vrefBad s = .next { s with sns := { s.sns with vrefOk := false, evt := withBit s.sns.evt 2 true } }) ∧
    (snsOn s = false ∨ s.pwr.state = .slumber → exec .vrefBad s = .next { s with sns := { s.sns with vrefOk := false } }) ∧
    exec .vrefReturn s = .next { s with sns := { s.sns with vrefOk := true } } ∧
    ∀ j : Fin 2, pirOn s j = true →
      (∀ v, ∃ t, exec (.pirSample j v) s = .next t ∧ t.sns.pir[j].val = v ∧ (∀ i, i ≠ j → t.sns.pir[i] = { s.sns.pir[i] with hit := none }) ∧
        t.sns.cs = s.sns.cs ∧ t.sns.adl = s.sns.adl ∧ t.sns.aux = s.sns.aux ∧ t.sns.day = s.sns.day ∧ t.mem = s.mem ∧ t.cfg = s.cfg ∧
        (s.sns.pir[j].settle = true ∨ s.sns.pir[j].sat = true →
          t.sns.pir[j] = { pirAge s.sns.pir[j] with
            val := v, quiet := s.sns.pir[j].quiet + 1, setl := if s.sns.pir[j].settle then s.sns.pir[j].setl + 1 else 0, hit := none } ∧
          t = { s with sns := t.sns, stl := t.stl }) ∧
        (s.sns.pir[j].settle = false → s.sns.pir[j].sat = false →
          let pulse : Prop := s.sns.pir[j].low = true ∧ s24 s.sns.pir[j].thr < v.toInt.natAbs
          let aged := (s.sns.pir[j].ages.map (· + 1)).filter (· ≤ max (fld s.sns.pir[j].cfg 15 12) 1 * 500)
          (pulse → t.sns.pir[j].ages = aged ++ [0] ∧ t.sns.pir[j].quiet = 0) ∧
          (¬pulse → t.sns.pir[j].ages = aged ∧ t.sns.pir[j].quiet = s.sns.pir[j].quiet + 1) ∧
          (t.sns.pir[j].det = true ↔ s.sns.pir[j].det = true ∨ (pulse ∧ max (fld s.sns.pir[j].cfg 9 8) 1 ≤ aged.length + 1)) ∧
          (t.sns.pir[j].low = true ↔ (s.sns.pir[j].low = true ∧ ¬pulse) ∨ (2 * v.toInt.natAbs : Int) < s24 s.sns.pir[j].thr) ∧
          (s.sns.pir[j].det = false → t.sns.pir[j].det = true → bit t.sns.evt (5 + j.val) = true))) ∧
      (s.sns.pir[j].det = true → max (fld s.sns.pir[j].cfg 23 16 * 1000) 1 ≤ s.sns.pir[j].quiet → ∃ t, exec (.pirHoldEnd j) s = .next t ∧ t = { s with sns := { s.sns with pir := t.sns.pir } } ∧
        t.sns.pir[j] = { s.sns.pir[j] with det := false } ∧ ∀ i, i ≠ j → t.sns.pir[i] = s.sns.pir[i]) ∧
      (s.sns.pir[j].settle = true → fld s.sns.pir[j].cfg 29 24 * 1000 ≤ s.sns.pir[j].setl → ∃ t, exec (.settleEnd j) s = .next t ∧ t = { s with sns := { s.sns with pir := t.sns.pir } } ∧
        t.sns.pir[j].settle = false ∧
        (t.sns.pir[j].armed = true ↔ (2 * s.sns.pir[j].val.toInt.natAbs : Int) < s24 s.sns.pir[j].thr) ∧
        ∀ i, i ≠ j → t.sns.pir[i] = s.sns.pir[i]) ∧
      (∃ t, exec (.pirSat j) s = .next t ∧ t = { s with sns := { s.sns with pir := t.sns.pir } } ∧
        t.sns.pir[j] = { s.sns.pir[j] with sat := true } ∧ ∀ i, i ≠ j → t.sns.pir[i] = s.sns.pir[i]) ∧
      (s.sns.pir[j].sat = true → ∃ t, exec (.pirSatClear j) s = .next t ∧ t = { s with sns := { s.sns with pir := t.sns.pir } } ∧
        t.sns.pir[j].sat = false ∧ t.sns.pir[j].armed = false ∧ ∀ i, i ≠ j → t.sns.pir[i] = s.sns.pir[i])

/-- LPE_TICK after 5 µs counts and begins a new tick's capacity, and takes in the stalls that join (R117, R120). STALL_SAMPLE at the sample
instant of a stall in the schedule, or joining it, latches the
sense bus values that its lanes select and the set-point that holds after the winning post of a LIVE paddock (R78, R117,
R123); its sample waits for a datapath, until DEADLINE (R118). STALL_COMPUTE computes the one that comes first, and adds its cycles to the tick's load (R118, R119). Nothing
else changes but the loop engine, and by a computation the echoes (R155, R156). -/
def Obligations.SamplingAndComputing : Prop :=
  ∀ s : State,
    (lpeOn s = true → s.lpe.tickDue = 0 → ∃ t, exec .lpeTick s = .next t ∧ t = { s with
        lpe := { s.lpe with tick := s.lpe.tick + 1, tickLoad := 0, tickDue := 768 }, stl := t.stl, sns := { s.sns with cs := t.sns.cs } } ∧
      ∀ n : Fin 32, t.sns.cs[n] = { s.sns.cs[n] with now := false } ∧ t.stl[n] = { s.stl[n] with
        sampled := false, joinT := if s.stl[n].joining ∧ s.stl[n].joinT = none then some (s.lpe.tick + 1) else s.stl[n].joinT }) ∧
    (s.lpe.tickDue ≠ 0 → exec .lpeTick s = .next s) ∧
    ∀ n : Fin 32, stallOn s n = true →
      (sampleNow s n = true → s.stl[n].due = none → pdkState s (pdkOf n) = .live → inSchedule s n = true →
        ∃ t m, exec (.stallSample n) s = .next t ∧ t = { s with stl := t.stl, lpe := t.lpe } ∧
          t.stl[n].samp = some m ∧ t.stl[n].due = some (s.time + fld s.stl[n].timing 29 24 * 1536 / 10) ∧ t.stl[n].sampled = true ∧
          t.stl[n].run = true ∧ t.stl[n].joining = false ∧ t.stl[n].posts = 0 ∧
          (∀ j : Fin 4, m.fb[j] = senseBus s (fld s.stl[n].lane[j].ctrl 7 0) ∧ m.sp[j] = senseBus s (fld s.stl[n].lane[j].ctrl 15 8)) ∧
          m.target = (match winScene s.stl[n] with
            | some k => (s.stl[n].scn[k]).extractLsb' 0 24
            | none => s.stl[n].sp) ∧
          t.stl[n].cmd = s.stl[n].cmd ∧ ∀ i, i ≠ n → t.stl[i] = s.stl[i]) ∧
      (sampleNow s n = false → exec (.stallSample n) s = .next s) ∧
      (∀ m, s.stl[n].samp = some m → nextSample s n = true →
        ∃ t, exec (.stallCompute n) s = .next t ∧ t = { s with stl := t.stl, lpe := t.lpe, echo := t.echo } ∧
          t.stl[n] = { s.stl[n] with samp := none, result := some (computeStall s n m) } ∧
          t.lpe = { s.lpe with tickLoad := s.lpe.tickLoad + sampleCost m, peak := max s.lpe.peak (s.lpe.tickLoad + sampleCost m) } ∧
          ∀ i, i ≠ n → t.stl[i] = s.stl[i])

/-- STALL_UPDATE at the update instant of a stall of a LIVE paddock that runs. With a result and no cause present, the command and the ramp are those computed
(R104, R118). A missing result holds the command and counts a miss, while the misses in succession stay under LIMIT (R129,
R130); at LIMIT the stall enters FAULT with cause 8: command zero, EN cleared, ACTIVE, no more in the schedule (R130, R149).
A stall whose EN was cleared since its sample, and that has no cause, publishes zero and leaves the schedule, to join it anew if EN is set
again (R125). Before its update instant nothing happens (R118). Other stalls change by a publication at most (R150). -/
def Obligations.StallUpdates : Prop :=
  ∀ (s : State) (n : Fin 32), stallOn s n = true → pdkState s (pdkOf n) = .live → s.stl[n].run = true → s.stl[n].pendC = none →
    (dueNow s n = false → exec (.stallUpdate n) s = .next s) ∧
    (dueNow s n = true → s.stl[n].en = true → s.stl[n].leaving = false →
      (∀ r, s.stl[n].result = some r → r.cause = none →
        ∃ t, exec (.stallUpdate n) s = .next t ∧ t = { s with stl := t.stl } ∧ t.stl[n].cmd = r.cmd ∧ t.stl[n].spr = r.spr ∧
          t.stl[n].missRun = 0 ∧ t.stl[n].result = none ∧ t.stl[n].run = true ∧
          ∀ i, i ≠ n → ∃ C, t.stl[i] = { s.stl[i] with causes := C }) ∧
      (s.stl[n].result = none → satInc s.stl[n].missRun 255 < s.stl[n].missLimit →
        ∃ t, exec (.stallUpdate n) s = .next t ∧ t = { s with stl := t.stl, lpe := t.lpe } ∧ t.stl[n].cmd = s.stl[n].cmd ∧
          t.stl[n].miss = true ∧ t.stl[n].missCnt = satInc s.stl[n].missCnt 65535 ∧ t.stl[n].run = true ∧
          t.stl[n].missRun = satInc s.stl[n].missRun 255 ∧ bit t.lpe.evt 1 = true ∧ bit t.lpe.missMap n.val = true ∧
          ∀ i, i ≠ n → ∃ C, t.stl[i] = { s.stl[i] with causes := C }) ∧
      (s.stl[n].result = none → s.stl[n].missLimit ≤ satInc s.stl[n].missRun 255 →
        ∃ t, exec (.stallUpdate n) s = .next t ∧ t = { s with stl := t.stl, lpe := t.lpe, echo := t.echo, echoEvt := t.echoEvt } ∧
          t.stl[n].cmd = 0 ∧ t.stl[n].en = false ∧ t.stl[n].active = true ∧ t.stl[n].run = false ∧
          (s.stl[n].causes = 0 → t.stl[n].firstC = 8) ∧ bit t.lpe.evt 0 = true ∧
          ∀ i, i ≠ n → ∃ C, t.stl[i] = { s.stl[i] with causes := C })) ∧
    (dueNow s n = true → (s.stl[n].en = false ∨ s.stl[n].leaving = true) → (∀ r, s.stl[n].result = some r → r.cause = none) →
      (s.stl[n].result = none → satInc s.stl[n].missRun 255 < s.stl[n].missLimit) →
      ∃ t, exec (.stallUpdate n) s = .next t ∧ t = { s with stl := t.stl, lpe := t.lpe } ∧ t.stl[n].cmd = 0 ∧ t.stl[n].run = false ∧
        t.stl[n].samp = none ∧ t.stl[n].joining = s.stl[n].en ∧ ∀ i, i ≠ n → ∃ C, t.stl[i] = { s.stl[i] with causes := C })

/-- Writes that reach a stall of a paddock open to the writer (R64). STL_SP_WRITE sets SP and takes the stall from scenes (R124).
STALL_ENABLE of a stall that is not enabled sets EN, clears RUN of the over-current count, and joins the stall to the schedule of a LIVE paddock (R125,
R145); while the stall is ACTIVE in FAULT it is refused (R152). STALL_DISABLE clears EN. MISS_CNT_CLR clears the count and takes
LIMIT, CLAMP_CNT_CLEAR clears PRESET_LIM, and the count of a frozen lane (R134, R135). Each leaves every other stall as it is, and changes nothing
else but an entry to SLUMBER, which enabling aborts (R325). -/
def Obligations.StallCommands : Prop :=
  ∀ (s : State) (m : Mid) (n : Fin 32), pdkOpen m s (pdkOf n) →
    (∀ data, reaches m (.stall n) (stallAddr n 0x10) data s = true →
      ∃ t, exec (.stlSpWrite m n data) s = .next t ∧ t = okay m 0 { served m (.stall n) s with stl := t.stl } ∧
        (t.stl[n] = { s.stl[n] with sp := data.setWidth 24, scnFw := s.stl[n].scnFw || m ≠ .cfg } ∨
          t.stl[n] = gateLow { s.stl[n] with sp := data.setWidth 24, scnFw := s.stl[n].scnFw || m ≠ .cfg }) ∧
        ∀ i, i ≠ n → t.stl[i] = s.stl[i]) ∧
    (∀ data, reaches m (.stall n) (stallAddr n 0) (withBit data 31 true) s = true → s.stl[n].en = false →
      (s.stl[n].active = false →
        ∃ t, exec (.stallEnable m n data) s = .next t ∧ t = okay m 0 { served m (.stall n) s with stl := t.stl, pwr := t.pwr, pio := t.pio } ∧
          t.stl[n].en = true ∧ t.stl[n].ocRun = 0 ∧ t.stl[n].scnIe = bit data 3 ∧
          (pdkState s (pdkOf n) = .live → t.stl[n].joining = true ∧ t.stl[n].first = true) ∧
          (pdkState s (pdkOf n) ≠ .live → t.stl[n].joining = s.stl[n].joining) ∧
          t.stl[n].cmd = s.stl[n].cmd ∧ t.stl[n].sp = s.stl[n].sp ∧ ∀ i, i ≠ n → t.stl[i] = s.stl[i]) ∧
      (s.stl[n].active = true → exec (.stallEnable m n data) s =
        .next (respond (served m (.stall n) s) m (BitVec.ofNat 32 (stallAddr n 0)) .write .slverr 0))) ∧
    (∀ data, reaches m (.stall n) (stallAddr n 0) (withBit data 31 false) s = true →
      (s.stl[n].en = true → s.stl[n].naEn = bit data 1 ∧ s.stl[n].nbEn = bit data 2) →
      ∃ t, exec (.stallDisable m n data) s = .next t ∧ t = okay m 0 { served m (.stall n) s with stl := t.stl } ∧ t.stl[n].en = false ∧
        (s.stl[n].en = true → t.stl[n].joining = false) ∧ t.stl[n].run = s.stl[n].run ∧ t.stl[n].cmd = s.stl[n].cmd ∧
        ∀ i, i ≠ n → t.stl[i] = s.stl[i]) ∧
    (∀ data, reaches m (.stall n) (stallAddr n 0x0C) (withBit data 31 true) s = true → fld data 23 16 ≠ 0 →
      ∃ t, exec (.missCntClr m n data) s = .next t ∧ t = okay m 0 { served m (.stall n) s with stl := t.stl } ∧
        (t.stl[n] = { s.stl[n] with missCnt := 0, missLimit := fld data 23 16 } ∨
          t.stl[n] = gateLow { s.stl[n] with missCnt := 0, missLimit := fld data 23 16 }) ∧
        ∀ i, i ≠ n → t.stl[i] = s.stl[i]) ∧
    (∀ (j : Fin 4) data, reaches m (.stall n) (stallAddr n (0x128 + j.val * 0x40)) (withBit data 29 true) s = true →
      ∃ t, exec (.clampCntClear m n j data) s = .next t ∧ t = okay m 0 { served m (.stall n) s with stl := t.stl } ∧
        t.stl[n] = { s.stl[n] with lane := t.stl[n].lane } ∧ t.stl[n].lane[j].presetLim = false ∧
        t.stl[n].lane[j].clampCnt = (if laneFrozen s n j then 0 else s.stl[n].lane[j].clampCnt) ∧
        (∀ i, i ≠ j → t.stl[n].lane[i] = s.stl[n].lane[i]) ∧ ∀ i, i ≠ n → t.stl[i] = s.stl[i])

/-- Writes and reads that reach the loop engine's block. LPE_POST_MASK posts the scene of LPE_POST_SCENE to the stalls of the mask whose
scene is enabled and whose paddock is not UNUSABLE, and to no other (R123, R124, R31). LPE_TAB_DATA writes the word that the pointer
names while no closed lane references the table, or reads it, and moves the pointer on (R127, R137); a closed lane's table
keeps its word, with SLVERR and COEF_REJ (R127, R129). LPE_LOAD_PEAK_CLR clears PEAK (R137). -/
def Obligations.LoopBlockCommands : Prop :=
  ∀ (s : State) (m : Mid),
    (∀ mask, reaches m .lpe 0x40100024 mask s = true →
      ∃ t, exec (.lpePostMask m mask) s = .next t ∧ t = okay m 0 { served m .lpe s with stl := t.stl, trg := { s.trg with dropCnt := t.trg.dropCnt } } ∧
        ∀ n : Fin 32, t.stl[n] =
          if bit mask n.val = true ∧ pdkUnusable s (pdkOf n) = false ∧ bit (s.stl[n].scn[s.lpe.postScene % 8]'(by omega)) 31 = true then
            { s.stl[n] with posts := s.stl[n].posts ||| (1#8 <<< (s.lpe.postScene % 8)) }
          else s.stl[n]) ∧
    (∀ d, reaches m .lpe 0x40100034 d s = true → (tabPtr s.lpe).2 < 33 →
      (tabClosed s (tabPtr s.lpe).1 = [] →
        exec (.lpeTabData m (some d)) s = .next (okay m 0 { served m .lpe s with lpe := { s.lpe with
          table := tabPut ((tabPtr s.lpe).1 * 33 + (tabPtr s.lpe).2) (d.extractLsb' 0 16) s.lpe.table, tabSel := s.lpe.tabSel + 1 } })) ∧
      (tabClosed s (tabPtr s.lpe).1 ≠ [] → (d.extractLsb' 0 16).toNat ≠ tabAt s.lpe (tabPtr s.lpe).1 (tabPtr s.lpe).2 →
        ∃ t, exec (.lpeTabData m (some d)) s = .next t ∧ t.lpe = s.lpe ∧ t.yard.resp.code = .slverr ∧ t.mem = s.mem ∧
          ∀ n ∈ tabClosed s (tabPtr s.lpe).1, t.stl[n].coefRej = true)) ∧
    (readReaches m .lpe 0x40100034 s = true → (tabPtr s.lpe).2 < 33 →
      exec (.lpeTabData m none) s = .next (okay m (put (tabAt s.lpe (tabPtr s.lpe).1 (tabPtr s.lpe).2) 0)
        { served m .lpe s with lpe := { s.lpe with tabSel := s.lpe.tabSel + 1 } })) ∧
    (reaches m .lpe 0x40100008 0x80000000 s = true →
      exec (.lpeLoadPeakClr m) s = .next (okay m 0 { served m .lpe s with lpe := { s.lpe with peak := 0 } }))

/-- Events of a stall's output. PWM_PERIOD_START where a period begins sets, of a driven stall, the on-time of the period and opens the gate
unless it is zero; RUN of the over-current count clears after a period in which the gate rose and did not trip (R139, R145). OC_TRIP, with
CSPn − CSNn above (OCT + 1) × range / 32 and the blanking interval over, closes the gate, counts, and leaves a cause pending when the count is
complete or the output is LINEAR; otherwise it does nothing (R143, R144, R145). RETRY at a tick boundary after WAIT re-enables the stall and
lets it join, RETRY_USED_RESET after 10 s gives back its retries (R151). Every other stall stays as it is. -/
def Obligations.OutputEvents : Prop :=
  ∀ (s : State) (n : Fin 32),
    (∀ b, fld (outOf s.stl[n]) 31 30 = 1 → drives s n = true → domReady s .yard = true → periodBase s s.stl[n] = some b →
      s.stl[n].periodAt ≠ some b →
      ∃ t, exec (.pwmPeriodStart n) s = .next t ∧ t = { s with stl := t.stl } ∧
        t.stl[n] = { s.stl[n] with
          ocRun := if s.stl[n].onTime != 0 && !s.stl[n].tripped then 0 else s.stl[n].ocRun
          periodAt := some b, rise := if (onTimeOf s.stl[n]).1 = 0 then s.stl[n].rise else s.time
          onTime := (onTimeOf s.stl[n]).1, acc := (onTimeOf s.stl[n]).2, gate := (onTimeOf s.stl[n]).1 != 0, tripped := false } ∧
        (bit (outOf s.stl[n]) 29 = false →
          t.stl[n].onTime = (rhaDiv ((d20Of s.stl[n] * fld (pwmOf s.stl[n]) 31 16 : Nat) : Int) 1048576).toNat ∧ t.stl[n].acc = s.stl[n].acc) ∧
        ∀ i, i ≠ n → t.stl[i] = s.stl[i]) ∧
    (∀ uv : Int, drives s n = true → (s.stl[n].gate = true ∨ fld (outOf s.stl[n]) 31 30 = 2) →
      let range : Int := if slotRange s.sns.adl[laneOf n] (n.val % 2 = 1) then 100000 else 25000
      ((fld (protOf s.stl[n]) 29 24 : Nat) + 1) * range < 32 * uv → 6144 * (fld (protOf s.stl[n]) 19 16 + 1) ≤ 1000 * (s.time - s.stl[n].rise) →
      ∃ t, exec (.ocTrip n uv) s = .next t ∧ t = { s with stl := t.stl } ∧
        t.stl[n].gate = false ∧ t.stl[n].tripped = true ∧ t.stl[n].ocTrips = satInc s.stl[n].ocTrips 65535 ∧
        (fld (outOf s.stl[n]) 31 30 = 2 → t.stl[n].pendC = some (tripCause s.stl[n]) ∧ t.stl[n].ocRun = s.stl[n].ocRun) ∧
        (fld (outOf s.stl[n]) 31 30 ≠ 2 → t.stl[n].ocRun = satInc s.stl[n].ocRun 31 ∧
          (t.stl[n].pendC = if countDone t.stl[n] then some (tripCause s.stl[n]) else s.stl[n].pendC)) ∧
        ∀ i, i ≠ n → t.stl[i] = s.stl[i]) ∧
    (∀ uv : Int, (32 * uv ≤ ((fld (protOf s.stl[n]) 29 24 : Nat) + 1) * (if slotRange s.sns.adl[laneOf n] (n.val % 2 = 1) then 100000 else 25000) ∨
        1000 * (s.time - s.stl[n].rise) < 6144 * (fld (protOf s.stl[n]) 19 16 + 1)) → exec (.ocTrip n uv) s = .next s) ∧
    (s.stl[n].retryPend = true → s.stl[n].waitCyc = 0 → pdkState s (pdkOf n) = .live → stallOn s n = true → tickNow s = true →
      s.stl[n].due = none →
      ∃ t, exec (.retry n) s = .next t ∧ t = { s with stl := t.stl, pwr := t.pwr, pio := t.pio } ∧
        t.stl[n].active = false ∧ t.stl[n].retryPend = false ∧ t.stl[n].waitCyc = 0 ∧ t.stl[n].en = true ∧ t.stl[n].joining = true ∧
        t.stl[n].ocRun = 0 ∧ t.stl[n].used = s.stl[n].used ∧ ∀ i, i ≠ n → t.stl[i] = s.stl[i]) ∧
    (s.stl[n].en = true → s.stl[n].active = false → 10000 * 153600 ≤ s.stl[n].runCyc →
      ∃ t, exec (.retryUsedReset n) s = .next t ∧ t = { s with stl := t.stl } ∧
        t.stl[n] = { s.stl[n] with used := 0, runCyc := 0 } ∧ ∀ i, i ≠ n → t.stl[i] = s.stl[i])

/-- Writes that reach the guard of a stall whose paddock is open to the writer (R64). FAULT_CLR ends the stall's FAULT and a pending retry, gives back
its retries, and clears the causes written with ones (R149, R152, R166); OC_CNT_CLR clears the trip count (R166). -/
def Obligations.GuardCommands : Prop :=
  ∀ (s : State) (m : Mid) (n : Fin 32), pdkOpen m s (pdkOf n) →
    (∀ data, reaches m (.stall n) (stallAddr n 0xD0) (withBit data 30 true) s = true →
      ∃ t, exec (.faultClr m n data) s = .next t ∧ t = okay m 0 { served m (.stall n) s with stl := t.stl } ∧
        t.stl[n].active = false ∧ t.stl[n].retryPend = false ∧ t.stl[n].used = 0 ∧ t.stl[n].waitCyc = 0 ∧
        t.stl[n].causes = s.stl[n].causes &&& ~~~ ((withBit data 30 true).setWidth 9 &&& 0x1FE) ∧
        (t.stl[n].causes = 0 → t.stl[n].firstC = 0) ∧ t.stl[n].en = s.stl[n].en ∧ t.stl[n].cmd = s.stl[n].cmd ∧
        ∀ i, i ≠ n → t.stl[i] = s.stl[i]) ∧
    (reaches m (.stall n) (stallAddr n 0xF8) 0x80000000 s = true →
      ∃ t, exec (.ocCntClr m n) s = .next t ∧ t = okay m 0 { served m (.stall n) s with stl := t.stl } ∧
        (t.stl[n] = { s.stl[n] with ocTrips := 0 } ∨ t.stl[n] = gateLow { s.stl[n] with ocTrips := 0 }) ∧
        ∀ i, i ≠ n → t.stl[i] = s.stl[i])

/-- An echo that does not run starts with its status, its sums and its phase cleared (R156, R167); while it runs, a second start is refused
(R162), and a write that clears RUN stops it. ECHO_END stops a running echo that has reached its end count and sets its event (R155). The other echoes stay. -/
def Obligations.EchoCommands : Prop :=
  ∀ (s : State) (e : Fin 4),
    (∀ m data, reaches m .echo (0x4010A000 + e.val * 0x40) (withBit data 31 true) s = true →
      (bit s.echo[e].ctrl 31 = false → ∃ t, exec (.echoStart m e data) s = .next t ∧ t = okay m 0 { served m .echo s with echo := t.echo } ∧
        t.echo[e] = { s.echo[e] with
          ctrl := withBit data 31 true &&& 0x8333001F, aborted := false, ovf := false, n := 0, ai := 0, aq := 0, bi := 0, bq := 0
          phase := 0, lfsr := 0x7FFF, wraps := 0, held := 0, done := false } ∧ ∀ i, i ≠ e → t.echo[i] = s.echo[i]) ∧
      (bit s.echo[e].ctrl 31 = true → exec (.echoStart m e data) s =
        .next (respond (served m .echo s) m (BitVec.ofNat 32 (0x4010A000 + e.val * 0x40)) .write .slverr 0))) ∧
    (∀ m data, reaches m .echo (0x4010A000 + e.val * 0x40) (withBit data 31 false) s = true →
      ∃ t, exec (.echoStop m e data) s = .next t ∧ t = okay m 0 { served m .echo s with echo := t.echo } ∧
        t.echo[e] = { s.echo[e] with ctrl := withBit data 31 false &&& 0x8333001F } ∧ ∀ i, i ≠ e → t.echo[i] = s.echo[i]) ∧
    (bit s.echo[e].ctrl 31 = true → s.echo[e].done = true → unusable s 41 = false →
      ∃ t, exec (.echoEnd e) s = .next t ∧ t = { s with echo := t.echo, echoEvt := withBit s.echoEvt e.val true } ∧
        t.echo[e] = { s.echo[e] with ctrl := withBit s.echo[e].ctrl 31 false, done := true } ∧ ∀ i, i ≠ e → t.echo[i] = s.echo[i])

/-- The gallery. GALLERY_ARM of a gallery that is not armed, with 1 to 8 probes, starts a new capture (R162, R168); FORCE is met at the next
record, GAL_STOP disarms (R159, R168). GALLERY_RECORD of an armed gallery, at a nominal update instant of its clock stall that has not been taken, makes
every (DEC + 1)-th of them a record: a record advances the ring and the count and writes no memory but its own words (R157, R158).
CAPTURE_END ends a triggered capture once the further records are written (R160). -/
def Obligations.GalleryCommands : Prop :=
  ∀ (s : State),
    (∀ m data, reaches m .gal 0x40110000 (withBit data 31 true) s = true → bit s.gal.ctrl 31 = false →
      1 ≤ fld data 3 0 → fld data 3 0 ≤ 8 →
      ∃ t, exec (.galleryArm m data) s = .next t ∧ t = okay m 0 { served m .gal s with gal := t.gal, stl := t.stl } ∧
        bit t.gal.ctrl 31 = true ∧ t.gal.wptr = 0 ∧ t.gal.count = 0 ∧ t.gal.triggered = false ∧ t.gal.done = false ∧ t.gal.left = none ∧
        ∀ n : Fin 32, t.stl[n] = { s.stl[n] with sawFault := false, sawMiss := false, sawScene := false, sawSat := false }) ∧
    (∀ m, reaches m .gal 0x4011000C 1 s = true →
      exec (.force m) s = .next (okay m 0 { served m .gal s with gal := { s.gal with forced := true } })) ∧
    (∀ m, reaches m .gal 0x4011000C 2 s = true →
      exec (.galStop m) s = .next (okay m 0 { served m .gal s with gal := { s.gal with ctrl := withBit s.gal.ctrl 31 false, left := none } })) ∧
    (∀ w, lpeOn s = true → bit s.gal.ctrl 31 = true → unusable s 42 = false → s.gal.left ≠ some 0 →
      recordTick s = some w → s.gal.recAt ≠ some w →
      (s.gal.skip < fld s.gal.ctrl 15 8 → exec .galleryRecord s = .next { s with gal := { s.gal with skip := s.gal.skip + 1, recAt := some w } }) ∧
      (fld s.gal.ctrl 15 8 ≤ s.gal.skip → ∃ t, exec .galleryRecord s = .next t ∧ t.gal.skip = 0 ∧ t.gal.count = s.gal.count + 1 ∧ t.gal.recAt = some w ∧
        t.gal.wptr = (s.gal.wptr + 1) % galDepth s.gal ∧ t.cfg = s.cfg ∧ t.lpe = s.lpe ∧ t.boot = s.boot ∧
        (∀ n : Fin 32, t.stl[n] = { s.stl[n] with sawFault := false, sawMiss := false, sawScene := false, sawSat := false }) ∧
        (memOk s → ∀ a, (∀ i, i < galNp s.gal → i < 8 →
            a < 0x40120000 + (s.gal.wptr * galNp s.gal + i) * 4 ∨ 0x40120000 + (s.gal.wptr * galNp s.gal + i) * 4 + 4 ≤ a) →
          t.mem.read a = s.mem.read a))) ∧
    (bit s.gal.ctrl 31 = true → s.gal.left = some 0 →
      exec .captureEnd s = .next { s with gal := { s.gal with
        ctrl := withBit s.gal.ctrl 31 false, done := true, evt := withBit s.gal.evt 1 true, left := none } })

/-- Accesses that reach the radio and the air rules. TXQ_PROD hands descriptors over (R181); LAUNCH of an armed slot that can go puts it in
flight and withdraws a queued attempt that is not on air (R181, R199); PARTNER_ENTRY_WRITE writes an entry's identity, and a
different address clears what the hardware learned (R204); TRX_CNT_CLR and RGY_CNT_CLR clear the counts (R203, R221); the reads of TRX_TIME_LO and
TRX_ZTIME_LO give the lower word and hold the upper bits (R203). BUCKET_BOUNDARY, once the current bucket has lasted its time, drops
the oldest bucket and begins an empty one (R212). -/
def Obligations.RadioCommands : Prop :=
  ∀ (s : State) (m : Mid),
    (∀ data, reaches m .trx 0x40200074 data s = true →
      exec (.txqProd m data) s = .next (okay m 0 { served m .trx s with trx := { s.trx with txqProd := fld data 5 0 } })) ∧
    (∀ (k : Fin 4) data, reaches m .trx (0x40200000 + (0x094 + 8 * k.val)) (data ||| 0x20000000) s = true → bit data 31 = true →
      domReady s .radio = true → unusable s 47 = false → underTest s 47 = false → s.trx.arm[k].inflight = false →
      ∃ t, exec (.launch m k data) s = .next t ∧ t = okay m 0 { served m .trx s with trx := t.trx, pwr := t.pwr, pio := t.pio } ∧
        t.trx.arm[k] = { s.trx.arm[k] with armed := true, inflight := true } ∧ t.trx.launched = s.trx.launched ++ [k] ∧
        (∀ x, s.trx.tx = some x → x.src = .queue → x.stage ≠ .onAir → x.stage ≠ .awaitAck → t.trx.tx = none) ∧
        (∀ x, s.trx.tx = some x → (x.src ≠ .queue ∨ x.stage = .onAir ∨ x.stage = .awaitAck) → t.trx.tx = some x) ∧
        ∀ j, j ≠ k → t.trx.arm[j] = s.trx.arm[j]) ∧
    (∀ (i : Fin 64) data, reaches m .trx (0x40200000 + (0x800 + 0x20 * i.val)) data s = true →
      ∃ t, exec (.partnerEntryWrite m i data) s = .next t ∧ t = okay m 0 { served m .trx s with trx := { s.trx with pt := t.trx.pt } } ∧
        t.trx.pt[i].valid = bit data 31 ∧ t.trx.pt[i].addr = data.extractLsb' 0 16 ∧
        (bit data 31 = true → data.extractLsb' 0 16 ≠ s.trx.pt[i].addr → t.trx.pt[i].upd = 0 ∧ t.trx.pt[i].drift = 0 ∧ t.trx.pt[i].fcnt = 0) ∧
        (data.extractLsb' 0 16 = s.trx.pt[i].addr → t.trx.pt[i].upd = s.trx.pt[i].upd ∧ t.trx.pt[i].fcnt = s.trx.pt[i].fcnt) ∧
        ∀ j, j ≠ i → t.trx.pt[j] = s.trx.pt[j]) ∧
    (reaches m .trx 0x4020011C 1 s = true → exec (.trxCntClr m) s = .next (okay m 0 { served m .trx s with trx := { s.trx with
      cntCrc := 0, cntOk := 0, cntFilt := 0, cntOvf := 0, cntReplay := 0, cntAuth := 0, cntFail := 0, cntTxOk := 0
      cntFalse := 0, cntDet := 0 } })) ∧
    (readReaches m .trx 0x402000C0 s = true → exec (.trxTimeLo m) s = .next (okay m (BitVec.ofNat 32 s.trx.time)
      { served m .trx s with trx := { s.trx with timeHi := BitVec.ofNat 16 (s.trx.time / 2 ^ 32) } })) ∧
    (readReaches m .trx 0x402000C8 s = true → exec (.trxZtimeLo m) s = .next (okay m ((zoneNow s).setWidth 32)
      { served m .trx s with trx := { s.trx with ztimeHi := (zoneNow s).extractLsb' 32 16 } })) ∧
    (reaches m .rgy 0x40210018 1 s = true → exec (.rgyCntClr m) s = .next (okay m 0 { served m .rgy s with rgy := { s.rgy with
      cntDuty := 0, cntDwell := 0, cntSupp := 0, cntOvrun := 0, cntClamp := 0 } })) ∧
    (∀ k : Fin 8, bucketLen s.rgy (.sub k) ≤ (s.pwr.ltime - s.rgy.subAt[k]).toNat →
      ∃ t, exec (.bucketBoundary (.sub k)) s = .next t ∧
        t = { s with rgy := { s.rgy with sub := t.rgy.sub, subAt := s.rgy.subAt.set k.val s.pwr.ltime } } ∧
        t.rgy.sub[k] = 0 :: s.rgy.sub[k].take 32 ∧ ∀ j, j ≠ k → t.rgy.sub[j] = s.rgy.sub[j]) ∧
    (∀ h : Fin 128, bucketLen s.rgy (.hop h) ≤ (s.pwr.ltime - s.rgy.hopAt[h]).toNat →
      ∃ t, exec (.bucketBoundary (.hop h)) s = .next t ∧
        t = { s with rgy := { s.rgy with hop := t.rgy.hop, hopAt := s.rgy.hopAt.set h.val s.pwr.ltime } } ∧
        t.rgy.hop[h] = 0 :: s.rgy.hop[h].take 8 ∧ ∀ j, j ≠ h → t.rgy.hop[j] = s.rgy.hop[j]) ∧
    (∀ b, (s.pwr.ltime - bucketAt s.rgy b).toNat < bucketLen s.rgy b → exec (.bucketBoundary b) s = .next s)

/-- TRX_FLUSH with nothing in hand completes every queued descriptor: the queue is empty afterwards, and TX_DONE is set if it was not
(R199). No register but the radio's changes, save what its completions to memory and its synthesizer need, and no memory but the
descriptors from their second word on. -/
def Obligations.RadioFlush : Prop :=
  ∀ (s : State) (m : Mid), reaches m .trx 0x4020007C 1 s = true → s.trx.tx = none →
    ∃ t, exec (.trxFlush m) s = .next t ∧ t.trx.txqCons % 64 = s.trx.txqProd % 64 ∧ t.trx.tx = none ∧
      (s.trx.txqProd % 64 ≠ s.trx.txqCons % 64 → bit t.trx.evt 0 = true) ∧
      t.stl = s.stl ∧ t.cfg = s.cfg ∧ t.cry = s.cry ∧ t.rgy = s.rgy ∧ t.zlk = s.zlk ∧ t.boot = s.boot ∧ t.trx.arm = s.trx.arm ∧
      t.trx.pt = s.trx.pt ∧
      (memOk s → ∀ a, (∀ k : Fin 32, a < s.trx.txqBase.toNat + 32 * k.val + 4 ∨ s.trx.txqBase.toNat + 32 * k.val + 32 ≤ a) →
        t.mem.read a = s.mem.read a)

/-- The stages of an attempt. An assessment that has listened for CCA_TIME, with no acknowledgement due, finds the channel busy by its mean RSSI, by
what it heard, or by either, as MODE 0 to 2 says: a busy finding backs off, and the last one ends the attempt with TX_BUSY (R183). A clear
one starts the preamble at TRX_PWR, or at PMAX if that is lower, as does a timed launch at its time (R183, R184, R216); of a frame that is not
secured by the engine nothing more is needed. BACKOFF_END after the back-off asks for admission anew and assesses again (R182, R183, R213).
TX_ATTEMPT goes on with an attempt whose tune is over (R182). TX_FRAME_END puts on air the preamble, the sync word or SFD, the PHR and the PSDU, charges
the airtime, and awaits the acknowledgement that the frame asks for (R181, R188, R214). -/
def Obligations.TransmitStages : Prop :=
  ∀ (s : State) (x : TxRun), s.trx.tx = some x →
    (∀ rssi heard draw, x.stage = .assess → usCyc (ccaUs s.trx) ≤ sinceT s.trx x.since → s.trx.ackDue = none → fld s.trx.lbt 31 30 < 3 →
      let loud : Bool := 2 * (BitVec.ofNat 8 (fld s.trx.lbt 19 12)).toInt < rssi.toInt
      let busy : Bool := if fld s.trx.lbt 31 30 = 0 then loud else if fld s.trx.lbt 31 30 = 1 then heard else loud || heard
      (busy = true → x.busies < fld s.trx.lbt 5 3 → exec (.channelAssessment rssi heard draw) s =
        .next { s with free := s.free + 1, trx := { s.trx with tx := some { x with
          busies := x.busies + 1, resv := none, stage := .backoff, since := s.trx.time
          wait := draw % 2 ^ min (fld s.trx.lbt 11 9 + x.busies) (fld s.trx.lbt 8 6) * boUnit s.trx } } }) ∧
      (busy = true → fld s.trx.lbt 5 3 ≤ x.busies → ∃ t, exec (.channelAssessment rssi heard draw) s = .next t ∧
        t.trx.tx = none ∧ bit t.trx.evt 0 = true ∧ t.trx.cntFail = satInc s.trx.cntFail 65535 ∧
        (∀ k, x.src = .slot k → t.trx.arm[k] = { s.trx.arm[k] with last := 2, inflight := false })) ∧
      (busy = false → s.clk.rf.st = .locked → txBit x.w 27 = false →
        ∃ t, exec (.channelAssessment rssi heard draw) s = .next t ∧ t = { s with free := s.free + 1, trx := t.trx, rgy := t.rgy } ∧
          t.trx = { sniffLost s.trx with rxOn := false, tx := some { x with
            stage := .onAir, start := s.trx.time, since := s.trx.time
            power := match x.resv with | some r => sendPower r.sub s | none => (s.trx.pwr.setWidth 8).toInt } } ∧
          t.rgy = (match x.resv with | some r => (clampPower r.sub s).rgy | none => s.rgy))) ∧
    (x.stage = .timed → untilT s.trx x.start ≤ 0 → s.clk.rf.st = .locked → s.trx.rxOn = false → (txBit x.w 29 = true → x.clear = true) →
      txBit x.w 27 = false →
      ∃ t, exec .timedLaunch s = .next t ∧ t = { s with trx := t.trx, rgy := t.rgy } ∧
        t.trx = { sniffLost s.trx with rxOn := false, tx := some { x with
          stage := .onAir, since := s.trx.time
          power := match x.resv with | some r => sendPower r.sub s | none => (s.trx.pwr.setWidth 8).toInt } }) ∧
    (∀ r, x.stage = .backoff → usCyc x.wait ≤ sinceT s.trx x.since → s.trx.ackDue = none → radioOn s = true →
      unusable s 49 = false → unusable s 48 = false → (tune x.carrier s.clk).rf.st = .locked →
      txTimed x.w = false → txBit x.w 29 = true →
      admissionTest s false x.carrier (airUs s.trx (frameOctets s.trx (txSun x.w)
        (x.preExt + if txBit x.w 27 && txBit x.w 26 then octetsFor s.trx 256 else 0) (txDone x.w))) = .ok r →
      exec .backoffEnd s = .next { s with
        clk := tune x.carrier s.clk
        trx := { s.trx with tx := some { x with resv := some r, stage := .assess, since := s.trx.time } } }) ∧
    (yardIdle s → s.cry.ret = [] → x.stage = .ready → radioOn s = true → s.trx.ackDue = none → s.trx.rxOn = false → s.pwr.state ≠ .slumber →
      s.clk.rf.st = .locked → txTimed x.w = false → txBit x.w 29 = true →
      exec .txAttempt s = .next { s with trx := { s.trx with tx := some { x with stage := .assess, since := s.trx.time } } }) ∧
    (∀ sfd ext, x.stage = .onAir → x.sealing = none → txBit x.w 28 = true →
      ∃ t, exec (.txFrameEnd sfd ext) s = .next t ∧ t = { s with trx := t.trx, rgy := t.rgy } ∧
        t.trx.tx = some { x with resv := none, sfd := some sfd, sent := (framePsdu s x sfd).length, stage := .awaitAck, since := s.trx.time } ∧
        t.trx.air = airOf s.trx (txSun x.w) (txBit x.w 15) (txBit x.w 14) (preOf s.trx + extOf x ext) (framePsdu s x sfd) ∧ t.trx.airPwr = x.power ∧
        (∀ r, x.resv = some r → t.rgy.sub[r.sub] =
          addUs (airUs s.trx (frameOctets s.trx (txSun x.w) (extOf x ext) (framePsdu s x sfd).length)) s.rgy.sub[r.sub]))

/-- Attempts that end. ACK_WAIT_EXPIRY after ACK_WAIT: without a retry left it completes the descriptor with TX_NOACK (R188), and with one it waits
behind an acknowledgement that is due (R217). TX_ATTEMPT that reaches a queued descriptor which it cannot carry out completes it with TX_INVALID
(R179, R180): the queue goes on, the failure is counted, TX_DONE is set, and what is written to memory lies in the descriptor (R180). -/
def Obligations.TransmitEnds : Prop :=
  ∀ (s : State),
    (∀ x, s.trx.tx = some x → x.stage = .awaitAck → usCyc (fld s.trx.ack 15 0) ≤ sinceT s.trx x.since → txRetries x.w < x.tries →
      ∃ t, exec .ackWaitExpiry s = .next t ∧ t.trx.tx = none ∧ bit t.trx.evt 0 = true ∧ t.trx.cntFail = satInc s.trx.cntFail 65535 ∧
        t.trx.cntTxOk = s.trx.cntTxOk ∧ (x.src = .queue → t.trx.txqCons = (s.trx.txqCons + 1) % 64) ∧
        (∀ k, x.src = .slot k → t.trx.arm[k] = { s.trx.arm[k] with last := 1, inflight := false }) ∧
        t.stl = s.stl ∧ t.cfg = s.cfg ∧ t.cry = s.cry ∧ t.rgy = s.rgy ∧
        (memOk s → ∀ a, a < x.addr + 4 ∨ x.addr + 32 ≤ a → t.mem.read a = s.mem.read a)) ∧
    (∀ x k, s.trx.tx = some x → x.stage = .awaitAck → usCyc (fld s.trx.ack 15 0) ≤ sinceT s.trx x.since → x.tries ≤ txRetries x.w →
      s.trx.ackDue = some k → exec .ackWaitExpiry s = .next { s with trx := { s.trx with
        qTries := if x.src = .queue then x.tries else s.trx.qTries, tx := some { x with stage := .again, since := s.trx.time } } }) ∧
    (∀ a l buf s1 s2, yardIdle s → s.cry.ret = [] → s.trx.tx = none → radioOn s = true → s.trx.ackDue = none → s.trx.rxOn = false →
      s.pwr.state ≠ .slumber → trxEn s = true → unusable s 49 = false → nextDesc s.trx = some (.queue, a) →
      dmaRead .trxDma a 32 s = ((.okay, l), s1) → (txTimed (descWords l) = true → s.pwr.tadj = false) →
      (txBit (descWords l) 27 = true → unusable s 50 = false) →
      dmaRead .trxDma ((descWords l)[0]).toNat (txLen (descWords l)) s1 = ((.okay, buf), s2) → txValid s.trx (descWords l) buf = false →
      ∃ u, exec .txAttempt s = .next (settle u) ∧ u.trx.tx = none ∧ bit u.trx.evt 0 = true ∧ u.trx.cntFail = satInc s.trx.cntFail 65535 ∧
        u.trx.txqCons = (s.trx.txqCons + 1) % 64 ∧ u.stl = s.stl ∧ u.cfg = s.cfg ∧ u.rgy = s.rgy ∧
        (memOk s → ∀ b, b < a + 4 ∨ a + 32 ≤ b → u.mem.read b = s.mem.read b))

/-- The receiver. SFD_DETECTED with the sync word or SFD in force takes the SFD instant (R173, R177, R189). RX_FRAME awake and not after a sniff, with
nothing waiting on the yard: a frame whose FCS fails is counted under CRC while FCSBAD is 0, one that fails the filters under FILT (R186); a SUNFSK
frame that passes and asks for no acknowledgement goes to the ring when the hardware owns a descriptor and no access has to wait, with RX_DONE and a
count under OK, and is counted under OVF when it owns none (R185, R201). -/
def Obligations.Reception : Prop :=
  ∀ (s : State),
    (∀ sun sync sfd, rxListens sun sync s = true →
      exec (.sfdDetected sun sync sfd) s = .next { s with trx := { s.trx with rxOn := true, sniffing := false, sfd := sfd } }) ∧
    (∀ f, yardIdle s → rxListens f.sun f.sync s = true → s.pwr.state ≠ .slumber → f.sniffed = false →
      (f.sun && f.phr.getLsbD 15) = false → rxPhrOk f = true →
      (rxFcsOk f = false → bit s.trx.ctrl 25 = false →
        ∃ t, exec (.rxFrame f) s = .next t ∧ t.trx.cntCrc = satInc s.trx.cntCrc 65535 ∧ t.trx.rxOn = false ∧ t.trx.sfd = f.sfd ∧
          t.trx.rssi = f.rssi ∧ t.trx.cntOk = s.trx.cntOk ∧ t.trx.rxrNext = s.trx.rxrNext ∧ t = { s with trx := t.trx, clk := t.clk }) ∧
      (rxFcsOk f = true → rxIsAck s f = false → rxPasses s.trx (bit s.trx.ctrl 28) f = false →
        ∃ t, exec (.rxFrame f) s = .next t ∧ t.trx.cntFilt = satInc s.trx.cntFilt 65535 ∧ t.trx.rxOn = false ∧
          t.trx.cntOk = s.trx.cntOk ∧ t.trx.rxrNext = s.trx.rxrNext ∧ t = { s with trx := t.trx, clk := t.clk }) ∧
      (f.sun = true → rxFcsOk f = true → rxIsAck s f = false → rxPasses s.trx (bit s.trx.ctrl 28) f = true → rxWantsAck s.trx f = false →
        answered (.rxFrame f) s = true →
        (∀ a w0 w1 s1, rxDesc (updTrx s (fun t => { t with rxOn := false, sniffing := false, sfd := f.sfd, rssi := f.rssi })) = (some (a, w0, w1), s1) →
          ∃ u, exec (.rxFrame f) s = .next (settle u) ∧ u.trx.rxrNext = (s.trx.rxrNext + 1) % 32 ∧ bit u.trx.evt 1 = true ∧
            u.trx.cntOk = satInc s.trx.cntOk 65535 ∧ u.trx.cntOvf = s.trx.cntOvf ∧ u.stl = s.stl ∧ u.cfg = s.cfg ∧ u.cry = s.cry ∧
            (memOk s → ∀ b, (b < w0.toNat ∨ w0.toNat + (rxPsdu f).length ≤ b) → (b < a + 4 ∨ a + 32 ≤ b) → u.mem.read b = s.mem.read b)) ∧
        (∀ s1, rxDesc (updTrx s (fun t => { t with rxOn := false, sniffing := false, sfd := f.sfd, rssi := f.rssi })) = (none, s1) →
          ∃ u, exec (.rxFrame f) s = .next (settle u) ∧ u.trx.rxrNext = s.trx.rxrNext ∧ bit u.trx.evt 3 = true ∧
            u.trx.cntOvf = satInc s.trx.cntOvf 65535 ∧ u.trx.cntOk = s.trx.cntOk ∧ u.mem = s.mem ∧ u.stl = s.stl ∧ u.cfg = s.cfg)))

/-- SNIFF of an idle receiver at a sniff instant: a preamble sets the event, counts, and holds reception open until four octet times after its end;
none in an awake device powers the synthesizer down again (R194, R203). SNIFF_RFPLL_START, from 100 µs before a sniff instant, powers it and tunes it
(R194, R300). The matcher: a frame from an unknown partner, or one whose counter is not above the last, fails at its check; MATCHER_RESULT with the
check's outcome counts the failure under AUTH or REPLAY, or the success, with the partner's frame counter raised and the slot's route
source fired (R196). ACK_SEND of an acknowledgement that is due and admitted sends it (R187, R214). -/
def Obligations.SniffAndMatcher : Prop :=
  ∀ (s : State),
    (sniffDue s = true → radioOn s = true → trxEn s = true → bit s.trx.ctrl 29 = true → bit s.trx.ctrl 30 = false → s.trx.rxOn = false →
      s.trx.ackDue = none → s.trx.tx = none → s.trx.sniffing = false →
      (∀ n, exec (.sniff (some n)) s = .next { s with trx := { s.trx with
        sniffAt := sniffSlot s, sniffing := true, sniffEnd := n + fourOctets s.trx, cntDet := satInc s.trx.cntDet 65535
        evt := withBit s.trx.evt 2 true } }) ∧
      (s.pwr.state ≠ .slumber → ∃ t, exec (.sniff none) s = .next t ∧ t = { s with trx := t.trx, clk := t.clk } ∧
        t.trx.cntDet = s.trx.cntDet ∧ t.trx.sniffing = false ∧ t.trx.sniffAt = sniffSlot s ∧
        t.clk.rf.st = .off ∧ t.clk.rfPower = false)) ∧
    (radioOn s = true → trxEn s = true → bit s.trx.ctrl 29 = true → bit s.trx.ctrl 30 = false → s.pwr.state ≠ .slumber →
      trxState s = 0 → sniffIn s ≤ usCyc 100 → carrierOk (carrierOf s.trx (fld s.trx.chan 15 0)) = true →
      ∃ t, exec .sniffRfpllStart s = .next t ∧ t = { s with clk := t.clk } ∧ t.clk.rfPower = true ∧
        (s.clk.rf.st = .off → t.clk.carrier = carrierOf s.trx (fld s.trx.chan 15 0) ∧ t.clk.rf.st = .search)) ∧
    (∀ x, s.trx.matching = [x] → s.cry.ret = [] →
      (x.check = .bad → ∃ t, exec .matcherResult s = .next t ∧ t = { s with trx := t.trx } ∧ t.trx.matching = [] ∧ bit t.trx.evt 6 = true ∧
        t.trx.cntAuth = satInc s.trx.cntAuth 65535 ∧ t.trx.cntReplay = s.trx.cntReplay ∧
        t.trx.matcher[x.slot].fails = satInc s.trx.matcher[x.slot].fails 65535 ∧ t.trx.pt = s.trx.pt) ∧
      (x.check = .replay → ∃ t, exec .matcherResult s = .next t ∧ t = { s with trx := t.trx } ∧ t.trx.matching = [] ∧ bit t.trx.evt 6 = true ∧
        t.trx.cntReplay = satInc s.trx.cntReplay 65535 ∧ t.trx.cntAuth = s.trx.cntAuth ∧
        t.trx.matcher[x.slot].fails = satInc s.trx.matcher[x.slot].fails 65535 ∧ t.trx.pt = s.trx.pt) ∧
      (∀ pay i, x.check = .good pay → ptFind s.trx (BitVec.ofNat 16 (natSrc x.psdu)) = some i → bit s.trx.ptCfg 6 = false →
        ∃ u, exec .matcherResult s = .next (matchNext (fire (0x08 + x.slot.val) u)) ∧ u = { s with trx := u.trx } ∧ u.trx.matching = [] ∧
          u.trx.pt[i] = { s.trx.pt[i] with fcnt := BitVec.ofNat 32 (natFcnt x.psdu) } ∧ (∀ j, j ≠ i → u.trx.pt[j] = s.trx.pt[j]) ∧
          u.trx.matcher[x.slot].hits = satInc s.trx.matcher[x.slot].hits 65535)) ∧
    (∀ x, unusable s 50 = false →
      (ptFind s.trx (BitVec.ofNat 16 (natSrc x.psdu)) = none → beginCheck x s = (.bad, s)) ∧
      (∀ i, ptFind s.trx (BitVec.ofNat 16 (natSrc x.psdu)) = some i → natFcnt x.psdu ≤ s.trx.pt[i].fcnt.toNat →
        beginCheck x s = (.replay, s))) ∧
    (∀ k r, s.trx.ackDue = some k → k.desc = none → radioOn s = true → ackAfter s.trx k ≤ sinceT s.trx k.since → s.clk.rf.st = .locked →
      unusable s 49 = false →
      admissionTest (updTrx s (fun t => { t with ackDue := none, rxOn := false })) true (carrierOf s.trx (fld s.trx.chan 15 0))
        (airUs s.trx (frameOctets s.trx k.sun 0 k.psdu.length)) = .ok r →
      ∃ t, exec .ackSend s = .next t ∧ t.trx.ackDue = none ∧ t.trx.rxOn = false ∧
        t.trx.air = airOf s.trx k.sun (if k.sun then k.psdu.length = 7 else k.psdu.length = 12) k.white (preOf s.trx) k.psdu ∧
        t.trx.airPwr = sendPower r.sub s ∧
        t.rgy.sub[r.sub] = addUs (airUs s.trx (frameOctets s.trx k.sun 0 k.psdu.length)) s.rgy.sub[r.sub] ∧
        t = { s with trx := t.trx, rgy := t.rgy, clk := t.clk })

/-- Writes that reach the cipher engine. CRY_PROD makes descriptors available and notes which master did (R223, R232), and aborts an entry to SLUMBER
(R325); CPL_CONS takes posted completions out of the ring (R233); OUT_REQ takes an idle unit out of service and lets a running one drain,
IN_REQ brings one that is out into its known-answer test (R242), whose end puts it in service or fails it (R243); CRY_CNT_CLR clears the
counts (R250); CRY_FLUSH completes the firmware jobs of its classes that wait for a unit FLUSHED, in acceptance order, and no other job
(R246). -/
def Obligations.EngineCommands : Prop :=
  ∀ (s : State) (m : Mid),
    (∀ (c : Fin 4) data, reaches m .cry (0x40300000 + (0x028 + 0x10 * c.val)) data s = true →
      ∃ t, exec (.cryProd m c data) s = .next t ∧
        t = okay m 0 { served m .cry s with cry := { s.cry with ring := t.cry.ring }, pwr := t.pwr, pio := t.pio } ∧
        t.cry.ring[c].prod = fld data 8 0 ∧ t.cry.ring[c].cons = s.cry.ring[c].cons ∧
        (let n := ringAvail s.cry.ring[c].size (fld data 8 0) s.cry.ring[c].cons
         s.cry.ring[c].writer.length ≤ n →
          t.cry.ring[c].writer = s.cry.ring[c].writer ++ List.replicate (n - s.cry.ring[c].writer.length) m) ∧
        ∀ j, j ≠ c → t.cry.ring[j] = s.cry.ring[j]) ∧
    (∀ data, reaches m .cry (0x40300000 + 0x07C) data s = true →
      exec (.cplCons m data) s = .next (okay m 0 { served m .cry s with cry := { s.cry with cplCons := fld data 8 0 } })) ∧
    (∀ mask, reaches m .cry (0x40300000 + 0x060) (put mask.toNat 0) s = true →
      ∃ t, exec (.cryFlush m mask) s = .next t ∧ t = okay m 0 { served m .cry s with cry := t.cry } ∧
        t.cry.unit = s.cry.unit ∧ t.cry.ks = s.cry.ks ∧
        queued t.cry.jobs = queued (s.cry.jobs.filter (fun j => !(j.user != .trx && mask.toNat.testBit j.cls.val))) ∧
        t.cry.done = s.cry.done ++ (s.cry.jobs.filter (fun j => j.user != .trx && mask.toNat.testBit j.cls.val)).map (fun j =>
          { status := 0x40, tag := j.tag, seq := j.seq, cls := j.cls, unit := 7, cookie := j.w[7], outLen := 0, accept := j.accept })) ∧
    (∀ u : Fin 5, underTest s (51 + u.val) = false → reaches m .cry (0x40300000 + (0x080 + 4 * u.val)) 0x80000000 s = true → s.cry.unit[u].st = .inSvc →
      ∃ t, exec (.outReq m u) s = .next t ∧ t = okay m 0 { served m .cry s with cry := { s.cry with unit := t.cry.unit } } ∧
        t.cry.unit[u] = { s.cry.unit[u] with st := if s.cry.unit[u].run.isSome || s.cry.unit[u].susp.isSome then .draining else .out } ∧
        ∀ j, j ≠ u → t.cry.unit[j] = s.cry.unit[j]) ∧
    (∀ u : Fin 5, underTest s (51 + u.val) = false → reaches m .cry (0x40300000 + (0x080 + 4 * u.val)) 0x40000000 s = true →
      s.cry.unit[u].st = .out ∨ s.cry.unit[u].st = .failed →
      ∃ t, exec (.inReq m u) s = .next t ∧ t = okay m 0 { served m .cry s with cry := { s.cry with unit := t.cry.unit } } ∧
        t.cry.unit[u] = { s.cry.unit[u] with st := .testing } ∧ ∀ j, j ≠ u → t.cry.unit[j] = s.cry.unit[j]) ∧
    (∀ (u : Fin 5) pass, s.cry.unit[u].st = .testing →
      ∃ t, exec (.katEnd u pass) s = .next t ∧ t = { s with cry := { s.cry with unit := t.cry.unit, evt := withBit s.cry.evt (if pass then 6 else 5) true } } ∧
        t.cry.unit[u] = { s.cry.unit[u] with
          st := if pass then .inSvc else .failed, inAt := if pass then some s.time else s.cry.unit[u].inAt } ∧ ∀ j, j ≠ u → t.cry.unit[j] = s.cry.unit[j]) ∧
    (reaches m .cry (0x40300000 + 0x0A8) 1 s = true → exec (.cryCntClr m) s = .next (okay m 0 { served m .cry s with cry := { s.cry with
      cntInt := 0, cntFw := 0, cntAuth := 0, cntOther := 0, cntLost := 0 } }))

/-- Key slots and the verify unit. Only MID 0 writes key slots (R239). Of the selected slot that is not LOCKED: KS_POL sets the policy while the slot is not VALID,
KS_LOAD of a slot with a SIZE and no key takes the staged key and makes it VALID, KS_CLEAR takes its key away; both zero the staging
registers (R238, R239). No other slot changes. PKV_START runs the verification, or waits for the loader's (R245); while it runs it is
refused. PKV_DONE of firmware's verification gives the result and the event (R244). -/
def Obligations.KeysAndVerify : Prop :=
  ∀ (s : State),
    (∀ m data, m ≠ .hostS → reaches m .cry (0x40300000 + 0x104) data s = true →
      exec (.ksPol m data) s = .next (respond (served m .cry s) m (BitVec.ofNat 32 (0x40300000 + 0x104)) .write .slverr 0)) ∧
    (∀ m d, m ≠ .hostS → (d = 1 ∨ d = 2) → reaches m .cry (0x40300000 + 0x108) d s = true →
      exec (if d = 1 then .ksLoad m else .ksClear m) s = .next (respond (served m .cry s) m (BitVec.ofNat 32 (0x40300000 + 0x108)) .write .slverr 0)) ∧
    (∀ k : Fin 32, s.cry.ksSel = k.val → bit s.cry.ks[k].pol 31 = false →
      (∀ data, s.cry.ks[k].valid = false → reaches .hostS .cry (0x40300000 + 0x104) data s = true →
        ∃ t, exec (.ksPol .hostS data) s = .next t ∧ t = okay .hostS 0 { served .hostS .cry s with cry := { s.cry with ks := t.cry.ks } } ∧
          t.cry.ks[k] = { s.cry.ks[k] with pol := data &&& 0x873F0F00 } ∧ ∀ j, j ≠ k → t.cry.ks[j] = s.cry.ks[j]) ∧
      (s.cry.ks[k].valid = false → keyLen (fld s.cry.ks[k].pol 26 24) ≠ 0 → reaches .hostS .cry (0x40300000 + 0x108) 1 s = true →
        ∃ t, exec (.ksLoad .hostS) s = .next t ∧
          t = okay .hostS 0 { served .hostS .cry s with cry := { s.cry with ks := t.cry.ks, stage := .replicate 8 0 } } ∧
          t.cry.ks[k] = { s.cry.ks[k] with valid := true, key := (bytesOf s.cry.stage).take (keyLen (fld s.cry.ks[k].pol 26 24)) } ∧
          ∀ j, j ≠ k → t.cry.ks[j] = s.cry.ks[j]) ∧
      (reaches .hostS .cry (0x40300000 + 0x108) 2 s = true →
        ∃ t, exec (.ksClear .hostS) s = .next t ∧
          t = okay .hostS 0 { served .hostS .cry s with cry := { s.cry with ks := t.cry.ks, stage := .replicate 8 0 } } ∧
          t.cry.ks[k] = { s.cry.ks[k] with valid := false, key := [] } ∧ ∀ j, j ≠ k → t.cry.ks[j] = s.cry.ks[j])) ∧
    (∀ m, reaches m .pkv 0x40310000 1 s = true →
      (pkvHeld s.pkv = true → exec (.pkvStart m) s = .next (respond (served m .pkv s) m (BitVec.ofNat 32 0x40310000) .write .slverr 0)) ∧
      (pkvHeld s.pkv = false → s.pkv.owner = .none →
        exec (.pkvStart m) s = .next (okay m 0 { served m .pkv s with pkv := { s.pkv with owner := .firmware } })) ∧
      (pkvHeld s.pkv = false → s.pkv.owner = .cfg →
        exec (.pkvStart m) s = .next (okay m 0 { served m .pkv s with pkv := { s.pkv with pend := true } }))) ∧
    (s.pkv.owner = .firmware → s.cfg.load = none →
      exec .pkvDone s = .next { s with pkv := { s.pkv with
        owner := .none, result := pkvResult s.pkv, evt := withBit s.pkv.evt 0 true } })

/-- The way of a job into a unit. JOB_ACCEPT, with nothing waiting on the yard, takes the next descriptor of a ring with the next free tag: a well-formed one
joins the accepted jobs (R223, R227), a malformed one ends with its code (R226). JOB_DISPATCH gives the best job of the queues to a unit that holds no job,
for a core the first of the free ones, with the key of its slot, or ends a firmware job with KEY_EMPTY or POLICY (R228, R232). JOB_AGED raises a job of a
low class that has been at the head of its queue for longer than AGE (R228). -/
def Obligations.JobStart : Prop :=
  ∀ (s : State),
    (∀ (c : Fin 4) (tag : Nat) (l : List Byte) (s1 : State), yardIdle s → nextTag s.cry = some tag → cryOn s = true → s.cry.ring[c].size ≠ 0 →
      ringAvail s.cry.ring[c].size s.cry.ring[c].prod s.cry.ring[c].cons ≠ 0 →
      dmaRead .cryDma (s.cry.ring[c].base.toNat + 32 * (s.cry.ring[c].cons % 2 ^ s.cry.ring[c].size)) 32 (fence s) = ((.okay, l), s1) →
      ∃ u : State, exec (.jobAccept c) s = .next (settle u) ∧ u = { s1 with cry := u.cry } ∧ u.cry.lastTag = tag ∧ u.cry.seq = s.cry.seq + 1 ∧
        u.cry.ring[c].cons = (s.cry.ring[c].cons + 1) % ringMod s.cry.ring[c].size ∧ u.cry.unit = s.cry.unit ∧ u.mem = s.mem ∧
        (jobCheck c (descWords l) = 0 → u.cry.done = s.cry.done ∧ ∃ j : Job, queued u.cry.jobs = queued (s.cry.jobs ++ [j]) ∧
          j.tag = BitVec.ofNat 8 tag ∧ j.cls = c ∧ j.w = descWords l ∧ j.user = .mid (s.cry.ring[c].writer.headD .hostS) ∧ j.aged = false) ∧
        (jobCheck c (descWords l) ≠ 0 → u.cry.jobs = s.cry.jobs ∧ ∃ x : Cpl, u.cry.done = s.cry.done ++ [x] ∧ x.status = jobCheck c (descWords l) ∧
          x.tag = BitVec.ofNat 8 tag ∧ x.cls = c ∧ x.unit = 7)) ∧
    (∀ (u : Fin 5) (j : Job), s.cry.ret = [] → cryOn s = true → noUnit s.cry (isHx u) = false → s.cry.unit[u].st = .inSvc → s.cry.stall = false →
      s.cry.unit[u].run = none → s.cry.unit[u].susp = none → firstFree s.time s.cry u = true → bestJob s.cry (isHx u) = some j →
      (slotCheck s.cry j.user j.w = 0 → ∃ t : State, exec (.jobDispatch u) s = .next t ∧
        t = { s with cry := { s.cry with jobs := t.cry.jobs, unit := t.cry.unit } } ∧
        queued t.cry.jobs = queued (s.cry.jobs.filter (fun x => x.tag != j.tag)) ∧ (∀ v, v ≠ u → t.cry.unit[v] = s.cry.unit[v]) ∧
        t.cry.unit[u] = { s.cry.unit[u] with run := some { j with key := if jobOp j.w = 8 then [] else s.cry.ks[jobSlot j.w].key } }) ∧
      (slotCheck s.cry j.user j.w ≠ 0 → j.user ≠ .trx → ∃ t : State, exec (.jobDispatch u) s = .next t ∧ t = { s with cry := t.cry } ∧
        queued t.cry.jobs = queued (s.cry.jobs.filter (fun x => x.tag != j.tag)) ∧ t.cry.unit = s.cry.unit ∧
        ∃ x : Cpl, t.cry.done = s.cry.done ++ [x] ∧ x.status = slotCheck s.cry j.user j.w ∧ x.tag = j.tag ∧ x.unit = 7 ∧ x.outLen = 0)) ∧
    (∀ (j : Job) (tag : Byte) (h : Nat), s.cry.age ≠ 0 → j ∈ s.cry.jobs → j.tag = tag → 2 ≤ j.cls.val → j.headT = some h →
      s.cry.age * 12288 < 5 * (s.time - h) →
      ∃ t : State, exec (.jobAged tag) s = .next t ∧ t = { s with cry := { s.cry with jobs := t.cry.jobs } } ∧ { j with aged := true } ∈ t.cry.jobs ∧
        t.cry.jobs.map (·.tag) = s.cry.jobs.map (·.tag) ∧ ∀ k ∈ s.cry.jobs, k.tag ≠ tag → k ∈ t.cry.jobs)

/-- The way of a firmware job out of a unit, where nothing waits on the yard and no access has to. JOB_END of a unit that holds no other job ends its job
with the status of its run, and writes no memory but its output (R225, R235, R237); COMPLETION_POST puts the oldest completion into the ring and writes no
memory but its entry (R233). -/
def Obligations.JobFinish : Prop :=
  ∀ (s : State), yardIdle s →
    (∀ (u : Fin 5) (j : Job), s.cry.ret = [] → s.cry.unit[u].run = some j → j.user ≠ .trx → s.cry.unit[u].susp = none → s.cry.unit[u].st = .inSvc →
      answered (.jobEnd u) s = true →
      let s0 := updUnit s u (fun x => { x with run := none })
      let x := (jobInputs j.w s0).1
      ∃ t : State, exec (.jobEnd u) s = .next (settle t) ∧ t.cry.unit[u] = { s.cry.unit[u] with run := none } ∧ t.cry.jobs = s.cry.jobs ∧
        (∃ y : Cpl, t.cry.done = s.cry.done ++ [y] ∧ y.status = (runJob j.w j.key s0).1 ∧ y.tag = j.tag ∧ y.cls = j.cls ∧ y.unit = u.val ∧
          y.cookie = j.w[7] ∧ y.outLen = if y.status = 0 then outLenOf j.w else 0) ∧
        (∀ v, v ≠ u → t.cry.unit[v] = s.cry.unit[v]) ∧ t.stl = s.stl ∧ t.cfg = s.cfg ∧ t.boot = s.boot ∧ t.trx = s.trx ∧
        (memOk s → ∀ a, (a < jobDst j.w ∨ jobDst j.w +
            (if x.ok then (jobResult j.w j.key x.iv x.aad x.src x.tag).1.length else x.src.length) ≤ a) → t.mem.read a = s.mem.read a)) ∧
    (∀ (x : Cpl) (l : List Cpl), s.cry.done = x :: l → cryOn s = true → cplFull s.cry = false → answered .completionPost s = true →
      let a := s.cry.cplBase.toNat + 16 * (s.cry.cplProd % 2 ^ s.cry.cplSize)
      ∃ t : State, exec .completionPost s = .next (settle t) ∧ t.cry.done = l ∧ t.cry.jobs = s.cry.jobs ∧ t.cry.unit = s.cry.unit ∧
        ((dmaWrite .cryDma a (cplBytes s x) s).1.1 = .okay →
          t.cry.cplProd = (s.cry.cplProd + 1) % ringMod s.cry.cplSize ∧ bit t.cry.evt 0 = true ∧ t.cry.cntLost = s.cry.cntLost) ∧
        ((dmaWrite .cryDma a (cplBytes s x) s).1.1 ≠ .okay →
          t.cry.cplProd = s.cry.cplProd ∧ bit t.cry.evt 3 = true ∧ t.cry.cntLost = satInc s.cry.cntLost 255) ∧
        (memOk s → ∀ b, b < a ∨ a + 16 ≤ b → t.mem.read b = s.mem.read b))

/-- Accesses that reach the Troax link. ZLK_ENABLE takes an OFF link to LISTEN, with no zone and no bar (R258); ZLK_DISABLE takes it OFF, and a
joined device's queued descriptors complete (R258, R269); PUB_EN, FORM and ADDR change only while EN = 0 (R258). QUEUE places a scene, and is refused while
not joined (R266); ZLK_TXQ_PROD hands descriptors over (R269); ZLK_FLUSH completes every queued descriptor, empties the queue and silences a window granted meanwhile (R279);
ZLK_CNT_CLR clears the counts; ZLK_ZT_LO gives the zone time's lower word and holds the upper bits (R283). No memory is written but words 1 to 3
of the TX descriptors. -/
def Obligations.TroaxCommands : Prop :=
  ∀ (s : State) (m : Mid),
    (∀ data, reaches m .zlk 0x40400000 (data ||| 0x80000000) s = true →
      (bit s.zlk.ctrl 31 = false → ∃ t, exec (.zlkEnable m data) s = .next t ∧
        t = { s with zlk := t.zlk, mem := t.mem, pwr := t.pwr, act := t.act, yard := t.yard, free := t.free } ∧
        t.zlk.state = .listen ∧ t.zlk.dup = false ∧ t.zlk.barred = false ∧ t.zlk.pmap = 0 ∧ t.zlk.vmap = 0 ∧
        t.zlk.ctrl = (data ||| 0x80000000) &&& 0xF01F0F70 ∧ t.zlk.zt = s.zlk.zt ∧ t.zlk.rate = s.zlk.rate ∧ t.yard.resp = { mid := m, data := 0 } ∧
        (s.zlk.state = .off → t.mem = s.mem ∧ t.zlk.txqCons = s.zlk.txqCons)) ∧
      (bit s.zlk.ctrl 31 = true → (((data ||| 0x80000000) &&& 0xF01F0F70) ^^^ s.zlk.ctrl) &&& 0x301F0000 = 0 →
        ∃ t, exec (.zlkEnable m data) s = .next t ∧ t = okay m 0 { served m .zlk s with zlk := { s.zlk with ctrl := t.zlk.ctrl, rv := t.zlk.rv } } ∧
          t.zlk.ctrl = (data ||| 0x80000000) &&& 0xF01F0F70) ∧
      (bit s.zlk.ctrl 31 = true → (((data ||| 0x80000000) &&& 0xF01F0F70) ^^^ s.zlk.ctrl) &&& 0x301F0000 ≠ 0 →
        exec (.zlkEnable m data) s = .next (respond (served m .zlk s) m (BitVec.ofNat 32 0x40400000) .write .slverr 0))) ∧
    (∀ data, reaches m .zlk 0x40400000 (data &&& 0x7FFFFFFF) s = true → bit s.zlk.ctrl 31 = true →
      (((data &&& 0x7FFFFFFF) &&& 0xF01F0F70) ^^^ s.zlk.ctrl) &&& 0x301F0000 = 0 →
      ∃ t, exec (.zlkDisable m data) s = .next t ∧
        t = { s with zlk := t.zlk, mem := t.mem, pwr := t.pwr, act := t.act, yard := t.yard, free := t.free } ∧
        t.zlk.state = .off ∧ t.zlk.pmap = 0 ∧ t.zlk.vmap = 0 ∧ t.zlk.ctrl = (data &&& 0x7FFFFFFF) &&& 0xF01F0F70 ∧ t.zlk.zt = s.zlk.zt ∧
        t.yard.resp = { mid := m, data := 0 } ∧
        (s.zlk.state = .follower ∨ s.zlk.state = .leader → t.zlk.txqCons % 16 = s.zlk.txqProd % 16) ∧
        (memOk s → ∀ a, (∀ k : Fin 8, a < s.zlk.txqBase.toNat + 16 * k.val + 4 ∨ s.zlk.txqBase.toNat + 16 * k.val + 16 ≤ a) →
          t.mem.read a = s.mem.read a)) ∧
    (∀ data, reaches m .zlk (0x40400000 + 0x01C) (data ||| 0x80000000) s = true →
      (zlkJoined s = true → exec (.queue m data) s = .next (okay m 0 { served m .zlk s with zlk := { s.zlk with
        group := fld data 10 0, scene := fld data 26 24, qScene := fld data 26 24, qGroup := fld data 10 0, pend := true
        cntRepl := if s.zlk.pend then satInc s.zlk.cntRepl 255 else s.zlk.cntRepl } })) ∧
      (zlkJoined s = false → exec (.queue m data) s = .next (respond (served m .zlk s) m (BitVec.ofNat 32 (0x40400000 + 0x01C)) .write .slverr 0))) ∧
    (∀ data, reaches m .zlk (0x40400000 + 0x0C4) data s = true →
      exec (.zlkTxqProd m data) s = .next (okay m 0 { served m .zlk s with zlk := { s.zlk with txqProd := fld data 3 0 } })) ∧
    (reaches m .zlk (0x40400000 + 0x0CC) 1 s = true → ∃ t, exec (.zlkFlush m) s = .next t ∧
      t = { s with
        zlk := { s.zlk with txqCons := t.zlk.txqCons, txWait := t.zlk.txWait, evt := t.zlk.evt, grant := none }
        mem := t.mem, pwr := t.pwr, act := t.act, yard := t.yard, free := t.free } ∧
      t.zlk.txqCons % 16 = s.zlk.txqProd % 16 ∧ (s.zlk.txqProd % 16 ≠ s.zlk.txqCons % 16 → bit t.zlk.evt 1 = true) ∧
      (memOk s → ∀ a, (∀ k : Fin 8, a < s.zlk.txqBase.toNat + 16 * k.val + 4 ∨ s.zlk.txqBase.toNat + 16 * k.val + 16 ≤ a) →
        t.mem.read a = s.mem.read a)) ∧
    (reaches m .zlk (0x40400000 + 0x0EC) 1 s = true → exec (.zlkCntClr m) s = .next (okay m 0 { served m .zlk s with zlk := { s.zlk with
      cntCrc := 0, cntBeacon := 0, cntColl := 0, cntRepl := 0, cntJoin := 0, cntDrop := 0 } })) ∧
    (readReaches m .zlk 0x40400028 s = true → exec (.zlkZtLo m) s = .next (okay m (BitVec.ofNat 32 (s.zlk.zt / 2 ^ 16))
      { served m .zlk s with zlk := { s.zlk with ztHi := BitVec.ofNat 16 (s.zlk.zt / 2 ^ 48) } }))

/-- How a Troax zone is formed, led, joined and left. FORM makes a LISTEN device with FORM = 1 the leader of a zone of its own, at cycle 0
and the radio's zone time (R258). At CYCLE_START the lowest address of the PMAP leads: it takes over the next maps, with its own bits set, counts the cycle
and sends a beacon whose check is right; every other joined device follows (R255, R257, R259). A JOINING device sends its JOIN in
the join slot, or waits (R258); the leader admits a valid JOIN to the next maps, publishing only below 16 publishers, and drops a member that four cycles
brought no roll burst of (R257). A follower that missed three beacons returns to LISTEN, its zone time unbroken (R259). A burst sent that mismatches counts
and sets COLL (R280). RV_k is stale once STALE_N cycles have passed without a value (R265). -/
def Obligations.TroaxZone : Prop :=
  ∀ (s : State),
    (zlkOn s = true → s.zlk.state = .listen → bit s.zlk.ctrl 28 = true → s.zlk.barred = false →
      ∃ t, exec .form s = .next t ∧ t = { s with zlk := t.zlk, pwr := t.pwr, pio := t.pio } ∧ t.zlk.state = .leader ∧ t.zlk.cycle = 0 ∧
        t.zlk.pmap = withBit 0 (zlkAddr s.zlk).val true ∧ t.zlk.vmap = withBit 0 (zlkAddr s.zlk).val (zlkPubEn s.zlk) ∧
        t.zlk.zt = (zoneOf s (BitVec.ofNat 48 s.trx.time)).toNat * 2 ^ 16 ∧ bit t.zlk.evt 2 = true ∧ t.zlk.ctrl = s.zlk.ctrl) ∧
    (∀ mm, zlkOn s = true → zlkJoined s = false →
      ∃ t, exec (.cycleStart mm) s = .next t ∧ t = { s with zlk := { s.zlk with
        silent := t.zlk.silent, rv := t.zlk.rv, ownColl := if s.zlk.rolled then s.zlk.ownColl else 0, rolled := false } }) ∧
    (∀ mm, zlkOn s = true → zlkJoined s = true → lowestOf s.zlk.pmap = some (zlkAddr s.zlk) →
      ∃ t, exec (.cycleStart mm) s = .next t ∧
        t = { s with zlk := t.zlk, mem := t.mem, pwr := t.pwr, act := t.act, yard := t.yard, free := t.free } ∧
        t.zlk.state = .leader ∧ t.zlk.leader = zlkAddr s.zlk ∧ t.zlk.cycle = (if s.zlk.sent.isEmpty then s.zlk.cycle else s.zlk.cycle + 1) ∧
        t.zlk.pmap = withBit s.zlk.nextP (zlkAddr s.zlk).val true ∧
        t.zlk.vmap = withBit s.zlk.nextV (zlkAddr s.zlk).val (zlkPubEn s.zlk && roomV s.zlk.nextV (zlkAddr s.zlk).val) ∧
        t.zlk.zt = s.zlk.zt ∧ t.zlk.rate = s.zlk.rate ∧ burstOk t.zlk.sent 26 = true ∧ (oct t.zlk.sent 2).toNat = 0x20 + (zlkAddr s.zlk).val ∧
        t.zlk.cntColl = (if mm then satInc s.zlk.cntColl 65535 else s.zlk.cntColl) ∧ (mm = true → bit t.zlk.evt 7 = true) ∧
        (memOk s → ∀ a, (∀ k : Fin 8, a < s.zlk.txqBase.toNat + 16 * k.val + 4 ∨ s.zlk.txqBase.toNat + 16 * k.val + 16 ≤ a) →
          t.mem.read a = s.mem.read a)) ∧
    (∀ mm, zlkOn s = true → zlkJoined s = true → lowestOf s.zlk.pmap ≠ some (zlkAddr s.zlk) →
      ∃ t, exec (.cycleStart mm) s = .next t ∧ t = { s with zlk := t.zlk } ∧ t.zlk.state = .follower ∧ t.zlk.missed = s.zlk.missed + 1 ∧
        t.zlk.grant = none ∧ t.zlk.pmap = s.zlk.pmap ∧ t.zlk.vmap = s.zlk.vmap ∧ t.zlk.cycle = s.zlk.cycle ∧ t.zlk.sent = s.zlk.sent ∧
        t.zlk.zt = s.zlk.zt) ∧
    (∀ draw mm, zlkOn s = true → s.zlk.state = .joining → s.zlk.joinOut = false →
      (s.zlk.joinWait ≠ 0 → exec (.joinSlot draw mm) s = .next { s with zlk := { s.zlk with joinWait := s.zlk.joinWait - 1 } }) ∧
      (s.zlk.joinWait = 0 → exec (.joinSlot draw mm) s = .next { s with zlk := { s.zlk with
        sent := [0x55, 0xE2, BitVec.ofNat 8 ((if zlkPubEn s.zlk then 0x60 else 0x40) + (zlkAddr s.zlk).val)]
          ++ leBytes 1 (crc8 [BitVec.ofNat 8 ((if zlkPubEn s.zlk then 0x60 else 0x40) + (zlkAddr s.zlk).val)])
        burstAt := 10 * s.time, joinSent := true, joinOut := true, joinWait := draw.val, cntJoin := satInc s.zlk.cntJoin 255
        cntColl := if mm then satInc s.zlk.cntColl 65535 else s.zlk.cntColl
        evt := if mm then withBit s.zlk.evt 7 true else s.zlk.evt } })) ∧
    (∀ (a : Fin 32) (pub : Bool), zlkOn s = true → s.zlk.state = .leader →
      let hdr : Byte := BitVec.ofNat 8 ((if pub then 0x60 else 0x40) + a.val)
      ∃ t, exec (.join [0x55, 0xE2, hdr, BitVec.ofNat 8 (crc8 [hdr])]) s = .next t ∧
        t = { s with zlk := { s.zlk with nextP := t.zlk.nextP, nextV := t.zlk.nextV, silent := t.zlk.silent } } ∧
        t.zlk.nextP = withBit s.zlk.nextP a.val true ∧
        t.zlk.nextV = (if pub = true ∧ countOf (withBit s.zlk.nextV a.val false) < 16 then withBit s.zlk.nextV a.val true else s.zlk.nextV)) ∧
    (∀ a : Fin 32, zlkOn s = true → s.zlk.state = .leader → a ≠ zlkAddr s.zlk → 4 ≤ s.zlk.silent[a] →
      exec (.memberDrop a) s = .next { s with zlk := { s.zlk with
        nextP := withBit s.zlk.nextP a.val false, nextV := withBit s.zlk.nextV a.val false, silent := s.zlk.silent.set a.val 0 } }) ∧
    (zlkOn s = true → s.zlk.state = .follower → 3 ≤ s.zlk.missed → ∃ t, exec .leaderLost s = .next t ∧
      t = { s with zlk := t.zlk, mem := t.mem, pwr := t.pwr, act := t.act, yard := t.yard, free := t.free } ∧
      t.zlk.state = .listen ∧ bit t.zlk.evt 5 = true ∧ t.zlk.zt = s.zlk.zt ∧ t.zlk.rate = s.zlk.rate ∧ t.zlk.ctrl = s.zlk.ctrl ∧
      t.zlk.txqCons % 16 = s.zlk.txqProd % 16 ∧
      (memOk s → ∀ a, (∀ k : Fin 8, a < s.zlk.txqBase.toNat + 16 * k.val + 4 ∨ s.zlk.txqBase.toNat + 16 * k.val + 16 ≤ a) →
        t.mem.read a = s.mem.read a)) ∧
    (∀ k : Fin 16, ∃ t, exec (.rvStale k) s = .next t ∧ t = { s with zlk := { s.zlk with rv := t.zlk.rv } } ∧
      t.zlk.rv[k] = { s.zlk.rv[k] with stale := s.zlk.rv[k].stale || max 1 (fld s.zlk.ctrl 11 8) < s.zlk.rv[k].quiet } ∧ ∀ j, j ≠ k → t.zlk.rv[j] = s.zlk.rv[j])

/-- What a beacon does, by the state it meets. One that fails its check is only counted (R254). A follower named in the PMAP takes the layout, and corrects its zone
time and rate by the error against the one-way delay (R259, R261); it learns the delay from an echo of its own burst (R262). A JOINING device that has sent its
JOIN is joined by a PMAP that names it (R258), and a device named before it has sent one has a duplicate (R258). A LISTEN device takes the time of the second
of two beacons in a row, with no delay, and starts JOINING (R258). A leader takes none. -/
def Obligations.TroaxBeacons : Prop :=
  ∀ (s : State) (octets : List Byte) (rx8 : Nat), zlkOn s = true →
    let b := parseBeacon octets
    ((burstOk octets 26 = false ∨ (oct octets 2).toNat / 32 ≠ 1) → exec (.beacon octets rx8) s = .next { s with zlk := { s.zlk with
      cntCrc := satInc s.zlk.cntCrc 65535, evt := withBit s.zlk.evt 6 true } }) ∧
    (burstOk octets 26 = true → (oct octets 2).toNat / 32 = 1 → ∃ t, exec (.beacon octets rx8) s = .next t ∧
      t.zlk.cntBeacon = satInc s.zlk.cntBeacon 65535 ∧
      (s.zlk.state ≠ .follower ∨ inMap b s.zlk = true → t = { s with zlk := t.zlk }) ∧
      (s.zlk.state = .leader → t.zlk = { s.zlk with cntBeacon := t.zlk.cntBeacon }) ∧
      (inMap b s.zlk = true → (s.zlk.state = .follower ∨ (s.zlk.state = .joining ∧ s.zlk.joinSent = true)) →
        let e := diff8 (b.t8 + s.zlk.dly.toInt) rx8
        t.zlk.state = .follower ∧ (t.zlk.zt : Int) = ((s.zlk.zt : Int) + e * 8192) % 2 ^ 64 ∧
        t.zlk.rate = (if s.clk.sys.st = .coast then s.zlk.rate else newRate s.zlk e) ∧
        t.zlk.pmap = b.pmap ∧ t.zlk.vmap = b.vmap ∧ t.zlk.leader = b.src ∧ t.zlk.cycle = b.cycle ∧ t.zlk.missed = 0 ∧
        (b.eaddr = (zlkAddr s.zlk).val → t.zlk.dly = BitVec.ofInt 16 (rhaDiv (b.eofs + s.zlk.dSent.toInt) 2) ∧ t.zlk.dlyValid = true) ∧
        (b.eaddr ≠ (zlkAddr s.zlk).val → t.zlk.dly = s.zlk.dly ∧ t.zlk.dlyValid = s.zlk.dlyValid)) ∧
      (inMap b s.zlk = true → ((s.zlk.state = .joining ∧ s.zlk.joinSent = false) ∨ (s.zlk.state = .listen ∧ s.zlk.barred = false)) →
        t.zlk.state = .listen ∧ t.zlk.dup = true ∧ t.zlk.barred = true ∧ bit t.zlk.evt 4 = true ∧ t.zlk.zt = s.zlk.zt) ∧
      (inMap b s.zlk = false → s.zlk.state = .joining → t.zlk.state = .joining ∧ t.zlk.joinSent = s.zlk.joinSent ∧
        t.zlk.joinOut = false ∧ t.zlk.pmap = b.pmap ∧ t.zlk.cycle = b.cycle) ∧
      (inMap b s.zlk = false → s.zlk.state = .listen → s.zlk.barred = false → s.zlk.heard = 1 → b.cycle = s.zlk.cycle + 1 →
        t.zlk.state = .joining ∧ (t.zlk.zt : Int) = ((s.zlk.zt : Int) + diff8 b.t8 rx8 * 8192) % 2 ^ 64 ∧ t.zlk.pmap = b.pmap ∧
        t.zlk.cycle = b.cycle ∧ t.zlk.joinSent = false ∧ t.zlk.joinWait = 0) ∧
      (inMap b s.zlk = false → s.zlk.state = .follower → t.zlk.state = .listen ∧ t.zlk.pmap = 0 ∧ t.zlk.zt = s.zlk.zt ∧
        t.zlk.txqCons % 16 = s.zlk.txqProd % 16 ∧ t.stl = s.stl ∧ t.trx = s.trx ∧ t.cry = s.cry ∧ t.cfg = s.cfg))

/-- Roll bursts. ROLL_LATCH of a joined device with a slot sends its roll burst: DREQ, the queued scene, and the published value if its VMAP bit is set; the scene queue is empty
afterwards (R253, R256, R266); a second mismatch in a row makes the device a duplicate (R280). ROLL of a valid burst of another member notes its DREQ and its time, makes the
remote values of its address fresh, and raises the route source of the lowest filter slot that its scene meets (R257, R262, R265,
R267); one that fails its check is only counted (R254), and outside 0.5 µs around its instant no SYNC is taken (R255). -/
def Obligations.RollBursts : Prop :=
  ∀ (s : State),
    (∀ (dreq : Bool) (s1 : State), zlkDreq s = (dreq, s1) → zlkJoined s = true → bit s.zlk.pmap (zlkAddr s.zlk).val = true →
      s.zlk.state = .leader ∨ s.zlk.missed = 0 →
      let pub := bit s.zlk.vmap (zlkAddr s.zlk).val
      let body := leBytes 2 (rollWord s.zlk dreq) ++ (if pub then leBytes 3 (BitVec.ofInt 24 (senseBus s1 (fld s.zlk.pub 7 0))).toNat else [])
      (∃ t, exec (.rollLatch false) s = .next t ∧
        t = { s1 with zlk := t.zlk, stl := t.stl } ∧
        t.zlk.sent = [0xE2] ++ body ++ leBytes 1 (crc8 body) ∧ t.zlk.pend = false ∧ t.zlk.dSent = s.zlk.dly ∧ t.zlk.ownColl = 0 ∧
        t.zlk.state = s.zlk.state ∧ t.zlk.pmap = s.zlk.pmap ∧ t.zlk.zt = s.zlk.zt ∧ t.zlk.cntColl = s.zlk.cntColl) ∧
      (∃ t, exec (.rollLatch true) s = .next t ∧ t.zlk.pend = false ∧ t.zlk.cntColl = satInc s.zlk.cntColl 65535 ∧ bit t.zlk.evt 7 = true ∧
        (s.zlk.ownColl = 0 → t.zlk.state = s.zlk.state ∧ t.zlk.dup = s.zlk.dup) ∧
        (s.zlk.ownColl ≠ 0 → t.zlk.state = .listen ∧ t.zlk.dup = true) ∧
        t.cfg = s.cfg ∧ t.trx = s.trx ∧ t.cry = s.cry ∧ t.boot = s.boot)) ∧
    (∀ (a : Fin 32) (body : List Byte) (late8 : Int), zlkJoined s = true → domReady s .yard = true → a ≠ zlkAddr s.zlk →
      bit s.zlk.pmap a.val = true → body.length = (if bit s.zlk.vmap a.val then 5 else 2) →
      -614 ≤ late8 → late8 ≤ 614 →
      let w := octs body 0 2
      ∃ u : State, u = { s with zlk := u.zlk, stl := u.stl } ∧
        u.zlk.gotRoll = withBit s.zlk.gotRoll a.val true ∧ u.zlk.dreq = withBit s.zlk.dreq a.val (w.testBit 15) ∧
        u.zlk.silent = s.zlk.silent.set a.val 0 ∧ u.zlk.late = s.zlk.late.set a.val late8 ∧
        (∀ k : Fin 16, bit s.zlk.vmap a.val = true → s.zlk.rv[k].en = true → s.zlk.rv[k].src = a →
          u.zlk.rv[k] = { s.zlk.rv[k] with val := BitVec.ofNat 24 (octs body 2 3), stale := false, quiet := 0 }) ∧
        (∀ k : Fin 16, bit s.zlk.vmap a.val = false → u.zlk.rv[k] = s.zlk.rv[k]) ∧
        u.zlk.fltCtrl = s.zlk.fltCtrl ∧ u.zlk.fltGroup = s.zlk.fltGroup ∧ u.zlk.state = s.zlk.state ∧
        exec (.roll a ([0xE2] ++ body ++ leBytes 1 (crc8 body)) late8) s = .next (if w.testBit 14 then
          (match zlkFilter s.zlk (w / 2 ^ 11 % 8) (w % 2 ^ 11) with
            | some k => fire (0x10 + k.val) u
            | none => u)
          else u)) ∧
    (∀ (a : Fin 32) (octets : List Byte) (late8 : Int), late8 < -614 ∨ 614 < late8 → exec (.roll a octets late8) s = .next s) ∧
    (∀ (a : Fin 32) (octets : List Byte) (late8 : Int), zlkOn s = true → -614 ≤ late8 → late8 ≤ 614 → oct octets 0 ≠ 0xE2 →
      exec (.roll a octets late8) s = .next { s with zlk := { s.zlk with
        cntCrc := satInc s.zlk.cntCrc 65535, evt := withBit s.zlk.evt 6 true } })

/-- Data frames on the wire. DATA_WINDOW of the granted device sends its head descriptor's frame when its length fits the window, and completes it OK; a length of 0 or above
200 completes it BADDESC, one that does not fit TOO_LONG, a mismatch COLL (R268, R269, R280). DATA_BURST of a valid frame for this device, with nothing waiting
on the yard, goes into the RX ring where its accesses are answered OKAY; without a free entry it is counted and dropped; a frame for another is ignored (R269, R281). -/
def Obligations.TroaxData : Prop :=
  ∀ (s : State),
    (∀ (mismatch : Bool) (l : List Byte) (s1 : State), zlkJoined s = true → s.zlk.grant = some (zlkAddr s.zlk) → zlkQueued s.zlk ≠ 0 →
      attemptNow .zlkDma (dmaRead .zlkDma (zlkHead s.zlk) 16) (updZlk s (fun z => { z with grant := none })) = (some (.okay, l), s1) → bit (wordOf l 1) 31 = true →
      let n := fld (wordOf l 1) 7 0
      (n = 0 ∨ 200 < n → exec (.dataWindow mismatch) s = .next (zlkComplete 6 none s1)) ∧
      (n ≠ 0 → n ≤ 200 → zlkWin s.zlk < n → exec (.dataWindow mismatch) s = .next (zlkComplete 1 none s1)) ∧
      (n ≠ 0 → n ≤ zlkWin s.zlk → ∀ (pay : List Byte) (s2 : State),
          attemptNow .zlkDma (dmaRead .zlkDma (wordOf l 0).toNat n) s1 = (some (.okay, pay), s2) →
        let body := [BitVec.ofNat 8 (0x80 + (zlkAddr s.zlk).val)] ++ leBytes 1 (fld (wordOf l 1) 15 8) ++ leBytes 1 n ++ pay
        ∃ t, exec (.dataWindow mismatch) s = .next t ∧
          t = { s with zlk := t.zlk, mem := t.mem, pwr := t.pwr, act := t.act, yard := t.yard, free := t.free } ∧
          t.zlk.sent = [0x55, 0xE2] ++ body ++ leBytes 2 (crc16 body) ∧ t.zlk.txqCons = (s.zlk.txqCons + 1) % 16 ∧ bit t.zlk.evt 1 = true ∧
          t.zlk.grant = none ∧ t.zlk.state = s.zlk.state ∧
          t.zlk.cntColl = (if mismatch then satInc s.zlk.cntColl 65535 else s.zlk.cntColl) ∧
          (memOk s → ∀ a, (∀ k : Fin 8, a < s.zlk.txqBase.toNat + 16 * k.val + 4 ∨ s.zlk.txqBase.toNat + 16 * k.val + 16 ≤ a) →
            t.mem.read a = s.mem.read a))) ∧
    (∀ (src : Fin 32) (dst : Byte) (pay : List Byte) (sync : W32), yardIdle s → zlkOn s = true → 1 ≤ pay.length → pay.length ≤ 200 →
      let body := [BitVec.ofNat 8 (0x80 + src.val), dst, BitVec.ofNat 8 pay.length] ++ pay
      let octets := [0x55, 0xE2] ++ body ++ leBytes 2 (crc16 body)
      let a := s.zlk.rxrBase.toNat + 16 * (s.zlk.rxrNext % 8)
      (dst.toNat ≠ (zlkAddr s.zlk).val → dst ≠ 0xFF → exec (.dataBurst octets sync) s = .next s) ∧
      (dst.toNat = (zlkAddr s.zlk).val ∨ dst = 0xFF → ∀ (l : List Byte) (s1 : State), dmaRead .zlkDma a 8 s = ((.okay, l), s1) →
        (bit (wordOf l 1) 31 = false → ∃ t, exec (.dataBurst octets sync) s = .next (settle t) ∧
          t = { s with zlk := { s.zlk with cntDrop := satInc s.zlk.cntDrop 65535, evt := withBit s.zlk.evt 8 true }
                       pwr := t.pwr, act := t.act, yard := t.yard }) ∧
        (bit (wordOf l 1) 31 = true → ∀ (w w' : Nat) (s2 s3 : State), dmaWrite .zlkDma (wordOf l 0).toNat pay s1 = ((.okay, w), s2) →
          dmaWrite .zlkDma (a + 4) (leBytes 4 (put src.val 16 ||| put dst.toNat 8 ||| put pay.length 0).toNat ++ leBytes 4 sync.toNat ++ [0, 0, 0, 0]) s2
            = ((.okay, w'), s3) →
          ∃ t, exec (.dataBurst octets sync) s = .next (settle t) ∧
            t = { s with zlk := { s.zlk with rxrNext := (s.zlk.rxrNext + 1) % 8, evt := withBit s.zlk.evt 0 true }
                         mem := t.mem, pwr := t.pwr, act := t.act, yard := t.yard } ∧
            (memOk s → ∀ b, (b < (wordOf l 0).toNat ∨ (wordOf l 0).toNat + pay.length ≤ b) → (b < a + 4 ∨ a + 16 ≤ b) →
              t.mem.read b = s.mem.read b))))

/-- The DALI engine. DALI_FRAME after 2 400 µs of idle bus: a frame of a start bit and 8 to 32 bits within the limits gives its data and length and sets RX, with BF
where it started by BF_MAX after a controller's send; any other is discarded with FERR (R270, R271). SEND in controller mode waits for the settling time, and
SETTLE_EXPIRY starts it; in gear mode a write of DLI_TXC before BF_MIN makes the answer pending, from BF_MIN to BF_MAX it starts it at once, later it sets LATE; a
pending answer starts at BF_MIN, not while BUS_LOW reads 1, and a new frame drops it with LATE (R271, R272, R279). TXDONE, NOBF, COLL and BUSFAIL set their events;
COLL takes the frame back (R271, R272). -/
def Obligations.DaliEngine : Prop :=
  ∀ (s : State),
    (∀ first run runs, dliOn s = true →
      let l := activeRuns s.dli first (run :: runs)
      let bf : Bool := bit s.dli.ctrl 30 && dliAnswers (runsCyc l) s.dli
      (dliDecode l = none → exec (.daliFrame first run runs) s = .next { s with dli := { s.dli with
        busLow := false, idle := 368640, await := s.dli.await && !bf, evt := withBit s.dli.evt 2 true } }) ∧
      (∀ data len, dliDecode l = some (data, len) → ∃ t, exec (.daliFrame first run runs) s = .next t ∧ t = { s with dli := t.dli } ∧
        t.dli.rxd = data ∧ t.dli.rxLen = len % 64 ∧ bit t.dli.evt 0 = true ∧ t.dli.bf = bf ∧ t.dli.await = (s.dli.await && !bf) ∧
        t.dli.ctrl = s.dli.ctrl ∧ t.dli.sent = s.dli.sent ∧
        (bit s.dli.ctrl 30 = false → len ≠ 8 → t.dli.sinceFwd = some 368640 ∧ (s.dli.run = .pendBack → t.dli.run = .idle ∧ bit t.dli.evt 5 = true)) ∧
        (bit s.dli.ctrl 30 = true ∨ len = 8 → t.dli.run = s.dli.run ∧ t.dli.sinceFwd = s.dli.sinceFwd))) ∧
    (∀ m data, reaches m .dli 0x40410014 (data ||| 0x80000000) s = true → bit s.dli.ctrl 31 = true → bit s.dli.ctrl 30 = true →
      s.dli.run = .idle → 8 ≤ fld data 5 0 → fld data 5 0 ≤ 32 →
      exec (.send m data) s = .next (okay m 0 { served m .dli s with dli := { s.dli with run := .settle, txLen := fld data 5 0, settle := fld data 15 8 } })) ∧
    (∀ m data, reaches m .dli 0x40410014 data s = true → (fld data 5 0 < 8 ∨ 32 < fld data 5 0) →
      exec (.dliTxc m data) s = .next (respond (served m .dli s) m (BitVec.ofNat 32 0x40410014) .write .slverr 0)) ∧
    (∀ m data, reaches m .dli 0x40410014 data s = true → bit s.dli.ctrl 31 = true → bit s.dli.ctrl 30 = false → s.dli.run = .idle → fld data 5 0 = 8 →
      (∀ n, s.dli.sinceFwd = some n → n < fld s.dli.tim 23 16 * 15360 → (n < fld s.dli.tim 31 24 * 15360 ∨ s.dli.busLow = true) →
        exec (.dliTxc m data) s = .next (okay m 0 { served m .dli s with dli := { s.dli with run := .pendBack, txLen := 8 } })) ∧
      (∀ n, s.dli.sinceFwd = some n → n < fld s.dli.tim 23 16 * 15360 → fld s.dli.tim 31 24 * 15360 ≤ n → s.dli.busLow = false →
        exec (.dliTxc m data) s = .next (okay m 0 { served m .dli s with dli := { s.dli with
          txLen := 8, run := .sending true, sendAt := s.time, sinceFwd := none, await := false, sent := s.dli.sent ++ [(s.dli.txd, 8)] } })) ∧
      ((s.dli.sinceFwd = none ∨ ∃ n, s.dli.sinceFwd = some n ∧ fld s.dli.tim 23 16 * 15360 ≤ n) →
        exec (.dliTxc m data) s = .next (okay m 0 { served m .dli s with dli := { s.dli with evt := withBit s.dli.evt 5 true } }))) ∧
    (dliOn s = true → s.dli.run = .settle → s.dli.busLow = false → s.dli.settle * 15360 ≤ s.dli.idle →
      exec .settleExpiry s = .next { s with dli := { s.dli with
        run := .sending false, sendAt := s.time, sinceFwd := none, await := false, sent := s.dli.sent ++ [(s.dli.txd, s.dli.txLen)] } }) ∧
    (dliOn s = true → s.dli.run = .pendBack → (s.dli.busLow = true → exec .backwardFrameStart s = .next s) ∧
      (s.dli.busLow = false → (∀ n, s.dli.sinceFwd = some n → fld s.dli.tim 31 24 * 15360 ≤ n) →
        exec .backwardFrameStart s = .next { s with dli := { s.dli with
          run := .sending true, sendAt := s.time, sinceFwd := none, await := false, sent := s.dli.sent ++ [(s.dli.txd, s.dli.txLen)] } })) ∧
    (dliOn s = true → s.dli.await = true → (∀ n, s.dli.sinceFwd = some n → fld s.dli.tim 23 16 * 15360 ≤ n) →
      exec .nobf s = .next { s with dli := { s.dli with await := false, evt := withBit s.dli.evt 6 true } }) ∧
    (∀ b, dliOn s = true → s.dli.run = .sending b →
      (dliSent s = true → exec .txdone s = .next { s with dli := { s.dli with
        run := .idle, idle := 0, await := bit s.dli.ctrl 30, sinceFwd := if bit s.dli.ctrl 30 then some 0 else none
        evt := withBit s.dli.evt 1 true } }) ∧
      exec .coll s = .next { s with dli := { s.dli with
        run := .idle, idle := 0, sent := s.dli.sent.dropLast, evt := withBit s.dli.evt 3 true } }) ∧
    (∀ ms, dliOn s = true → (fld s.dli.tim 15 0 < ms →
        exec (.busfail ms) s = .next { s with dli := { s.dli with busLow := true, idle := 0, evt := withBit s.dli.evt 4 true } }) ∧
      (ms ≤ fld s.dli.tim 15 0 → exec (.busfail ms) s = .next s))

/-- The SPI slave port. WRITE, command 0x02, stores each complete word by MID 10 at ascending addresses, and discards a partial one; READ, command 0x0B, gives after
four octets of turnaround the word that MID 10 reads, or ones with LATE if it was not ready; STATUS, command 0x05, repeats SPIS_HSTAT; any other command shifts out ones
and has no effect, and a disabled port ignores them all (R273, R274). The octets shifted out before and beside these are the model's free values (log 6). The mailboxes: a write of
SPIS_TOHOST sets its VALID; a read of SPIS_FROMHOST by a processor clears its VALID, by another master does not (R275). -/
def Obligations.HostPort : Prop :=
  ∀ (s : State),
    (spisOn s = false → ∀ l, (∀ late, exec (.write l late) s = .next s ∧ exec (.read l late) s = .next s) ∧ exec (.status l) s = .next s) ∧
    (∀ (a w : W32) (t : Target) (rest : List Byte) (late : List Bool), spisOn s = true → memOk s → decodeTarget a.toNat = some t → storable t = true → a.toNat % 4 = 0 →
      stalled s .spis = false → verdict s .spis (some t) a.toNat .write = .go t → rest.length < 4 →
      ∃ u, exec (.write ([0x02] ++ beBytes 4 a.toNat ++ beBytes 4 w.toNat ++ rest) late) s = .next u ∧
        u = okay .spis 0 { served .spis t s with spis := { s.spis with miso := u.spis.miso }, mem := u.mem, free := s.free + 9 } ∧
        u.mem.readN a.toNat 4 = leBytes 4 w.toNat ∧ (∀ x, (x < a.toNat ∨ a.toNat + 4 ≤ x) → u.mem.read x = s.mem.read x)) ∧
    (∀ (a : W32) (late : Bool) (t : Target) (pad : List Byte), spisOn s = true → decodeTarget a.toNat = some t → isMemory t = true → a.toNat % 4 = 0 →
      stalled s .spis = false → verdict s .spis (some t) a.toNat .read = .go t → pad.length = 8 →
      let v := BitVec.ofNat 32 (leNat (s.mem.readN (bankAddr s t a.toNat) 4))
      ∃ u, exec (.read ([0x0B] ++ beBytes 4 a.toNat ++ pad) [late]) s = .next u ∧
        u = okay .spis v { served .spis t s with
          spis := { s.spis with miso := u.spis.miso, late := s.spis.late || late }, free := s.free + 9 } ∧
        u.spis.miso.drop 9 = beBytes 4 (if late then 0xFFFFFFFF else v.toNat)) ∧
    (∀ l : List Byte, spisOn s = true → ∃ u, exec (.status (0x05 :: l)) s = .next u ∧
      u = { s with spis := { s.spis with miso := u.spis.miso }, free := s.free + 1 } ∧ u.spis.miso.length = l.length + 1 ∧
      ∀ i, i < l.length → u.spis.miso[i + 1]? = (beBytes 4 (hstat s.spis).toNat)[i % 4]?) ∧
    (∀ (c : Byte) (l : List Byte), spisOn s = true → c ≠ 0x02 → c ≠ 0x0B → c ≠ 0x05 →
      ∃ u, u = { s with spis := { s.spis with miso := u.spis.miso }, free := s.free + 1 } ∧ u.spis.miso.drop 1 = List.replicate l.length 0xFF ∧
        (∀ late, exec (.write (c :: l) late) s = .next u ∧ exec (.read (c :: l) late) s = .next u) ∧ exec (.status (c :: l)) s = .next u) ∧
    (∀ m data, reaches m .spis 0x40420010 data s = true →
      exec (.spisTohost m data) s = .next (okay m 0 { served m .spis s with spis := { s.spis with toHost := data, toV := true } })) ∧
    (∀ m, readReaches m .spis 0x40420014 s = true →
      (m = .hostS ∨ m = .hostU ∨ m = .groom → exec (.fromhostRead m) s = .next (okay m s.spis.fromHost
        { served m .spis s with spis := { s.spis with fromV := false } })) ∧
      (m ≠ .hostS → m ≠ .hostU → m ≠ .groom → exec (.fromhostRead m) s = .next (okay m s.spis.fromHost (served m .spis s))))

/-- The UARTs and the I2C masters. A character written waits behind those before it, or is lost with OVR if sixteen wait; UART_TX_CHAR ends the character being sent,
with its parity and stop bits; UART_RX_CHAR puts a character into the FIFO with its parity judged, or sets OVR if it is full; a read takes the oldest; CTS lets a held-back
start bit go (R276, R285). GO starts a transfer of an enabled, idle port, with a repeated start after one without a stop; I2C_DONE ends a write with its code and a stop, or
none after NOSTOP or a lost arbitration, and gives a read's octets to the FIFO of 8 as it has room; I2C_TIMEOUT ends with TIMEOUT; I2C_DATA_ACCESS puts an octet into or takes
one out of the FIFO (R277, R285). -/
def Obligations.SerialPorts : Prop :=
  ∀ (s : State),
    (∀ m (u : Fin 2) data, reaches m (.uart u) (0x40430008 + 0x1000 * u.val) data s = true →
      ∃ t, exec (.uartDataWrite m u data) s = .next t ∧ t = okay m 0 { served m (.uart u) s with uart := t.uart } ∧ (∀ j, j ≠ u → t.uart[j] = s.uart[j]) ∧
        (16 ≤ s.uart[u].tx.length → t.uart[u] = { s.uart[u] with ovr := true }) ∧
        (s.uart[u].tx.length < 16 → t.uart[u] = { s.uart[u] with cur := t.uart[u].cur, tx := t.uart[u].tx } ∧
          t.uart[u].cur.toList ++ t.uart[u].tx = s.uart[u].cur.toList ++ s.uart[u].tx ++ [data.setWidth 8])) ∧
    (∀ m (u : Fin 2), readReaches m (.uart u) (0x40430008 + 0x1000 * u.val) s = true →
      (∀ c l, s.uart[u].rx = c :: l → ∃ t, exec (.uartDataRead m u) s = .next t ∧
        t = okay m (c.setWidth 32) { served m (.uart u) s with uart := t.uart } ∧ t.uart[u] = { s.uart[u] with rx := l } ∧ ∀ j, j ≠ u → t.uart[j] = s.uart[j]) ∧
      (s.uart[u].rx = [] → ∃ v, exec (.uartDataRead m u) s = .next (okay m v { served m (.uart u) s with free := s.free + 3 }) ∧ bit v 31 = true)) ∧
    (∀ (u : Fin 2) (c : Byte) (par fe brk : Bool), portUp s (60 + u.val) = true → bit s.uart[u].ctrl 31 = true → bit s.uart[u].ctrl 29 = true →
      let pe : Bool := match uartParity s.uart[u].ctrl c with | some v => v != par | none => false
      ∃ t, exec (.uartRxChar u c par fe brk) s = .next t ∧ t = { s with uart := t.uart } ∧ (∀ j, j ≠ u → t.uart[j] = s.uart[j]) ∧
        t.uart[u].err = (s.uart[u].err || pe || fe || brk) ∧ t.uart[u].tx = s.uart[u].tx ∧
        (16 ≤ s.uart[u].rx.length → t.uart[u].ovr = true ∧ t.uart[u].rx = s.uart[u].rx) ∧
        (s.uart[u].rx.length < 16 → t.uart[u].ovr = s.uart[u].ovr ∧ ∃ w, t.uart[u].rx = s.uart[u].rx ++ [w] ∧
          w.setWidth 8 = (if bit s.uart[u].ctrl 0 then c &&& 0x7F else c) ∧ w.getLsbD 9 = pe ∧ w.getLsbD 10 = fe ∧ w.getLsbD 11 = brk)) ∧
    (∀ (u : Fin 2) (c : Byte), portUp s (60 + u.val) = true → s.uart[u].cur = some c →
      ∃ t, exec (.uartTxChar u) s = .next t ∧ t = { s with uart := t.uart } ∧ (∀ j, j ≠ u → t.uart[j] = s.uart[j]) ∧
        t.uart[u].sent = s.uart[u].sent ++ [[false] ++ uartData s.uart[u].ctrl c ++ (uartParity s.uart[u].ctrl c).toList ++
          List.replicate (if bit s.uart[u].ctrl 4 then 2 else 1) true] ∧
        t.uart[u].cur.toList ++ t.uart[u].tx = s.uart[u].tx ∧ t.uart[u].rx = s.uart[u].rx) ∧
    (∀ (u : Fin 2) (asserted : Bool), ∃ t, exec (.cts u asserted) s = .next t ∧ t = { s with uart := t.uart } ∧
      (∀ j, j ≠ u → t.uart[j] = s.uart[j]) ∧ t.uart[u] = { s.uart[u] with cts := asserted, cur := t.uart[u].cur, tx := t.uart[u].tx } ∧
      t.uart[u].cur.toList ++ t.uart[u].tx = s.uart[u].cur.toList ++ s.uart[u].tx ∧
      (bit s.uart[u].ctrl 28 = true → (asserted = false ∨ ctsPin s u = false) → t.uart[u].cur = s.uart[u].cur) ∧
      (portUp s (60 + u.val) = true → bit s.uart[u].ctrl 31 = true → bit s.uart[u].ctrl 30 = true →
        (bit s.uart[u].ctrl 28 = true → asserted = true ∧ ctsPin s u = true) →
        s.uart[u].cur = none → t.uart[u].cur = s.uart[u].tx.head?)) ∧
    (∀ m (i : Fin 2) data, reaches m (.i2c i) (0x40440004 + 0x1000 * i.val) (data ||| 0x80000000) s = true →
      let q := s.i2c[i]
      let cmd := (data ||| 0x80000000) &&& 0xE07F00FF
      let n := if bit cmd 30 then 0 else i2cLen { q with cmd := cmd }
      ∃ t, exec (.go m i data) s = .next t ∧ t = okay m 0 { served m (.i2c i) s with i2c := t.i2c } ∧ (∀ j, j ≠ i → t.i2c[j] = s.i2c[j]) ∧
        ((bit q.ctrl 31 = false ∨ q.busy = true) → t.i2c[i] = q) ∧
        (bit q.ctrl 31 = true → q.busy = false → t.i2c[i] = { q with
          cmd := cmd, busy := true, held := false, more := [], out := q.tx.take n, tx := q.tx.drop n
          wire := (if q.held then q.wire ++ [.restart] else [.start]) ++ [.octet (BitVec.ofNat 8 (2 * fld data 22 16 + fld data 30 30))] })) ∧
    (∀ (i : Fin 2) (r : I2cEnd) (rx : List Byte), portUp s (62 + i.val) = true → s.i2c[i].busy = true → s.i2c[i].more = [] →
      (bit s.i2c[i].cmd 30 = true ∨ r ≠ .ok ∨ i2cLen s.i2c[i] ≤ s.i2c[i].out.length) →
      let q := s.i2c[i]
      ∃ t, exec (.i2cDone i r rx) s = .next t ∧ t = { s with i2c := t.i2c } ∧ (∀ j, j ≠ i → t.i2c[j] = s.i2c[j]) ∧ t.i2c[i].code = i2cCode r ∧
        (bit q.cmd 30 = false → t.i2c[i].busy = false ∧ t.i2c[i].done = true ∧ t.i2c[i].rx = q.rx ∧ t.i2c[i].held = (r = .ok && bit q.cmd 29) ∧
          t.i2c[i].wire = q.wire ++ (if r = .ok then q.out.map .octet else []) ++
            (if (r = .ok && bit q.cmd 29) || r = .arbLost then [] else [.stop]) ∧
          (r = .ok → t.i2c[i].tx = q.tx) ∧ (r ≠ .ok → t.i2c[i].tx = [])) ∧
        (bit q.cmd 30 = true → t.i2c[i].rx = q.rx ++ (rx.take (i2cLen q)).take (8 - q.rx.length) ∧ t.i2c[i].tx = q.tx ∧
          t.i2c[i].more = (rx.take (i2cLen q)).drop (8 - q.rx.length) ∧ t.i2c[i].busy = !t.i2c[i].more.isEmpty ∧
          (t.i2c[i].more = [] → t.i2c[i].done = true))) ∧
    (∀ i : Fin 2, portUp s (62 + i.val) = true → s.i2c[i].busy = true →
      ∃ t, exec (.i2cTimeout i) s = .next t ∧ t = { s with i2c := t.i2c } ∧ (∀ j, j ≠ i → t.i2c[j] = s.i2c[j]) ∧
        t.i2c[i].busy = false ∧ t.i2c[i].done = true ∧ t.i2c[i].code = 4 ∧ t.i2c[i].rx = s.i2c[i].rx) ∧
    (∀ m (i : Fin 2) data, reaches m (.i2c i) (0x40440008 + 0x1000 * i.val) data s = true →
      let q := s.i2c[i]
      let n := if q.busy && !bit q.cmd 30 then i2cLen q - q.out.length else 0
      ∃ t, exec (.i2cDataAccess m i (some data)) s = .next t ∧ t = okay m 0 { served m (.i2c i) s with i2c := t.i2c } ∧ (∀ j, j ≠ i → t.i2c[j] = s.i2c[j]) ∧
        (8 ≤ q.tx.length → t.i2c[i] = q) ∧
        (q.tx.length < 8 → t.i2c[i] = { q with
          out := q.out ++ (q.tx ++ [data.setWidth 8]).take n, tx := (q.tx ++ [data.setWidth 8]).drop n })) ∧
    (∀ m (i : Fin 2), readReaches m (.i2c i) (0x40440008 + 0x1000 * i.val) s = true →
      ∀ b l, s.i2c[i].rx = b :: l → ∃ t, exec (.i2cDataAccess m i none) s = .next t ∧ t = okay m (b.setWidth 32) { served m (.i2c i) s with i2c := t.i2c } ∧
        (∀ j, j ≠ i → t.i2c[j] = s.i2c[j]) ∧ (s.i2c[i].more = [] → t.i2c[i] = { s.i2c[i] with rx := l }) ∧
        t.i2c[i].rx = l ++ s.i2c[i].more.take (8 - l.length) ∧ t.i2c[i].more = s.i2c[i].more.drop (8 - l.length))

/-- The synthesizers through their states. A loss of lock or of reference of a LOCKED synthesizer starts a coast at once, with its event and count, and a loss of the
SYSPLL's reference also XTAL_FAIL, with XLF_FAIL where XLF is not OK either (R289, R293, R314); the other loss of that cycle is noted beside it (R311). In any other state, save a
coast through a reference switch, a loss does nothing. XTAL_OK starts the SYSPLL's band search (R296), whose end shows the band and acquires (R291); LOCK and REACQUIRE give LOCKED, with
SYS_RELOCK from a coast (R292, R294), and with the SYSPLL locked the core buck runs from CLK_PER over 12 (R427); an RFPLL that did not relock searches again
(R294); a SYSPLL start that did not lock ends in FAILED (R296). -/
def Obligations.SynthesizerEvents : Prop :=
  ∀ (s : State),
    (s.clk.sys.st = .locked → ∃ t, exec (.lossOfLock .sys) s = .next t ∧
      t = { s with
        clk := { s.clk with
          sys := { s.clk.sys with st := .coast, coastCyc := 0, lol := true, lor := false }, cntSysLol := satInc s.clk.cntSysLol 255, evt := t.clk.evt }
        lpe := { s.lpe with coastSeen := true } } ∧ bit t.clk.evt 0 = true ∧ (slkActive s = true → bit t.clk.evt 9 = true) ∧
      bit t.clk.evt 1 = bit s.clk.evt 1) ∧
    (s.clk.sys.st = .locked → ∃ t, exec (.lossOfReference .sys) s = .next t ∧
      t = { s with
        clk := { s.clk with
          sys := { s.clk.sys with st := .coast, coastCyc := 0, lol := false, lor := true }, cntSysLor := satInc s.clk.cntSysLor 255
          xtalOk := false, evt := t.clk.evt }
        lpe := { s.lpe with coastSeen := true } } ∧ bit t.clk.evt 1 = true ∧ bit t.clk.evt 5 = true ∧
      (s.clk.xlfOk = false → bit t.clk.evt 6 = true) ∧ (slkActive s = true → bit t.clk.evt 9 = true) ∧ bit t.clk.evt 0 = bit s.clk.evt 0) ∧
    (s.clk.sys.st = .coast → s.clk.sys.switching = true ∨ s.clk.sys.coastCyc = 0 →
      (s.clk.sys.lol = false → exec (.lossOfLock .sys) s = .next { s with clk := { s.clk with
        sys := { s.clk.sys with lol := true }, cntSysLol := satInc s.clk.cntSysLol 255, evt := withBit s.clk.evt 0 true } }) ∧
      (s.clk.sys.lor = false → ∃ t, exec (.lossOfReference .sys) s = .next t ∧ t = { s with clk := { s.clk with
          sys := { s.clk.sys with lor := true }, cntSysLor := satInc s.clk.cntSysLor 255, xtalOk := false, evt := t.clk.evt } } ∧
        bit t.clk.evt 1 = true ∧ bit t.clk.evt 5 = true)) ∧
    (∀ x, pllSt s x ≠ .locked → pllSt s x ≠ .coast ∨ ((pllOf s x).switching = false ∧ (pllOf s x).coastCyc ≠ 0) →
      exec (.lossOfLock x) s = .next s ∧ exec (.lossOfReference x) s = .next s) ∧
    (s.clk.rf.st = .locked → (∀ x, s.trx.tx = some x → x.stage ≠ .onAir) →
      (∃ t, exec (.lossOfLock .rf) s = .next t ∧ t = { s with
          trx := t.trx
          clk := { s.clk with
            rf := { s.clk.rf with st := .coast, coastCyc := 0, lol := true, lor := false }, cntRfLol := satInc s.clk.cntRfLol 255
            evt := withBit s.clk.evt 3 true } } ∧
        t.trx = (if s.trx.rxOn then { s.trx with rxOn := false, cntCrc := satInc s.trx.cntCrc 65535, evt := withBit s.trx.evt 4 true } else s.trx)) ∧
      ∃ t, exec (.lossOfReference .rf) s = .next t ∧ t = { s with
          trx := t.trx
          clk := { s.clk with
            rf := { s.clk.rf with st := .coast, coastCyc := 0, lol := false, lor := true }, cntRfLor := satInc s.clk.cntRfLor 255
            evt := withBit s.clk.evt 4 true } } ∧
        t.trx = (if s.trx.rxOn then { s.trx with rxOn := false, cntCrc := satInc s.trx.cntCrc 65535, evt := withBit s.trx.evt 4 true } else s.trx)) ∧
    (s.clk.xtalOn = true → s.clk.xtalOk = false → exec .xtalOk s = .next { s with clk := { s.clk with
      xtalOk := true, sys := if s.clk.sys.st = .off ∧ ¬(s.pwr.state = .slumber ∧ s.pwr.move = .none) then { s.clk.sys with st := .search } else s.clk.sys } }) ∧
    (s.clk.xtalOk = true → ∃ t, exec .xtalFail s = .next t ∧ t = { s with clk := { s.clk with xtalOk := false, evt := t.clk.evt } } ∧
      bit t.clk.evt 5 = true ∧ bit t.clk.evt 6 = (bit s.clk.evt 6 || !s.clk.xlfOk)) ∧
    (∀ band : BitVec 6,
      (s.clk.sys.st = .search → exec (.bandSearchEnd .sys band) s = .next { s with clk := { s.clk with
        sys := { s.clk.sys with st := .acquire, band := band.toNat % 32 } } }) ∧
      (s.clk.rf.st = .search → exec (.bandSearchEnd .rf band) s = .next { s with clk := { s.clk with
        rf := { s.clk.rf with st := .acquire, band := band.toNat } } })) ∧
    (s.clk.sys.st = .acquire → exec (.lock .sys) s = .next { s with
      clk := { s.clk with sys := { s.clk.sys with st := .locked } }, sup := { s.sup with buck := .per12 } }) ∧
    (s.clk.sys.st = .coast → exec (.reacquire .sys) s = .next { s with clk := { s.clk with
      sys := { s.clk.sys with st := .locked, coastCyc := 0, switching := false }, evt := withBit s.clk.evt 2 true } }) ∧
    (s.clk.want = none →
      (s.clk.rf.st = .acquire → exec (.lock .rf) s = .next { s with
        clk := { s.clk with rf := { s.clk.rf with st := .locked, coastCyc := 0 } }
        sup := if s.clk.sys.st = .locked then { s.sup with buck := .per12 } else s.sup }) ∧
      (s.clk.rf.st = .coast → exec (.reacquire .rf) s = .next { s with clk := { s.clk with rf := { s.clk.rf with st := .locked, coastCyc := 0 } } })) ∧
    (s.clk.rf.st = .coast → exec .rfpllResearch s = .next { s with clk := { s.clk with rf := { s.clk.rf with st := .search } } }) ∧
    (s.clk.sys.st = .search ∨ s.clk.sys.st = .acquire →
      exec .syspllFailed s = .next { s with clk := { s.clk with sys := { s.clk.sys with st := .failed } } })

/-- Clock commands and the sleep clock. A change of REFSEL in LOCKED coasts through the switch without an event of its own or a count; in any other state it is refused (R297). BYPASS is accepted
only while the SYSPLL is FAILED, and takes every gate driver low (R304). CLK_CNT_CLR clears the counts (R316). XLF_OK and XLF_FAIL move LTICK, and in SLUMBER note the instant (R305,
R306, R311); an XTAL that ran in SLUMBER for want of XLF is then turned off, unless it is kept, a sniff runs or an exit does (R289). A measurement gives
its error and updates only the entries of its pair, but for an unlearned table, which takes it whole (R307, R309). The crystal load moves one step toward CLOAD, 1 ms after the
step before it (R431); with no XTAL its start is tried anew (R401). -/
def Obligations.ClockCommands : Prop :=
  ∀ (s : State) (m : Mid),
    (∀ data, reaches m .sys 0x40000020 data s = true →
      (fld (data &&& 0x00033300) 17 16 = 3 ∨ (fld (data &&& 0x00033300) 17 16 ≠ fld s.clk.sys.cfg 17 16 ∧ s.clk.sys.st ≠ .locked) →
        exec (.referenceSwitch m data) s = .next (respond (served m .sys s) m (BitVec.ofNat 32 0x40000020) .write .slverr 0)) ∧
      (fld (data &&& 0x00033300) 17 16 ≠ 3 → fld (data &&& 0x00033300) 17 16 ≠ fld s.clk.sys.cfg 17 16 → s.clk.sys.st = .locked →
        ∃ t, exec (.referenceSwitch m data) s = .next t ∧ t = okay m 0 { served m .sys s with
          lpe := { s.lpe with coastSeen := true }
          clk := { s.clk with evt := t.clk.evt, sys := { s.clk.sys with
            cfg := data &&& 0x00033300, path := fld (data &&& 0x00033300) 17 16, st := .coast, coastCyc := 0, switching := true
            lol := false, lor := false } } } ∧
        bit t.clk.evt 0 = bit s.clk.evt 0 ∧ bit t.clk.evt 1 = bit s.clk.evt 1)) ∧
    (reaches m .sys 0x4000000C 0x80000000 s = true → s.clk.bypass = false →
      (s.clk.sys.st ≠ .failed → exec (.bypass m) s = .next (respond (served m .sys s) m (BitVec.ofNat 32 0x4000000C) .write .slverr 0)) ∧
      (s.clk.sys.st = .failed → ∃ t, exec (.bypass m) s = .next t ∧ t = okay m 0 { served m .sys s with
        clk := { s.clk with bypass := true, fast := false }, stl := t.stl, lpe := { s.lpe with pwmBase := 0 } } ∧
        ∀ n : Fin 32, t.stl[n] = { s.stl[n] with gate := false })) ∧
    (reaches m .sys 0x4000004C 1 s = true → exec (.clkCntClr m) s = .next (okay m 0 { served m .sys s with clk := { s.clk with
      cntSysLol := 0, cntSysLor := 0, cntRfLol := 0, cntRfLor := 0 } })) ∧
    (s.clk.xlfOk = false → s.pwr.state ≠ .slumber →
      exec .xlfOk s = .next { s with clk := { s.clk with xlfOk := true, ltXlf := true, evt := withBit s.clk.evt 7 true } }) ∧
    (s.clk.xlfOk = false → s.pwr.state = .slumber → ∃ t, exec .xlfOk s = .next t ∧ t = { s with clk := t.clk, pwr := { s.pwr with sleep := t.pwr.sleep } } ∧
      t.clk = { s.clk with xlfOk := true, ltXlf := true, xtalOn := t.clk.xtalOn, xtalOk := t.clk.xtalOk, evt := withBit s.clk.evt 7 true } ∧
      (bit s.clk.xtalCfg 30 = false → s.clk.rfPower = false → s.pwr.move = .none → t.clk.xtalOn = false ∧ t.clk.xtalOk = false) ∧
      (bit s.clk.xtalCfg 30 = true ∨ s.clk.rfPower = true ∨ s.pwr.move ≠ .none → t.clk.xtalOn = s.clk.xtalOn ∧ t.clk.xtalOk = s.clk.xtalOk) ∧
      ∀ p, s.pwr.sleep = some p → t.pwr.sleep = some { p with moves := p.moves ++ [(s.pwr.ltime, true)] }) ∧
    (s.clk.xlfOk = true → ∃ t, exec .xlfFail s = .next t ∧ t = { s with
        clk := { s.clk with xlfOk := false, ltXlf := false, xtalOn := true, evt := t.clk.evt }, pwr := { s.pwr with sleep := t.pwr.sleep } } ∧
      bit t.clk.evt 6 = true ∧ (slkActive s = true → bit t.clk.evt 9 = true) ∧
      (s.pwr.state = .slumber → ∀ p, s.pwr.sleep = some p → t.pwr.sleep = some { p with moves := p.moves ++ [(s.pwr.ltime, false)] }) ∧
      (s.pwr.state ≠ .slumber → t.pwr.sleep = s.pwr.sleep)) ∧
    (∀ c : Nat, slkActive s = true → c ≠ 0 →
      let e := rhaDiv (((18750 * slkM s.clk.slkCfg : Nat) - (c : Int)) * 100000000) c
      ∃ t, exec (.sleepClockMeasurement c) s = .next t ∧ t = { s with clk := { s.clk with
          slkValid := true, slkLast := BitVec.ofInt 24 (satS 24 e), slkT := s.sns.tempData, slk := t.clk.slk, evt := withBit s.clk.evt 8 true } } ∧
        ((∃ j : Fin 16, s.clk.slk[j].upd ≠ 0) → ∀ j : Fin 16, j.val ≠ slkPos s.sns.tempData.toInt / 704 → j.val ≠ slkPos s.sns.tempData.toInt / 704 + 1 →
          t.clk.slk[j] = s.clk.slk[j]) ∧
        ((∀ j : Fin 16, s.clk.slk[j].upd = 0) → ∀ j : Fin 16, t.clk.slk[j].e = BitVec.ofInt 24 (satS 24 e)) ∧
        (∀ j : Fin 16, j.val = slkPos s.sns.tempData.toInt / 704 → s.clk.slk[j].upd ≠ 0 → t.clk.slk[j].e = BitVec.ofInt 24 (satS 24
          (s.clk.slk[j].e.toInt + rhaDiv ((e - slkPred s.clk.slk s.sns.tempData.toInt) * ((704 - slkPos s.sns.tempData.toInt % 704 : Nat) : Int))
            (704 * 2 ^ fld s.clk.slkCfg 26 24))) ∧ t.clk.slk[j].upd = min (s.clk.slk[j].upd + 1) 255)) ∧
    (s.clk.cloadDue ≠ 0 → exec .cloadStep s = .next s) ∧
    (s.clk.cloadDue = 0 → ∃ t, exec .cloadStep s = .next t ∧ t = { s with clk := { s.clk with cload := t.clk.cload, cloadDue := t.clk.cloadDue } } ∧
      (s.clk.cload = fld s.clk.xtalCfg 5 0 → t.clk.cload = s.clk.cload ∧ t.clk.cloadDue = 0) ∧
      (s.clk.cload < fld s.clk.xtalCfg 5 0 → t.clk.cload = s.clk.cload + 1 ∧ t.clk.cloadDue = 153600) ∧
      (fld s.clk.xtalCfg 5 0 < s.clk.cload → t.clk.cload + 1 = s.clk.cload ∧ t.clk.cloadDue = 153600)) ∧
    (s.boot.inReset = false → s.boot.started = false → s.clk.xtalOk = false →
      exec .xtalStartRetry s = .next { s with clk := { s.clk with xtalOn := true } })

/-- Requests for a power state. A write of PWR_REQ by another master than 0 and 2, or while BUSY, is refused whatever it asks (R322). RUN-FAST biases first, if the die is cooler than
110 °C, and FORWARD_BIAS_SETTLED changes the divisor, or drops at once at 115 °C (R331, R338); RUN leaves RUN-FAST at once, leaves NAP with source
GROOMREQ, or disarms (R322, R331). DOZE, NAP and SLUMBER arm, SLUMBER only with an enabled source that wakes from it (R322). The counts clear
(R341). -/
def Obligations.PowerRequests : Prop :=
  ∀ (s : State) (m : Mid),
    (((m ≠ .hostS ∧ m ≠ .groom) ∨ s.pwr.move ≠ .none) →
      ∀ x ∈ ([(.pwrReqRunFast m, 1), (.pwrReqRun m, 0), (.pwrReqDoze m, 2), (.pwrReqNap m, 3), (.pwrReqSlumber m false, 4),
        (.pwrReqSlumber m true, 0x104)] : List (Instr × W32)),
        reaches m .pwr 0x40004004 x.2 s = true →
        exec x.1 s = .next (respond (served m .pwr s) m (BitVec.ofNat 32 0x40004004) .write .slverr 0)) ∧
    (reaches .hostS .pwr 0x40004004 1 s = true → s.pwr.move = .none → s.pwr.armed = none → s.pwr.state = .run →
      (s.sns.tempData.toInt < 7040 → exec (.pwrReqRunFast .hostS) s = .next (okay .hostS 0 { served .hostS .pwr s with pwr := { s.pwr with move := .biasing, req := 1 } })) ∧
      (7040 ≤ s.sns.tempData.toInt → exec (.pwrReqRunFast .hostS) s = .next (respond (served .hostS .pwr s) .hostS (BitVec.ofNat 32 0x40004004) .write .slverr 0))) ∧
    (s.pwr.move = .biasing →
      (s.sns.temp.toInt < 7360 → exec .forwardBiasSettled s = .next { s with
        pwr := { s.pwr with move := .none, state := .runFast }, clk := { s.clk with fast := !s.clk.bypass } }) ∧
      (7360 ≤ s.sns.temp.toInt → exec .forwardBiasSettled s = .next { s with
        pwr := { s.pwr with move := .none, state := .run, evt := withBit s.pwr.evt 4 true }, clk := { s.clk with fast := false } })) ∧
    (reaches .hostS .pwr 0x40004004 0 s = true → s.pwr.move = .none → s.pwr.armed = none → s.pwr.state = .runFast →
      exec (.pwrReqRun .hostS) s = .next (okay .hostS 0 { served .hostS .pwr s with pwr := { s.pwr with state := .run, req := 0 }, clk := { s.clk with fast := false } })) ∧
    (reaches .groom .pwr 0x40004004 0 s = true → s.pwr.move = .none → s.pwr.armed = none → s.pwr.state = .nap →
      exec (.pwrReqRun .groom) s = .next (okay .groom 0 { served .groom .pwr s with pwr := { s.pwr with
        move := .exiting .run, req := 0, lastWake := 0x80000308, lastT := s.pwr.ltime } })) ∧
    (∀ t, reaches m .pwr 0x40004004 0 s = true → m = .hostS ∨ m = .groom → s.pwr.move = .none → s.pwr.armed = some (t, m) →
      exec (.pwrReqRun m) s = .next (okay m 0 { served m .pwr s with pwr := { s.pwr with armed := none, req := 0 } })) ∧
    (s.pwr.move = .none → s.pwr.armed = none → s.pwr.state = .run ∨ s.pwr.state = .runFast →
      (reaches .hostS .pwr 0x40004004 2 s = true →
        exec (.pwrReqDoze .hostS) s = .next (okay .hostS 0 { served .hostS .pwr s with pwr := { s.pwr with armed := some (.doze, .hostS), req := 2, exitNap := false } })) ∧
      (reaches .hostS .pwr 0x40004004 3 s = true →
        exec (.pwrReqNap .hostS) s = .next (okay .hostS 0 { served .hostS .pwr s with pwr := { s.pwr with armed := some (.nap, .hostS), req := 3, exitNap := false } }))) ∧
    (∀ e, reaches m .pwr 0x40004004 (put 4 0 ||| putB e 8) s = true → s.pwr.move = .none → s.pwr.armed = none →
      (m = .hostS ∧ (s.pwr.state = .run ∨ s.pwr.state = .runFast)) ∨ (m = .groom ∧ s.pwr.state = .nap) →
      (slumberWakes s.pwr = true → exec (.pwrReqSlumber m e) s = .next (okay m 0 { served m .pwr s with pwr := { s.pwr with
        armed := some (.slumber, m), req := put 4 0 ||| putB e 8, exitNap := e } })) ∧
      (slumberWakes s.pwr = false →
        exec (.pwrReqSlumber m e) s = .next (respond (served m .pwr s) m (BitVec.ofNat 32 0x40004004) .write .slverr 0))) ∧
    (reaches m .pwr 0x40004030 1 s = true →
      exec (.pwrCntClr m) s = .next (okay m 0 { served m .pwr s with pwr := { s.pwr with refCnt := 0, abortCnt := 0 } }))

/-- The request instant. With no refuser DOZE is entered at once, with CLK_CORE's divisor at 4 (R286, R330), and the entry to NAP or SLUMBER starts, SLUMBER with every pad latched and
the transmissions of the ports cut off (R325, R328, R335). A refuser that holds refuses
the entry: no state changes, the request is disarmed, the refusal is counted and PRIMARY is the lowest code; an enabled stall refuses SLUMBER as
code 1 (R323, R324). -/
def Obligations.RequestInstant : Prop :=
  ∀ (s : State) (a : Mid),
    (s.pwr.armed = some (.doze, a) → refWake s .doze = none →
      exec .requestInstant s = .next { s with pwr := { s.pwr with armed := none, state := .doze, dozeFrom := s.pwr.state }, clk := { s.clk with fast := false } }) ∧
    (s.pwr.armed = some (.nap, a) → s.bist.run = none → refFlash s = none → refWake s .nap = none →
      exec .requestInstant s = .next { s with pwr := { s.pwr with armed := none, move := .entering .nap s.pwr.state } }) ∧
    (s.pwr.armed = some (.slumber, a) → s.bist.run = none → refusers s .slumber = [] →
      ∃ t, exec .requestInstant s = .next t ∧
        t = { s with
          pwr := t.pwr, pio := t.pio, dli := t.dli, uart := t.uart, i2c := t.i2c, free := t.free
          zlk := { s.zlk with sent := if zlkDe s then [] else s.zlk.sent } } ∧
        t.pwr = { s.pwr with armed := none, move := .entering .slumber s.pwr.state, faultHeld := some (faultLow s) } ∧ t.pio.hold = 7 ∧
        (∀ u : Fin 2, t.uart[u] = { s.uart[u] with cur := none }) ∧
        ∀ i : Fin 2, t.i2c[i] = { s.i2c[i] with busy := false, held := false, out := [], more := [] }) ∧
    (∀ (tt : PwrState) (c k i : Nat) (l : List Refuser), s.pwr.armed = some (tt, a) → s.bist.run = none → refusers s tt = (c, k, i) :: l →
      ∃ t, exec .requestInstant s = .next t ∧ t = { s with pwr := { s.pwr with
          armed := none, refCnt := satInc s.pwr.refCnt 65535, evt := withBit s.pwr.evt 0 true, refuser := t.pwr.refuser, detail := put i 8 ||| put k 0 } } ∧
        fld t.pwr.refuser 3 0 = c ∧ ∀ x ∈ (c, k, i) :: l, bit t.pwr.refuser (15 + x.1) = true) ∧
    (∀ n : Fin 32, s.pwr.armed = some (.slumber, a) → s.bist.run = none → s.stl[n].en = true → pdkUnusable s (pdkOf n) = false →
      ∃ t, exec .requestInstant s = .next t ∧ t = { s with pwr := t.pwr } ∧ t.pwr.state = s.pwr.state ∧ t.pwr.move = s.pwr.move ∧ t.pwr.armed = none ∧
        fld t.pwr.refuser 3 0 = 1 ∧ fld t.pwr.detail 3 0 = 1) ∧
    (∀ r, s.bist.run = some r → r.result ≠ some 2 → s.pwr.armed = some (.nap, a) ∨ s.pwr.armed = some (.slumber, a) →
      exec .requestInstant s = exec .requestInstant { s with bist := { s.bist with run := none, result := 5, slice := r.cur, evt := withBit s.bist.evt 0 true } })

/-- Entering and leaving NAP and SLUMBER. The last step of an entry takes HOST and FLASH off and reads the new state, with BUSY over; a bank whose PWR_SRAM_RET bit is set keeps its
contents (R326, R328); SLUMBER also takes the groom core, the paddocks, the converters, the SYSPLL and the RFPLL down, captures the time, disarms the gallery and lowers VCORE (R321, R328, R427). Leaving NAP, and SLUMBER once
the clocks are back, starts the cores at their vectors with WOKE, the host with its integer registers zero; an isolated domain is left out (R327, R329, R338). -/
def Obligations.EntryAndExit : Prop :=
  ∀ (s : State) (prior target : PwrState),
    (s.pwr.move = .entering .nap prior → ∃ t, exec .entryComplete s = .next t ∧
      t = { s with pwr := t.pwr, clk := { s.clk with fast := false }, mem := t.mem } ∧ t.pwr.state = .nap ∧ t.pwr.move = .none ∧
      t.pwr.hostOn = false ∧ t.pwr.groomOn = s.pwr.groomOn ∧ domReady t .host = false ∧ domReady t .flash = false ∧
      domReady t .groom = domReady s .groom ∧ domReady t .sense = domReady s .sense ∧
      ((∀ k : Fin 8, k.val < 7 → bit s.pwr.sramRet k.val = true) → t.mem = s.mem) ∧
      (∀ k : Fin 8, k.val < 7 → domReady t (.sram k) = false)) ∧
    (s.pwr.move = .entering .slumber prior → zlkOn s = false → ∃ t, exec .entryComplete s = .next t ∧
      t.pwr.state = .slumber ∧ t.pwr.move = .none ∧ t.pwr.hostOn = false ∧ t.pwr.groomOn = false ∧
      t.pwr.sleep = some { trx := s.trx.time, zone := (zoneNow s).toNat, ltime := s.pwr.ltime, pred := slkPred s.clk.slk s.sns.temp.toInt,
                            moves := [(s.pwr.ltime, s.clk.ltXlf)], back := s.pwr.ltime } ∧
      t.clk.sys.st = (if s.clk.sys.st = .failed then .failed else .off) ∧ t.clk.rf.st = .off ∧ t.clk.fast = false ∧ t.sup = { s.sup with vcore := 700 } ∧
      bit t.gal.ctrl 31 = false ∧ domReady t .yard = false ∧ domReady t .groom = false ∧ domReady t .sense = false ∧ domReady t .radio = false ∧
      domReady t .crypto = false ∧ (∀ p, domReady t (.paddock p) = false) ∧
      (∀ u : Fin 2, t.uart[u].rx = [] ∧ t.uart[u].tx = []) ∧
      ((∀ x, s.trx.tx = some x → x.stage ≠ .onAir) → t.rgy = s.rgy) ∧
      t.stl = s.stl ∧ t.cfg = s.cfg ∧ t.boot = s.boot ∧ t.zlk = s.zlk ∧ t.act = s.act ∧ t.irq = s.irq) ∧
    (s.pwr.move = .exiting target → s.pwr.state = .nap → ∃ t, exec .exitComplete s = .next t ∧ t = { s with pwr := t.pwr } ∧
      t.pwr.state = .run ∧ t.pwr.move = .none ∧ t.pwr.groomOn = s.pwr.groomOn ∧
      (domIsolated s .host = false → t.pwr.hostOn = true ∧ t.pwr.hostPc = s.pwr.hostVec ∧ t.pwr.hostSp = 0 ∧ t.pwr.hostA0 = 0 ∧ domReady t .host = true) ∧
      (domIsolated s .host = true → t.pwr.hostOn = s.pwr.hostOn ∧ domReady t .host = domReady s .host) ∧
      bit t.pwr.evt 2 = true ∧ (domIsolated s .flash = false → domReady t .flash = true) ∧
      t.pwr.lastWake = s.pwr.lastWake) ∧
    (s.pwr.move = .exiting target → s.pwr.state = .slumber → clocksBack s = true → s.trx.heldRx = none → bit s.zlk.ctrl 31 = false →
      ∃ t, exec .exitComplete s = .next t ∧ t.pwr.state = target ∧ t.pwr.move = .none ∧
        (domIsolated s .groom = false → t.pwr.groomOn = true ∧ t.pwr.groomPc = s.pwr.groomVec ∧ domReady t .groom = true) ∧
        (domIsolated s .groom = true → t.pwr.groomOn = s.pwr.groomOn) ∧
        bit t.pwr.evt 2 = true ∧ domReady t .yard = true ∧ t.pwr.faultHeld = none ∧ t.lpe.pwmBase = 0 ∧ t.sup = { s.sup with vcore := 900 } ∧
        (target = .run → domIsolated s .host = false → t.pwr.hostOn = true ∧ t.pwr.hostPc = s.pwr.hostVec ∧ t.pwr.hostSp = 0 ∧ t.pwr.hostA0 = 0) ∧
        (target ≠ .run → t.pwr.hostOn = s.pwr.hostOn) ∧ (∀ p, s.pwr.sleep = some p → t.pwr.sleep = some { p with back := s.pwr.ltime }) ∧
        t.trx.time = s.trx.time ∧ t.mem = s.mem ∧ t.stl = s.stl ∧ t.cfg = s.cfg ∧ t.boot = s.boot ∧ t.cry = s.cry ∧ t.zlk = s.zlk) ∧
    (s.pwr.move = .exiting target → s.pwr.state = .slumber → clocksBack s = false → exec .exitComplete s = .next s)

/-- Wake events. A shown event sets its bit in PWR_WAKE_PEND whether or not it wakes (R332). One that wakes from the present state starts the exit, or ends DOZE at once, with source and prior state in
PWR_LASTWAKE (R327, R329, R330); one of a source enabled in the target state aborts an entry, which is counted, and releases the
latches (R325). TIMER is such an event when PWR_LTIME equals PWR_TIMER_CMP. -/
def Obligations.WakeEvents : Prop :=
  ∀ (s : State),
    (∀ src, wakeShown s src = true → ∃ t, exec (.wakeEvent src) s = .next t ∧ t = { s with pwr := t.pwr, pio := t.pio, clk := t.clk } ∧
      bit t.pwr.wakePend (wakeCode src) = true ∧
      (s.pwr.move = .none → wakes s.pwr src s.pwr.state = false →
        t = { s with pwr := { s.pwr with wakePend := withBit s.pwr.wakePend (wakeCode src) true } }) ∧
      (s.pwr.move = .none → wakes s.pwr src .doze = true → s.pwr.state = .doze → t.pwr.state = s.pwr.dozeFrom ∧ t.pwr.move = .none ∧
        t.pwr.lastWake = put 1 31 ||| put 2 8 ||| put (wakeCode src) 0 ∧ t.pwr.lastT = s.pwr.ltime) ∧
      (s.pwr.move = .none → wakes s.pwr src .nap = true → s.pwr.state = .nap → t.pwr.state = .nap ∧ t.pwr.move = .exiting .run ∧
        t.pwr.lastWake = put 1 31 ||| put 3 8 ||| put (wakeCode src) 0) ∧
      (s.pwr.move = .none → wakes s.pwr src .slumber = true → s.pwr.state = .slumber → t.pwr.state = .slumber ∧
        t.pwr.move = .exiting (if s.pwr.exitNap then .nap else .run) ∧ t.pwr.tadj = true ∧ t.clk.xtalOn = true ∧
        t.pwr.lastWake = put 1 31 ||| put 4 8 ||| put (wakeCode src) 0) ∧
      (∀ target prior, s.pwr.move = .entering target prior → wakes s.pwr src target = true →
        t.pwr.move = .none ∧ t.pwr.state = s.pwr.state ∧ t.pwr.abortCnt = satInc s.pwr.abortCnt 65535 ∧ bit t.pwr.evt 1 = true ∧
        t.pio.hold = 0 ∧ t.pwr.faultHeld = none ∧
        t.pwr.lastWake = put 1 31 ||| put 1 30 ||| put (pwrNum prior) 8 ||| put (wakeCode src) 0)) ∧
    (s.pwr.ltime = s.pwr.timerCmp → exec .timer s = exec (.wakeEvent .timer) s ∧ ∃ t, exec .timer s = .next t ∧ bit t.pwr.wakePend 1 = true) ∧
    (s.pwr.ltime ≠ s.pwr.timerCmp → exec .timer s = .next s)

/-- Domains. PWR_DOM_ON powers them on and off, but is refused as a whole if it would clear the bit of a paddock that is not parked off (R319). DEMAND makes
a demanded domain ready, sets its bit and PWR_EVT.DEMAND, and what waits goes on (R320). DOM_FAIL leaves a demanded one off, with its bit in PWR_DOM_FAIL and PWR_EVT.DOM_FAIL, and
what waits for it completes SLVERR; a vital one in an exit sequence resets the device with cause PWR (R339). LOFT_SNIFF in SLUMBER starts XTAL and powers RADIO (R334). -/
def Obligations.PowerDomains : Prop :=
  ∀ (s : State),
    (∀ m data (p : Fin 8), reaches m .pwr 0x40004040 data s = true → domIsolated s (.paddock p) = false → bit s.pwr.domOn (16 + p.val) = true →
      bit data (16 + p.val) = false → parkedOff s p = false →
      exec (.pwrDomOn m data) s = .next (respond (served m .pwr s) m (BitVec.ofNat 32 0x40004040) .write .slverr 0)) ∧
    (∀ m data, reaches m .pwr 0x40004040 data s = true → (∀ d ∈ maskDomains, bit data (domBit d) = bit s.pwr.domOn (domBit d)) →
      exec (.pwrDomOn m data) s = .next (okay m 0 (served m .pwr s))) ∧
    (∀ m (k : Fin 8) (data : W32), domIsolated s (.sram k) = false → bit s.pwr.domOn (8 + k.val) = true → domReady s (.sram k) = true →
      data = withBit s.pwr.domOn (8 + k.val) false → reaches m .pwr 0x40004040 data s = true →
      exec (.pwrDomOn m data) s = .next (okay m 0 { served m .pwr s with mem := s.mem.lose k, pwr := { s.pwr with
        domOn := data, ready := withBit s.pwr.ready (8 + k.val) false } })) ∧
    (∀ m (k : Fin 8) (data : W32), domIsolated s (.sram k) = false → bit s.pwr.domOn (8 + k.val) = true → domReady s (.sram k) = false →
      data = withBit s.pwr.domOn (8 + k.val) false → reaches m .pwr 0x40004040 data s = true →
      exec (.pwrDomOn m data) s = .next (okay m 0 { served m .pwr s with mem := s.mem.lose k, pwr := { s.pwr with domOn := data } })) ∧
    (∀ d, demanded s d = true → domIsolated s d = false →
      ∃ u, exec (.demand d) s = .next (settle u) ∧
        u = { s with pwr := u.pwr, sns := u.sns, clk := u.clk, trx := { s.trx with evt := u.trx.evt } } ∧ domReady u d = true ∧ bit u.pwr.evt 3 = true ∧
        (domBit d < 24 → bit u.pwr.domOn (domBit d) = true) ∧ bit u.pwr.waking (domBit d) = false ∧
        (∀ e, domBit e ≠ domBit d → domReady u e = domReady s e) ∧ (d ≠ .sense → u.sns = s.sns) ∧ (d ≠ .radio → u.clk = s.clk ∧ u.trx = s.trx)) ∧
    (∀ d, domIsolated s d = false → domReady s d = false → demanded s d = true → (∀ x, s.pwr.move ≠ .exiting x) →
      ∃ u, u = { s with pwr := { s.pwr with
          waking := withBit s.pwr.waking (domBit d) false, ready := withBit s.pwr.ready (domBit d) false, domOn := u.pwr.domOn
          domFail := withBit s.pwr.domFail (domBit d) true, evt := withBit s.pwr.evt 5 true } } ∧
        (domBit d < 24 → bit u.pwr.domOn (domBit d) = false) ∧
        exec (.domFail d) s = .next (settle ((byMid (s.yard.waiting.filter (waitsFor d))).foldl (fun u x => serveTxn (some (d, false)) x.tag u) u))) ∧
    (∀ (d : Domain) (x : Txn) (i : Nat), s.yard.waiting.findIdx? (fun y => y.tag = x.tag) = some i → s.yard.waiting.find? (fun y => y.tag = x.tag) = some x →
      x.cont = none → x.mid ≠ .spis → ∃ u, serveTxn (some (d, false)) x.tag s = u ∧ u = { s with yard := u.yard } ∧
        u.yard.waiting = s.yard.waiting.eraseIdx i ∧ u.yard.resp = { mid := x.mid, code := .slverr } ∧ u.yard.slverrCnt = satInc s.yard.slverrCnt 255) ∧
    (∀ d x, domIsolated s d = false → domReady s d = false → s.pwr.move = .exiting x → vitalDomain s d = true →
      ∃ t, exec (.domFail d) s = .next t ∧ t.boot.lastRst = 7 ∧ t.boot.inReset = true ∧ t.boot.otp = s.boot.otp ∧ bit t.pwr.domFail (domBit d) = true ∧
        t.pwr.state = .run) ∧
    (s.pwr.state = .slumber → s.pwr.move = .none → trxEn s = true → bit s.trx.ctrl 29 = true → unusable s 47 = false → loftDue s = true →
      ∃ t, exec .loftSniff s = .next t ∧ t = { s with pwr := t.pwr, clk := t.clk, trx := { s.trx with evt := t.trx.evt } } ∧ t.clk.xtalOn = true ∧
        domReady t .radio = true ∧ t.pwr.state = .slumber ∧
        (carrierOk (carrierOf s.trx (fld s.trx.chan 15 0)) = true → t.clk.rfPower = true ∧ t.trx = s.trx ∧
          (s.clk.rf.st = .off → t.clk.rf.st = .search ∧ t.clk.carrier = carrierOf s.trx (fld s.trx.chan 15 0))))

/-- Resets and watchdogs. Every reset but a power-on reset records its cause and keeps the LOFT domain: OTP, rollback floor, history, sleep-clock table; every stall and register outside it
is as after reset (R374, R375, R315). A SYSPLL coast of 10 ms resets (R299). POR clears the LOFT domain too. BOOT_RST_REQ resets only with its value, and only for MID 0 (R374). A watchdog whose count has reached TMO resets with its
cause, and warns once its count reaches a WARN below TMO; the right kick restarts its count, a wrong one expires it (R376). RESET_RELEASE samples the straps and starts XTAL (R367, R378). -/
def Obligations.ResetCommands : Prop :=
  ∀ (s : State),
    (∀ x ∈ ([(.pin, 1), (.brown, 2), (.dbgReset, 9)] : List (Instr × Nat)), ∃ t, exec x.1 s = .next t ∧ t.boot.lastRst = x.2 ∧
      t.boot.sticky = s.boot.sticky ||| (1#10 <<< x.2) ∧ t.boot.inReset = true ∧ t.boot.otp = s.boot.otp ∧ t.boot.floor = s.boot.floor ∧
      t.boot.hist = s.boot.hist ∧ t.boot.histCnt = s.boot.histCnt ∧ t.boot.lastFail = s.boot.lastFail ∧ t.clk.slk = s.clk.slk ∧ t.clk.slkCfg = s.clk.slkCfg ∧
      t.clk.sys = State.reset.clk.sys ∧ t.clk.evt = 0 ∧ t.pwr.state = .run ∧ t.pwr.move = .none ∧ t.pwr.ltime = s.pwr.ltime ∧ t.pwr.lastWake = s.pwr.lastWake ∧
      t.stl = State.reset.stl ∧ t.cfg = State.reset.cfg ∧ t.trx = State.reset.trx ∧ t.cry = State.reset.cry ∧ t.act = State.reset.act ∧ t.wdt = State.reset.wdt ∧
      t.bist.prev = s.bist.umap ∧ t.bist.umap = 0 ∧ t.pending = s.pending ∧
      (memOk s → s.boot.flRun = none → s.bist.run = none → ∀ a, a < 0x40020000 → t.mem.read a = s.mem.read a)) ∧
    (∃ t, exec .por s = .next t ∧ t.boot.lastRst = 0 ∧ t.boot.sticky = 1 ∧ t.boot.skip = 0 ∧ t.boot.histCnt = 0 ∧ t.boot.hist = .replicate 8 0 ∧
      t.boot.otp = s.boot.otp ∧ t.boot.floor = s.boot.floor ∧ t.clk = State.reset.clk ∧ t.pwr = State.reset.pwr ∧ t.rgy = State.reset.rgy ∧
      t.stl = State.reset.stl ∧ t.bist = State.reset.bist ∧ t.pending = s.pending) ∧
    (∀ m data, reaches m .boot (0x40050000 + 0x008) data s = true →
      (m ≠ .hostS → m ≠ .dbg → exec (.bootRstReq m data) s = .next (respond (served m .boot s) m (BitVec.ofNat 32 (0x40050000 + 0x008)) .write .slverr 0)) ∧
      (m = .hostS → data ≠ 0x52530001 → exec (.bootRstReq m data) s = .next (okay m 0 (served m .boot s))) ∧
      (m = .hostS → data = 0x52530001 → ∃ t, exec (.bootRstReq m data) s = .next t ∧ t.boot.lastRst = 5 ∧ t.boot.inReset = true ∧ t.boot.otp = s.boot.otp ∧
        t.stl = State.reset.stl)) ∧
    (s.clk.sys.st = .coast → 1536000 ≤ s.clk.sys.coastCyc → ∃ t, exec .coastLimit s = .next t ∧ t.boot.lastRst = 6 ∧ t.boot.inReset = true ∧ ∀ n : Fin 32, t.stl[n].gate = false) ∧
    (s.clk.sys.st ≠ .coast ∨ s.clk.sys.coastCyc < 1536000 → exec .coastLimit s = .next s) ∧
    (∀ w, (wdtCounts s w = true ∧ fld s.wdt[wdtOf w].ctrl 13 0 ≤ s.wdt[wdtOf w].cnt) ∨ (bit s.wdt[wdtOf w].ctrl 31 = true ∧ s.wdt[wdtOf w].bad = true) →
      ∃ t, exec (.wdtExpiry w) s = .next t ∧ t.boot.lastRst = (match w with | .host => 3 | .groom => 4) ∧ t.boot.inReset = true ∧ t.boot.otp = s.boot.otp) ∧
    (∀ w, s.wdt[wdtOf w].cnt < fld s.wdt[wdtOf w].ctrl 13 0 → s.wdt[wdtOf w].bad = false → exec (.wdtExpiry w) s = .next s) ∧
    (∀ w, wdtCounts s w = true → fld s.wdt[wdtOf w].ctrl 29 16 < fld s.wdt[wdtOf w].ctrl 13 0 → fld s.wdt[wdtOf w].ctrl 29 16 ≤ s.wdt[wdtOf w].cnt →
      ∃ t, exec (.wdtWarn w) s = .next t ∧ t = { s with wdt := t.wdt } ∧ t.wdt[wdtOf w] = { s.wdt[wdtOf w] with warn := true } ∧
        ∀ v, v ≠ w → t.wdt[wdtOf v] = s.wdt[wdtOf v]) ∧
    (∀ m w data, reaches m .sys (0x40000000 + (0x404 + 0x10 * (wdtOf w).val)) data s = true →
      ∃ t, exec (.kick m w data) s = .next t ∧ t = okay m 0 { served m .sys s with wdt := t.wdt } ∧ (∀ v, v ≠ w → t.wdt[wdtOf v] = s.wdt[wdtOf v]) ∧
        t.wdt[wdtOf w] = (if data = 0x0000A5C3 then { s.wdt[wdtOf w] with cnt := 0, pre := 0 }
          else if bit s.wdt[wdtOf w].ctrl 31 then { s.wdt[wdtOf w] with bad := true } else s.wdt[wdtOf w])) ∧
    (∀ straps, s.boot.inReset = true → ∃ t, exec (.resetRelease straps) s = .next t ∧
      t = { s with pio := { s.pio with strap := straps, ext := t.pio.ext }, boot := { s.boot with inReset := false }, clk := t.clk } ∧
      t.clk.xtalOn = true ∧ (s.clk.xtalOk = false → t.clk = { s.clk with xtalOn := true }) ∧
      ∀ i : Fin 24, t.pio.ext[i] = if 19 ≤ i.val then some (straps.getLsbD (i.val - 19)) else s.pio.ext[i])

/-- The pins. HOLDREL releases the latches of its groups after a wake (R368); MAP locks the function and pad
registers (R369). A qualified edge of a new level in the EDGE direction sets PIO_EVT, with WAKE is a wake event (R332), and then fires the pin's route; in another direction it
only moves the filtered level (R365); in SLUMBER it wakes and no route fires (R366). -/
def Obligations.PinCommands : Prop :=
  ∀ (s : State),
    (∀ m (mask : BitVec 3), reaches m .pio 0x4003001C (mask.setWidth 32) s = true → s.pwr.state ≠ .slumber → s.pwr.move = .none →
      ∃ t, exec (.holdrel m mask) s = .next t ∧ t = okay m 0 { served m .pio s with pio := { s.pio with hold := s.pio.hold &&& ~~~ mask, keep := t.pio.keep } }) ∧
    (∀ m, reaches m .pio 0x40030020 1 s = true →
      ∃ t, exec (.map m) s = .next t ∧ t = okay m 0 { served m .pio s with pio := { s.pio with lock := true, keep := t.pio.keep } }) ∧
    (∀ (i : Fin 24) (level : Bool), s.pio.filt.getLsbD i.val = level →
      exec (.qualifiedEdge i level) s = .next s ∧ exec (.slumberEdge i level) s = .next s) ∧
    (∀ (i : Fin 24) (level : Bool), unusable s 7 = false → domReady s .yard = true → s.pio.filt.getLsbD i.val ≠ level →
      ∃ u : State, u = { s with pio := u.pio } ∧ u.pio.filt.getLsbD i.val = level ∧ u.pio.out = s.pio.out ∧ u.pio.dir = s.pio.dir ∧ u.pio.lock = s.pio.lock ∧
        (edgeWanted s.pio.ecfg[i] level = false → u.pio.evt = s.pio.evt ∧ exec (.qualifiedEdge i level) s = .next u) ∧
        (edgeWanted s.pio.ecfg[i] level = true → u.pio.evt.getLsbD i.val = true ∧
          exec (.qualifiedEdge i level) s = .next (fire (0x20 + i.val) (if bit s.pio.ecfg[i] 11 then wake .pio u else u)))) ∧
    (∀ (i : Fin 24) (level : Bool), unusable s 7 = false → domReady s .yard = false → s.pio.filt.getLsbD i.val ≠ level → bit s.pio.ecfg[i] 11 = true →
      edgeWanted s.pio.ecfg[i] level = true →
      ∃ t, exec (.slumberEdge i level) s = .next t ∧ t = { s with pio := t.pio, pwr := t.pwr, clk := t.clk } ∧ t.pio.evt.getLsbD i.val = true ∧
        t.pio.filt.getLsbD i.val = level ∧ bit t.pwr.wakePend 3 = true)

/-- The masked write window of a group of pins: a write of the word of mask `mask` sets latch bit 8g + j to data bit j for every j
whose bit is set in the mask and leaves the other bits unchanged, in one transaction; a read returns the group's latch bits AND the
mask in bits 7:0, and zero above (R364). -/
def Obligations.MaskedWindow : Prop :=
  ∀ (s : State) (m : Mid) (g : Fin 3) (mask : Byte),
    (∀ data, reaches m .pio (0x40030000 + (0x400 + g.val * 0x400 + mask.toNat * 4)) data s = true →
      ∃ t, exec (.maskedWrite m g mask data) s = .next t ∧ t = okay m 0 { served m .pio s with pio := { s.pio with out := t.pio.out, keep := t.pio.keep } } ∧
        ∀ i : Fin 24, t.pio.out.getLsbD i.val =
          if i.val / 8 = g.val ∧ mask.getLsbD (i.val % 8) = true then data.getLsbD (i.val % 8) else s.pio.out.getLsbD i.val) ∧
    (readReaches m .pio (0x40030000 + (0x400 + g.val * 0x400 + mask.toNat * 4)) s = true →
      ∃ v : W32, transact m (BitVec.ofNat 32 (0x40030000 + (0x400 + g.val * 0x400 + mask.toNat * 4))) .b32 .read 0 s = okay m v (served m .pio s) ∧
        ∀ j : Fin 32, v.getLsbD j.val = (decide (j.val < 8) && mask.getLsbD j.val && s.pio.out.getLsbD (8 * g.val + j.val)))

/-- The supplies. An undervoltage of VGD and the thermal cut take every gate driver low, and are recorded and counted; while either holds the other does not let the drivers back
(R430, R444). Their release lets the LINEAR outputs rise to their command, if nothing else holds them (R430, R442). SUP_CNT_CLR clears the counts (R445). -/
def Obligations.Supplies : Prop :=
  ∀ (s : State),
    (s.sup.vgdUv = false → ∃ t, exec .vgdUndervoltage s = .next t ∧
      t = { s with stl := t.stl, sup := { s.sup with vgdUv := true, uvSeen := true, uvCnt := satInc s.sup.uvCnt 65535 } } ∧
      ∀ n : Fin 32, t.stl[n].gate = false ∧ t.stl[n].cmd = s.stl[n].cmd ∧ t.stl[n].en = s.stl[n].en) ∧
    (s.sup.hot = false → ∃ t, exec .thermalCut s = .next t ∧
      t = { s with stl := t.stl, sup := { s.sup with hot := true, hotSeen := true, hotCnt := satInc s.sup.hotCnt 65535 } } ∧
      ∀ n : Fin 32, t.stl[n].gate = false ∧ t.stl[n].cmd = s.stl[n].cmd ∧ t.stl[n].en = s.stl[n].en) ∧
    (s.sup.vgdUv = true → exec .vgdUndervoltage s = .next s ∧ ∃ t, exec .vgdRelease s = .next t ∧ t = { s with stl := t.stl, sup := { s.sup with vgdUv := false } } ∧
      (s.sup.hot = true → t.stl = s.stl) ∧
      ∀ n : Fin 32, t.stl[n].cmd = s.stl[n].cmd ∧ (fld (outOf s.stl[n]) 31 30 ≠ 2 → t.stl[n] = s.stl[n])) ∧
    (s.sup.hot = true → exec .thermalCut s = .next s ∧ ∃ t, exec .thermalCutRelease s = .next t ∧ t = { s with stl := t.stl, sup := { s.sup with hot := false } } ∧
      (s.sup.vgdUv = true → t.stl = s.stl) ∧
      ∀ n : Fin 32, t.stl[n].cmd = s.stl[n].cmd ∧ (fld (outOf s.stl[n]) 31 30 ≠ 2 → t.stl[n] = s.stl[n])) ∧
    (∀ m, reaches m .sys 0x40000908 1 s = true →
      exec (.supCntClr m) s = .next (okay m 0 { served m .sys s with sup := { s.sup with uvCnt := 0, hotCnt := 0 } }))

/-- Self-test. Without failures phase 1 zeroes the SRAM and starts the host core in the boot ROM; a failure of BROM, HOST or YARD leaves it unstarted (R408, R409, R412). Power-up
BIST then publishes its maps, and the boot ROM goes on with the lowest TRIAL bank, at the cost of an attempt, else with the best committed one, or enters NONE (R378, R387, R388, R401); a marker that does not
verify is an image failure (R403). BIST_GO of a testable target starts its test, and
a refused one changes only RESULT, DETAIL and DONE (R415); STOP aborts (R418). A unit's test, GAP after the one before it, is denied by the gate, goes on, passes or is recorded as failed (R414, R421); the
end marks a failed target unless NOMARK (R417). -/
def Obligations.SelfTest : Prop :=
  ∀ (s : State),
    (phase1Due s = true → s.bist.fmap = 0 → ∃ t, exec (.bistPhase1End []) s = .next t ∧
      t = { s with mem := t.mem, bist := { s.bist with tmap := phase1 }, boot := { s.boot with started := true, bootNum := s.boot.bootNum + 1 }
                   pwr := { s.pwr with hostOn := true, hostPc := 0 } } ∧
      (∀ a, 0x20000000 ≤ a → a < 0x20080000 → t.mem.read a = 0) ∧
      (memOk s → ∀ a, a < 0x20000000 ∨ 0x20080000 ≤ a → t.mem.read a = s.mem.read a)) ∧
    (∀ f : BistFail, phase1Due s = true → s.cfg.load = none → f.block.val < 3 → ∃ t, exec (.bistPhase1End [f]) s = .next t ∧
      t.boot = s.boot ∧ t.bist.umap.getLsbD f.block.val = true ∧ t.bist.fmap.getLsbD f.block.val = true ∧ t.trx = s.trx ∧ t.clk = s.clk) ∧
    (∀ us (marked : Bool), s.boot.started = true → s.bist.tmap.getLsbD 3 = false → s.bist.fmap = 0 → s.bist.umap = 0 → s.clk.sys.st ≠ .failed →
      s.clk.bypass = false → s.cfg.load = none → ∃ t, exec (.powerUpBistEnd [] us marked) s = .next t ∧
        (marked = true ∨ trialBank s = none → t.bist.puTime = us ∧ t.bist.umap = 0 ∧ t.bist.tmap = s.bist.tmap ||| phases23) ∧
        (∀ b, trialBank s = some b → marked = false → t.boot.lastRst = 8 ∧ t.boot.lastFail = 0 ∧
          t.boot.skip = s.boot.skip ||| (1#2 <<< (bankIdx b).val) ∧ t.boot.inReset = true) ∧
        (∀ b, trialBank s = some b → marked = true → attemptsOf s b < 3 → memOk s →
          t.boot.bank = b ∧ t.boot.trial = true ∧ t.cfg.src = BitVec.ofNat 32 (bankBase b + 0xD0000) ∧ attemptsOf t b = attemptsOf s b + 1) ∧
        (∀ b, trialBank s = none → bestCommitted s = some b → t.boot.bank = b ∧ t.boot.trial = false ∧
          t.cfg.src = BitVec.ofNat 32 (bankBase b + 0xD0000) ∧ t.mem = s.mem) ∧
        (trialBank s = none → bestCommitted s = none → t.boot.level = 3 ∧ t.mem = s.mem)) ∧
    (∀ m data, reaches m .bist 0x40020000 (data ||| put 1 31) s = true →
      ((m ≠ .hostS ∧ m ≠ .groom ∧ m ≠ .dbg) ∨ (s.bist.run.isSome = true ∧ bit (data ||| put 1 31) 29 = false) →
        exec (.bistGo m data) s = .next (respond (served m .bist s) m (BitVec.ofNat 32 0x40020000) .write .slverr 0)) ∧
      (m = .hostS ∨ m = .groom ∨ m = .dbg → s.bist.run = none → ∀ e,
        bistDetail (fld (data ||| put 1 31) 21 16) (fld (data ||| put 1 31) 13 8) (fld (data ||| put 1 31) 5 0) (served m .bist s) = e →
        (e ≠ 0 → exec (.bistGo m data) s = .next (okay m 0 { served m .bist s with bist := { s.bist with detail := e, result := 3, evt := withBit s.bist.evt 0 true } })) ∧
        (e = 0 → ∃ t, exec (.bistGo m data) s = .next t ∧ t = okay m 0 { served m .bist s with bist := t.bist, pwr := t.pwr, sns := t.sns, stl := t.stl } ∧
          ∃ r : BistRun, t.bist.run = some r ∧ r.target.val = fld (data ||| put 1 31) 21 16 ∧ r.noMark = bit (data ||| put 1 31) 30 ∧ r.result = none ∧
            t.bist.umap = s.bist.umap ∧ t.bist.fmap = s.bist.fmap))) ∧
    (∀ m r, reaches m .bist 0x40020000 (put 1 29) s = true → m = .hostS ∨ m = .groom ∨ m = .dbg → s.bist.run = some r → r.result ≠ some 2 →
      exec (.bistStop m) s = .next (okay m 0 { served m .bist s with bist := { s.bist with
        run := none, result := 5, slice := r.cur, evt := withBit s.bist.evt 0 true } })) ∧
    (∀ (u : UnitResult) (r : BistRun), s.bist.run = some r → r.gap ≠ 0 → exec (.slice u) s = .next s) ∧
    (∀ (u : UnitResult) (r : BistRun), s.bist.run = some r → r.result = none → r.gap = 0 → (u = .restore → bistUnits r.target.val r.cur ≠ []) →
      ∃ t, exec (.slice u) s = .next t ∧ t.boot = s.boot ∧ t.trx = s.trx ∧ t.clk = s.clk ∧ t.bist.umap = s.bist.umap ∧
        ((bistUnits r.target.val r.cur).all (unitPermitted (bistWake r.target.val s)) = false →
          t = { bistWake r.target.val s with bist := { s.bist with run := some { r with result := some 4 }, slice := r.cur } }) ∧
        ((bistUnits r.target.val r.cur).all (unitPermitted (bistWake r.target.val s)) = true →
          (u = .pass → r.cur < r.last → t.bist.run = some { r with cur := r.cur + 1, gap := gapCyc s }) ∧
          (u = .pass → r.last ≤ r.cur → t.bist.run = some { r with result := some 1 }) ∧
          (u = .restore → t.bist.run = some { r with result := some 6 }) ∧
          (∀ loc, u = .fail loc → t.bist.run = some { r with result := some 2 } ∧ t.bist.fmap = s.bist.fmap ||| mapBit r.target.val ∧
            t.bist.fail = put 1 31 ||| put r.target.val 16 ||| loc.setWidth 32) ∧
          (u = .pass → memOk s → ∀ a, a < 0x40020800 ∨ 0x40020C00 ≤ a → t.mem.read a = s.mem.read a))) ∧
    (∀ (r : BistRun) (c : Nat), s.bist.run = some r → r.result = some c → ∃ t, exec .bistDone s = .next t ∧
      t.bist.run = none ∧ t.bist.result = c ∧ bit t.bist.evt 0 = true ∧
      (c ≠ 1 → c ≠ 2 → t = { s with bist := { s.bist with run := none, result := c, slice := r.cur, evt := withBit s.bist.evt 0 true } }) ∧
      (c = 2 → r.noMark = false → t.bist.umap.getLsbD r.target.val = true ∧ bit t.bist.evt 1 = true) ∧
      (c = 1 ∨ r.noMark = true → t.bist.umap = s.bist.umap))

/-- Flash and the firmware check. A command of the flash interface outside both banks ends ADDR, one that R381 bars ends PROT, another, which aborts an entry to SLUMBER (the model's own reading, log 79), waits for its
end; a command while BUSY is refused (R381, R382). A verified PROGRAM of an erased doubleword writes it and nothing else; of one that is not erased it ends VERIFY; an ERASE leaves its ranges reading 0xFF (R380, R382).
HEADER_CHECK and FULL_CHECK start the idle engine while BOOTROM reads 1, FW_CONFIRM ends its wait (R384); its end gives the code, and the boot ROM's full check of the bank it chose
releases the firmware or is an image failure (R389, R390). -/
def Obligations.FlashAndCheck : Prop :=
  ∀ (s : State),
    (∀ m (e : Bool), reaches m .boot (0x40050000 + 0x08C) (if e then 2 else 1) s = true → m = .hostS →
      (s.boot.flRun.isSome = true →
        exec (if e then .erase m else .program m) s = .next (respond (served m .boot s) m (BitVec.ofNat 32 (0x40050000 + 0x08C)) .write .slverr 0)) ∧
      (s.boot.flRun = none → flashLoc s.boot.flAddr.toNat = none →
        exec (if e then .erase m else .program m) s = .next (okay m 0 { served m .boot s with boot := { s.boot with flDone := true, flRes := 3 } })) ∧
      (∀ b off, s.boot.flRun = none → flashLoc s.boot.flAddr.toNat = some (b, off) → flashProt s m b off = true →
        exec (if e then .erase m else .program m) s = .next (okay m 0 { served m .boot s with boot := { s.boot with flDone := true, flRes := 1 } })) ∧
      (∀ b off, s.boot.flRun = none → flashLoc s.boot.flAddr.toNat = some (b, off) → flashProt s m b off = false →
        exec (if e then .erase m else .program m) s = .next (okay m 0 { fence (served m .boot s) with boot := { s.boot with
          flRun := some { erase := e, addr := s.boot.flAddr, lo := s.boot.flLo, hi := s.boot.flHi }, flDone := false } }))) ∧
    (s.boot.released = true → ∀ off, off < 0xE8000 → flashProt s .hostS s.boot.bank off = true) ∧
    (∀ f : FlashRun, s.boot.flRun = some f → f.erase = false → memOk s →
      let a := f.addr.toNat / 8 * 8
      (s.mem.readN a 8 = List.replicate 8 0xFF → ∃ t, exec (.flashDone true) s = .next t ∧
        t = { s with mem := t.mem, boot := { s.boot with flRun := none, flDone := true, flRes := 0 } } ∧
        t.mem.readN a 8 = leBytes 4 f.lo.toNat ++ leBytes 4 f.hi.toNat ∧ ∀ x, x < a ∨ a + 8 ≤ x → t.mem.read x = s.mem.read x) ∧
      (s.mem.readN a 8 ≠ List.replicate 8 0xFF → ∃ t, exec (.flashDone true) s = .next t ∧
        t = { s with mem := t.mem, free := t.free, boot := { s.boot with flRun := none, flDone := true, flRes := 2 } } ∧
        ∀ x, x < a ∨ a + 8 ≤ x → t.mem.read x = s.mem.read x)) ∧
    (∀ f : FlashRun, s.boot.flRun = some f → f.erase = true → 0x08000000 ≤ f.addr.toNat → f.addr.toNat < 0x08200000 → ∃ t, exec (.flashDone true) s = .next t ∧
      t = { s with mem := t.mem, boot := { s.boot with flRun := none, flDone := true, flRes := 0 } } ∧
      (∀ x, x / 4096 = f.addr.toNat / 4096 → t.mem.read x = 0xFF) ∧
      (memOk s → ∀ x, x / 4096 ≠ f.addr.toNat / 4096 → (f.addr.toNat / 4096 % 256 = 0 → x / 4096 ≠ f.addr.toNat / 4096 + 0xCF) → t.mem.read x = s.mem.read x)) ∧
    (∀ m (b full : Bool), reaches m .boot (0x40050000 + 0x070) (put (if full then 2 else 1) 8 ||| putB b 0) s = true → m = .hostS →
      ∃ t, exec (if full then .fullCheck m b else .headerCheck m b) s = .next t ∧ t = okay m 0 { served m .boot s with boot := { s.boot with fwArg := putB b 0, fw := t.boot.fw } } ∧
        t.boot.fw = if s.boot.bootRom = true ∧ s.boot.fw = .idle then .busy b full else s.boot.fw) ∧
    (∀ m (b pass : Bool), reaches m .boot (0x40050000 + 0x070) (put 3 8 ||| putB pass 4) s = true → m = .hostS → s.boot.bootRom = true → s.boot.fw = .wait b →
      exec (.fwConfirm m pass) s = .next (okay m 0 { served m .boot s with boot := { s.boot with fwArg := putB pass 4, fw := .confirmed b pass } })) ∧
    (∀ (b : Bool) (full : Bool), s.boot.fw = .busy b full →
      (full = true → pkvUsable s = false → fwTo9 s b = 0 → ∃ t, exec .fwCheckEnd s = .next t ∧
        t = { s with boot := { s.boot with fw := .wait b, digest := imgDigest (fwImage s b) (fwImage s b).length } }) ∧
      (full = false ∨ pkvUsable s = true ∨ fwTo9 s b ≠ 0 → full = false ∨ booting s = false ∨ s.boot.bank ≠ b →
        ∃ t, exec .fwCheckEnd s = .next t ∧ t = { s with boot := { s.boot with fw := .idle, digest := t.boot.digest, banks := t.boot.banks } } ∧
          t.boot.banks[bankIdx b] = { s.boot.banks[bankIdx b] with fwCode := fwCheck s b full } ∧
          t.boot.banks[bankIdx (!b)] = s.boot.banks[bankIdx (!b)]) ∧
      (full = true → pkvUsable s = true → booting s = true → s.cfg.baseDone = true → s.boot.bank = b →
        (fwCheck s b true = 0 → ∃ t, exec .fwCheckEnd s = .next t ∧ t.boot.released = true ∧ t.boot.bootRom = false ∧ t.boot.skip = 0 ∧
          t.pwr.hostOn = true ∧ t.pwr.hostPc = BitVec.ofNat 32 (0x0C000000 + u32 (fwHdr s b) 0x18) ∧ t.pwr.hostSp = releaseSp s ∧ t.mem = s.mem ∧
          t.boot.floor = (if s.boot.trial then s.boot.floor else max s.boot.floor (u8 (fwHdr s b) 0x0C)) ∧
          (s.boot.trial = true → bit t.wdt[0].ctrl 31 = true ∧ fld t.wdt[0].ctrl 13 0 = 2048) ∧ (s.boot.trial = false → t.wdt = s.wdt)) ∧
        (fwCheck s b true ≠ 0 → ∃ t, exec .fwCheckEnd s = .next t ∧ t.boot.released = false ∧ t.boot.lastRst = 8 ∧ t.boot.lastFail = fwCheck s b true ∧
          t.boot.skip = s.boot.skip ||| (1#2 <<< (bankIdx b).val) ∧ t.boot.floor = s.boot.floor)))

/-- The boot ROM's services. They answer only the host core, once released (R391). Outside a trial BOOT_COMMIT and BOOT_FALLBACK return STATE and change nothing; in it BOOT_COMMIT sets the COMMIT marker, ends the
trial and advances the floor, which never falls; BOOT_FALLBACK with a reason from 1 to 4 leaves the floor and resets with cause BOOT (R392, R394). BOOT_TRIAL of the other bank runs its checks, sets its
TRIAL marker and, on request, resets; in a trial it returns STATE. KEY_PROGRAM fills an EMPTY slot only, KEY_REVOKE revokes a slot that is not the active
image's (R392, R395). BOOT_GROOM starts the groom core once (R390). -/
def Obligations.BootServices : Prop :=
  ∀ (s : State),
    (∀ m, s.boot.released = false ∨ s.boot.level = 3 ∨ m ≠ .hostS → (∀ bank opt, exec (.bootTrial m bank opt) s = .next s) ∧ (∀ p, exec (.bootCommit m p) s = .next s) ∧
      (∀ r p, exec (.bootFallback m r p) s = .next s) ∧ (∀ k a v, exec (.keyProgram m k a v) s = .next s) ∧ ∀ k, exec (.keyRevoke m k) s = .next s) ∧
    (s.boot.released = true → s.boot.level ≠ 3 →
      (s.boot.trial = false → (∀ p, exec (.bootCommit .hostS p) s = .next { s with boot := { s.boot with service := 1 } }) ∧
        ∀ r p, exec (.bootFallback .hostS r p) s = .next { s with boot := { s.boot with service := 1 } }) ∧
      (s.boot.trial = true → (∀ bank opt, exec (.bootTrial .hostS bank opt) s = .next { s with boot := { s.boot with service := 1 } }) ∧
        (s.boot.flRun = none → memOk s → ∃ t, exec (.bootCommit .hostS true) s = .next t ∧ t.boot.trial = false ∧ t.boot.service = 0 ∧
          t.boot.floor = max s.boot.floor (u8 (fwHdr s s.boot.bank) 0x0C) ∧ markSet t s.boot.bank 0x20 = true ∧
          markLow t s.boot.bank 0x20 = min (markLow s (!s.boot.bank) 0x20 + 1) 0xFFFFFFFE ∧
          (∀ x, x < bankBase s.boot.bank + 0xCF020 ∨ bankBase s.boot.bank + 0xCF028 ≤ x → t.mem.read x = s.mem.read x)) ∧
        (∀ r : W32, 1 ≤ r.toNat → r.toNat ≤ 4 → s.boot.flRun = none → s.bist.run = none → memOk s →
          ∃ t, exec (.bootFallback .hostS r true) s = .next t ∧ t.boot.lastRst = 8 ∧ t.boot.inReset = true ∧ t.boot.floor = s.boot.floor ∧
            markLow t s.boot.bank 0x28 = r.toNat ∧ t.boot.otp = s.boot.otp) ∧
        (∀ (r : W32) p, r.toNat < 1 ∨ 4 < r.toNat → exec (.bootFallback .hostS r p) s = .next { s with boot := { s.boot with service := 2 } })) ∧
      (s.boot.trial = false → ∀ (bank opt : W32), bank.toNat ≤ 1 → decide (bank = 1) ≠ s.boot.bank → s.boot.flRun = none → s.bist.run = none → memOk s →
        classify s (bank = 1) ≠ 4 → fwCheck s (bank = 1) true = 0 → lyngoCode s (bank = 1) = 0 →
        ∃ t, exec (.bootTrial .hostS bank opt) s = .next t ∧ markSet t (bank = 1) 0x00 = true ∧
          (bit opt 0 = false → t.boot.service = 0 ∧ t.boot.released = true ∧ t.boot.bank = s.boot.bank) ∧ (bit opt 0 = true → t.boot.lastRst = 8) ∧
          t.boot.floor = s.boot.floor) ∧
      (∀ (slot addr : W32) (k : Fin 4) (l : List Byte) (s1 : State), yardIdle s → slot.toNat = k.val → otpNum s.boot.otp[k] = 0 →
        dmaRead .hostS addr.toNat 32 s = ((.okay, l), s1) →
        ∃ u, exec (.keyProgram .hostS slot addr true) s = .next (settle u) ∧ u = { s1 with boot := { s.boot with service := 0, otp := u.boot.otp } } ∧
          u.boot.otp[k] = { s.boot.otp[k] with blank := false, hash := l, active := true } ∧ ∀ j, j ≠ k → u.boot.otp[j] = s.boot.otp[j]) ∧
      (∀ (slot addr : W32) (k : Fin 4) v, yardIdle s → slot.toNat = k.val → otpNum s.boot.otp[k] ≠ 0 →
        exec (.keyProgram .hostS slot addr v) s = .next { s with boot := { s.boot with service := 1 } }) ∧
      (∀ (slot : W32) (k : Fin 4), slot.toNat = k.val → u8 (fwHdr s s.boot.bank) 0x0D ≠ k.val →
        ∃ t, exec (.keyRevoke .hostS slot) s = .next t ∧ t = { s with boot := { s.boot with service := 0, otp := t.boot.otp } } ∧
          t.boot.otp[k] = { s.boot.otp[k] with revoke := true } ∧ ∀ j, j ≠ k → t.boot.otp[j] = s.boot.otp[j]) ∧
      (∀ (slot : W32) (k : Fin 4), slot.toNat = k.val → u8 (fwHdr s s.boot.bank) 0x0D = k.val →
        exec (.keyRevoke .hostS slot) s = .next { s with boot := { s.boot with service := 1 } })) ∧
    (∀ vec : BitVec 30, reaches .hostS .boot (0x40050000 + 0x068) (put 1 31 ||| (vec.setWidth 32 <<< 1)) s = true → s.boot.groom = 0 → s.pwr.groomOn = false →
      domIsolated s .groom = false → unusable s 3 = false →
      ∃ t, exec (.bootGroom .hostS vec) s = .next t ∧ t = okay .hostS 0 { served .hostS .boot s with boot := { s.boot with groom := t.boot.groom }, pwr := t.pwr } ∧
        t.boot.groom = put 1 31 ||| (vec.setWidth 32 <<< 1) ∧ t.pwr.groomOn = true ∧ t.pwr.groomPc = vec.setWidth 32 <<< 2 ∧ domReady t .groom = true)

/-- The step takes the command at the front of the queue and runs it with the queue's rest; every command goes on to a next state. On an empty queue one CLK_YARD period
passes: where nothing waits on the yard and no sniff runs, counters of time advance, and no gate, command, set point or enable of a stall and no event of the loader, the
loops, power or the clocks changes (the idle period is the model's own choice, log 2). -/
def Obligations.StepTakesFront : Prop :=
  ∀ (s : State),
    (∀ (c : Instr) (rest : List Instr), step { s with pending := c :: rest } = exec c { s with pending := rest }) ∧
    (∀ c : Instr, ∃ t, exec c s = .next t) ∧
    (s.pending = [] → s.yard.waiting = [] → s.yard.port = [] → s.trx.sniffing = false → ∃ t, step s = .next t ∧
      t = { s with time := s.time + 1, ltHalf := t.ltHalf, yard := t.yard, cfg := t.cfg, stl := t.stl, lpe := t.lpe, trx := t.trx, zlk := t.zlk,
                   dli := t.dli, clk := t.clk, pwr := t.pwr, wdt := t.wdt, sns := t.sns, bist := t.bist } ∧ t.pending = [] ∧
      t.cfg.evt = s.cfg.evt ∧ t.lpe.evt = s.lpe.evt ∧ t.pwr.evt = s.pwr.evt ∧ t.clk.evt = s.clk.evt ∧
      ∀ n : Fin 32, t.stl[n].gate = s.stl[n].gate ∧ t.stl[n].cmd = s.stl[n].cmd ∧ t.stl[n].sp = s.stl[n].sp ∧ t.stl[n].en = s.stl[n].en)

/-- The block right after reset, at the values the spec states: the yard, interrupts and routes (R41), the loader (R74), the
converters (R102), the stalls (R133), Troax (R282), the clocks (R315), power (R340), the access tables (R355), the pins (R372), the
boot controller (R404), the self-test (R422) and the supplies (R444); the memory has its form. -/
def Obligations.ResetState : Prop :=
  memOk State.reset ∧ State.reset.pending = [] ∧
  (bit State.reset.yard.cfg 8 = true ∧ fld State.reset.yard.cfg 7 0 = 0x20 ∧ State.reset.yard.err = none ∧ State.reset.yard.slverrCnt = 0 ∧
    State.reset.yard.decerrCnt = 0 ∧ State.reset.yard.deadCnt = 0 ∧ State.reset.yard.tmoCnt = 0) ∧
  (State.reset.irq.enHost = 0 ∧ State.reset.irq.enGroom = 0 ∧ State.reset.irq.thrHost = 0 ∧ State.reset.irq.thrGroom = 0 ∧
    ∀ n : Fin 64, State.reset.irq.claimed[n] = none) ∧
  (State.reset.trg.lock = false ∧ State.reset.trg.dropCnt = 0 ∧ ∀ r : Fin 32, State.reset.trg.route[r] = 0 ∧ State.reset.trg.mask[r] = 0) ∧
  (State.reset.cfg.load = none ∧ State.reset.cfg.baseId = 0 ∧ State.reset.cfg.evt = 0 ∧ State.reset.cfg.evtEn = 0 ∧ State.reset.cfg.holdLim = 500 ∧
    ∀ p : Fin 8, pdkState State.reset p = .parked ∧ State.reset.cfg.pdk[p].hold = false ∧ State.reset.cfg.pdk[p].empty = true ∧
      State.reset.cfg.pdk[p].tag = 0) ∧
  (State.reset.sns.ctrl = 1 ∧ State.reset.sns.adlEn = 0 ∧ State.reset.sns.evt = 0 ∧ State.reset.sns.evtEn = 0) ∧
  (∀ n : Fin 32, State.reset.stl[n].en = false ∧ State.reset.stl[n].gate = false ∧ State.reset.stl[n].missCnt = 0 ∧
    (∀ j : Fin 4, bit State.reset.stl[n].lane[j].ctrl 31 = false ∧ bit State.reset.stl[n].lane[j].ctrl 30 = decide (j.val = 0) ∧
      State.reset.stl[n].lane[j].frozen = decide (j.val = 0)) ∧ ∀ w : Fin 8, State.reset.stl[n].scn[w] = 0) ∧
  (State.reset.clk.sys.st = .off ∧ State.reset.clk.rf.st = .off ∧ State.reset.clk.bypass = false ∧ State.reset.clk.fast = false ∧
    State.reset.clk.evt = 0 ∧ State.reset.clk.evtEn = 0) ∧
  (State.reset.pwr.state = .run ∧ State.reset.pwr.req = 0 ∧ State.reset.pwr.wakeEn = 0 ∧ State.reset.pwr.wakePend = 0 ∧ State.reset.pwr.evt = 0 ∧
    State.reset.pwr.evtEn = 0 ∧ State.reset.pwr.sramRet = 0x80 ∧ State.reset.pwr.hostVec = 0 ∧ State.reset.pwr.groomVec = 0 ∧ State.reset.pwr.ltime = 0 ∧
    State.reset.pwr.lastWake = 0) ∧
  (State.reset.act.cnt = 0 ∧ ∀ g : Fin 25, State.reset.act.gate[g].locked = false ∧ State.reset.act.gate[g].dflt = 0x003CFFFF ∧
    State.reset.act.gate[g].ctrl = 0 ∧ State.reset.act.gate[g].viol = none) ∧
  (State.reset.pio.dir = 0 ∧ State.reset.pio.out = 0 ∧ State.reset.pio.evt = 0 ∧ State.reset.pio.evtEn = 0 ∧ State.reset.pio.hold = 0 ∧
    State.reset.pio.lock = false ∧ ∀ i : Fin 24, State.reset.pio.fsel[i] = 31 ∧ State.reset.pio.ecfg[i] = 0) ∧
  (State.reset.boot.bootRom = true ∧ State.reset.boot.force = false ∧ State.reset.boot.groom = 0 ∧ State.reset.boot.flRun = none ∧
    ∀ w : Fin 2, State.reset.wdt[w] = { ctrl := 0x800 }) ∧
  (State.reset.bist.run = none ∧ State.reset.bist.evt = 0 ∧ State.reset.bist.evtEn = 0 ∧ State.reset.bist.gap = 100 ∧ State.reset.bist.prev = 0) ∧
  (State.reset.zlk.state = .off ∧ State.reset.sup.uvSeen = false ∧ State.reset.sup.hotSeen = false ∧ State.reset.sup.uvCnt = 0 ∧ State.reset.sup.hotCnt = 0)

/-- Every step keeps the memory's form, in which addresses rise strictly and no entry holds what an unlisted address reads as: equal
memories are equal data. -/
def Obligations.MemoryFormKept : Prop := ∀ (s t : State), memOk s → step s = .next t → memOk t

/-- Over every step: the rollback floor never falls, a key slot's active and revoke bits are never cleared and its hash, once written, stays, and
the queue loses the one command taken and nothing else (R394, R395). -/
def Obligations.OtpOnlyGrows : Prop :=
  ∀ (s t : State), step s = .next t →
    s.boot.floor ≤ t.boot.floor ∧ (∀ k : Fin 4, (s.boot.otp[k]).grows t.boot.otp[k]) ∧ t.pending = s.pending.tail
end

