-- ==== Sys2Proof/Laws/Bus.lean ====
section
/-!
SUPPORT. Bus: what a register access that reaches its target does (R15, R18, R19).
-/

namespace Sys2Proof.Machine

open Sys2Proof

/-- A verdict looks at nothing that issuing a transaction changes. -/
theorem verdict_issue (s : State) (m : Mid) (t : Option Target) (a : Nat) (k : Kind) :
    verdict (issue s) m t a k = verdict s m t a k := rfl

/-- What serving a transaction changes: the peak count and the targets' round robins (R17, R42). -/
theorem served_frame (m : Mid) (t : Target) (s : State) : ∃ g, served m t s = { s with yard := { s.yard with
    peak := max s.yard.peak (s.yard.waiting.length + 1), granted := g } } := by
  unfold served grant
  split
  · exact ⟨_, rfl⟩
  · exact ⟨_, rfl⟩

theorem bistBreaks_served (m : Mid) (t : Target) (s : State) (o : Nat) (d : W32) :
    bistBreaks (grant t m (issue s)) t o d = bistBreaks s t o d := by
  obtain ⟨g, e⟩ := served_frame m t s
  unfold served at e
  rw [e]
  rfl

@[simp] theorem served_pending (m : Mid) (t : Target) (s : State) : (served m t s).pending = s.pending := by
  obtain ⟨_, e⟩ := served_frame m t s
  rw [e]

@[simp] theorem served_time (m : Mid) (t : Target) (s : State) : (served m t s).time = s.time := by
  obtain ⟨_, e⟩ := served_frame m t s
  rw [e]

@[simp] theorem served_ltHalf (m : Mid) (t : Target) (s : State) : (served m t s).ltHalf = s.ltHalf := by
  obtain ⟨_, e⟩ := served_frame m t s
  rw [e]

@[simp] theorem served_free (m : Mid) (t : Target) (s : State) : (served m t s).free = s.free := by
  obtain ⟨_, e⟩ := served_frame m t s
  rw [e]

@[simp] theorem served_mem (m : Mid) (t : Target) (s : State) : (served m t s).mem = s.mem := by
  obtain ⟨_, e⟩ := served_frame m t s
  rw [e]

@[simp] theorem served_irq (m : Mid) (t : Target) (s : State) : (served m t s).irq = s.irq := by
  obtain ⟨_, e⟩ := served_frame m t s
  rw [e]

@[simp] theorem served_trg (m : Mid) (t : Target) (s : State) : (served m t s).trg = s.trg := by
  obtain ⟨_, e⟩ := served_frame m t s
  rw [e]

@[simp] theorem served_cfg (m : Mid) (t : Target) (s : State) : (served m t s).cfg = s.cfg := by
  obtain ⟨_, e⟩ := served_frame m t s
  rw [e]

@[simp] theorem served_sns (m : Mid) (t : Target) (s : State) : (served m t s).sns = s.sns := by
  obtain ⟨_, e⟩ := served_frame m t s
  rw [e]

@[simp] theorem served_stl (m : Mid) (t : Target) (s : State) : (served m t s).stl = s.stl := by
  obtain ⟨_, e⟩ := served_frame m t s
  rw [e]

@[simp] theorem served_lpe (m : Mid) (t : Target) (s : State) : (served m t s).lpe = s.lpe := by
  obtain ⟨_, e⟩ := served_frame m t s
  rw [e]

@[simp] theorem served_echo (m : Mid) (t : Target) (s : State) : (served m t s).echo = s.echo := by
  obtain ⟨_, e⟩ := served_frame m t s
  rw [e]

@[simp] theorem served_echoEvt (m : Mid) (t : Target) (s : State) : (served m t s).echoEvt = s.echoEvt := by
  obtain ⟨_, e⟩ := served_frame m t s
  rw [e]

@[simp] theorem served_echoEvtEn (m : Mid) (t : Target) (s : State) : (served m t s).echoEvtEn = s.echoEvtEn := by
  obtain ⟨_, e⟩ := served_frame m t s
  rw [e]

@[simp] theorem served_gal (m : Mid) (t : Target) (s : State) : (served m t s).gal = s.gal := by
  obtain ⟨_, e⟩ := served_frame m t s
  rw [e]

@[simp] theorem served_trx (m : Mid) (t : Target) (s : State) : (served m t s).trx = s.trx := by
  obtain ⟨_, e⟩ := served_frame m t s
  rw [e]

@[simp] theorem served_rgy (m : Mid) (t : Target) (s : State) : (served m t s).rgy = s.rgy := by
  obtain ⟨_, e⟩ := served_frame m t s
  rw [e]

@[simp] theorem served_cry (m : Mid) (t : Target) (s : State) : (served m t s).cry = s.cry := by
  obtain ⟨_, e⟩ := served_frame m t s
  rw [e]

@[simp] theorem served_pkv (m : Mid) (t : Target) (s : State) : (served m t s).pkv = s.pkv := by
  obtain ⟨_, e⟩ := served_frame m t s
  rw [e]

@[simp] theorem served_zlk (m : Mid) (t : Target) (s : State) : (served m t s).zlk = s.zlk := by
  obtain ⟨_, e⟩ := served_frame m t s
  rw [e]

@[simp] theorem served_dli (m : Mid) (t : Target) (s : State) : (served m t s).dli = s.dli := by
  obtain ⟨_, e⟩ := served_frame m t s
  rw [e]

@[simp] theorem served_spis (m : Mid) (t : Target) (s : State) : (served m t s).spis = s.spis := by
  obtain ⟨_, e⟩ := served_frame m t s
  rw [e]

@[simp] theorem served_uart (m : Mid) (t : Target) (s : State) : (served m t s).uart = s.uart := by
  obtain ⟨_, e⟩ := served_frame m t s
  rw [e]

@[simp] theorem served_i2c (m : Mid) (t : Target) (s : State) : (served m t s).i2c = s.i2c := by
  obtain ⟨_, e⟩ := served_frame m t s
  rw [e]

@[simp] theorem served_clk (m : Mid) (t : Target) (s : State) : (served m t s).clk = s.clk := by
  obtain ⟨_, e⟩ := served_frame m t s
  rw [e]

@[simp] theorem served_pwr (m : Mid) (t : Target) (s : State) : (served m t s).pwr = s.pwr := by
  obtain ⟨_, e⟩ := served_frame m t s
  rw [e]

@[simp] theorem served_act (m : Mid) (t : Target) (s : State) : (served m t s).act = s.act := by
  obtain ⟨_, e⟩ := served_frame m t s
  rw [e]

@[simp] theorem served_pio (m : Mid) (t : Target) (s : State) : (served m t s).pio = s.pio := by
  obtain ⟨_, e⟩ := served_frame m t s
  rw [e]

@[simp] theorem served_boot (m : Mid) (t : Target) (s : State) : (served m t s).boot = s.boot := by
  obtain ⟨_, e⟩ := served_frame m t s
  rw [e]

@[simp] theorem served_wdt (m : Mid) (t : Target) (s : State) : (served m t s).wdt = s.wdt := by
  obtain ⟨_, e⟩ := served_frame m t s
  rw [e]

@[simp] theorem served_bist (m : Mid) (t : Target) (s : State) : (served m t s).bist = s.bist := by
  obtain ⟨_, e⟩ := served_frame m t s
  rw [e]

@[simp] theorem served_sup (m : Mid) (t : Target) (s : State) : (served m t s).sup = s.sup := by
  obtain ⟨_, e⟩ := served_frame m t s
  rw [e]
/-- A write that reaches its target and is accepted is answered OKAY. -/
theorem busWriteR_reaches {m : Mid} {t : Target} {a : Nat} {d : W32} {eff : State → Bool × State} {s s' : State}
    (h : reaches m t a d s = true) (e : eff (served m t s) = (true, s')) : busWriteR m t a d eff s = okay m 0 s' := by
  simp only [reaches, Bool.and_eq_true, decide_eq_true_eq, Bool.not_eq_true', served] at *
  obtain ⟨⟨i, v⟩, b⟩ := h
  unfold busWriteR access
  simp only [i, verdict_issue, v, bistBreaks_served, b, e, respond, okay]
  rfl

/-- A write that reaches its target and is accepted is answered OKAY. -/
theorem busWrite_reaches {m : Mid} {t : Target} {a : Nat} {d : W32} {eff : State → Option State} {s s' : State}
    (h : reaches m t a d s = true) (e : eff (served m t s) = some s') : busWrite m t a d eff s = okay m 0 s' :=
  busWriteR_reaches h (by simp [accepted, e])

/-- A write that reaches its target and is refused there is answered SLVERR, and changes nothing else. -/
theorem busWrite_refused {m : Mid} {t : Target} {a : Nat} {d : W32} {eff : State → Option State} {s : State}
    (h : reaches m t a d s = true) (e : eff (served m t s) = none) :
    busWrite m t a d eff s = respond (served m t s) m (BitVec.ofNat 32 a) .write .slverr 0 := by
  simp only [reaches, Bool.and_eq_true, decide_eq_true_eq, Bool.not_eq_true', served] at *
  obtain ⟨⟨i, v⟩, b⟩ := h
  unfold busWrite busWriteR access
  simp only [i, verdict_issue, v, bistBreaks_served, b, e, accepted]
  rfl

/-- A read that reaches its target is answered OKAY with the register's value. -/
theorem busRead_reaches {m : Mid} {t : Target} {a : Nat} {eff : State → W32 × State} {s : State}
    (h : readReaches m t a s = true) : busRead m t a eff s = okay m (eff (served m t s)).1 (eff (served m t s)).2 := by
  simp only [readReaches, Bool.and_eq_true, decide_eq_true_eq, Bool.not_eq_true', served] at *
  obtain ⟨i, v⟩ := h
  unfold busRead access
  simp only [i, verdict_issue, v, respond, okay]
  rfl

/-- A write that reaches its target, by what its effect answers. -/
theorem busWrite_at {m : Mid} {t : Target} {a : Nat} {d : W32} {eff : State → Option State} {s : State}
    (h : reaches m t a d s = true) : busWrite m t a d eff s = match eff (served m t s) with
      | some s' => okay m 0 s'
      | none => respond (served m t s) m (BitVec.ofNat 32 a) .write .slverr 0 := by
  cases e : eff (served m t s) with
  | some s' => exact busWrite_reaches h e
  | none => exact busWrite_refused h e

/-- A write that reaches a target which accepts every write, by its effect. -/
theorem busWrite_some {m : Mid} {t : Target} {a : Nat} {d : W32} {f : State → State} {s : State}
    (h : reaches m t a d s = true) : busWrite m t a d (fun s => some (f s)) s = okay m 0 (f (served m t s)) :=
  busWrite_reaches h rfl

/-- A read that reaches a target which answers with data. -/
theorem access_read {m : Mid} {t : Target} {a : Nat} {f : State → Option W32 × State} {s s' : State} {v : W32}
    (h : readReaches m t a s = true) (e : f (served m t s) = (some v, s')) :
    access m (some t) (BitVec.ofNat 32 a) .b32 .read 0 f s = okay m v s' := by
  simp only [readReaches, Bool.and_eq_true, decide_eq_true_eq, Bool.not_eq_true', served] at *
  obtain ⟨i, w⟩ := h
  unfold access
  simp only [i, verdict_issue, w, e, respond, okay]
  rfl

/-- A write that reaches a target which refuses it with a change of state. -/
theorem busWriteR_refused {m : Mid} {t : Target} {a : Nat} {d : W32} {eff : State → Bool × State} {s s' : State}
    (h : reaches m t a d s = true) (e : eff (served m t s) = (false, s')) :
    busWriteR m t a d eff s = respond s' m (BitVec.ofNat 32 a) .write .slverr 0 := by
  simp only [reaches, Bool.and_eq_true, decide_eq_true_eq, Bool.not_eq_true', served] at *
  obtain ⟨⟨i, v⟩, b⟩ := h
  unfold busWriteR access
  simp only [i, verdict_issue, v, bistBreaks_served, b, e]
  rfl

end Sys2Proof.Machine
end

