-- ==== Sys2Proof/Laws/State.lean ====
section
/-!
SUPPORT. State: what an update of one part of the state leaves, as rules for simp, so that no proof unfolds a record update.
-/

namespace Sys2Proof.Machine

open Sys2Proof

/-! ## Vectors of records -/

@[simp] theorem upd_same {α : Type} {n : Nat} (v : Vector α n) (g : Fin n) (f : α → α) : (upd v g f)[g] = f v[g] := by
  simp [upd]

theorem upd_other {α : Type} {n : Nat} (v : Vector α n) (g j : Fin n) (f : α → α) (h : j ≠ g) : (upd v g f)[j] = v[j] := by
  have : g.val ≠ j.val := fun e => h (Fin.ext e.symm)
  simp [upd, this]

/-- A record after the update of every record of a list. -/
theorem foldl_upd {α : Type} {n : Nat} (f : α → α) (l : List (Fin n)) (v : Vector α n) (g : Fin n) (hl : l.Nodup) :
    (l.foldl (fun v g => upd v g f) v)[g] = if g ∈ l then f v[g] else v[g] := by
  induction l generalizing v with
  | nil => simp
  | cons x t ih =>
    rw [List.nodup_cons] at hl
    rw [List.foldl_cons, ih _ hl.2]
    by_cases hx : g = x
    · subst hx
      rw [if_neg hl.1, if_pos List.mem_cons_self, upd_same]
    · rw [upd_other _ _ _ _ hx]
      simp [hx]

/-- A record after the update of all records, each by its own index. -/
theorem foldl_upd_all {α : Type} {n : Nat} (f : Fin n → α → α) (l : List (Fin n)) (v : Vector α n) (g : Fin n) (hl : l.Nodup) :
    (l.foldl (fun v g => upd v g (f g)) v)[g] = if g ∈ l then f g v[g] else v[g] := by
  induction l generalizing v with
  | nil => simp
  | cons x t ih =>
    rw [List.nodup_cons] at hl
    rw [List.foldl_cons, ih _ hl.2]
    by_cases hx : g = x
    · subst hx
      rw [if_neg hl.1, if_pos List.mem_cons_self, upd_same]
    · rw [upd_other _ _ _ _ hx]
      simp [hx]

theorem idx_nodup (n : Nat) : (idx n).Nodup := List.nodup_finRange n

theorem mem_idx {n : Nat} (g : Fin n) : g ∈ idx n := List.mem_finRange g

/-- Every record of a vector updated, each by its own index. -/
theorem foldl_idx {α : Type} {n : Nat} (f : Fin n → α → α) (v : Vector α n) (g : Fin n) :
    ((idx n).foldl (fun v g => upd v g (f g)) v)[g] = f g v[g] := by
  rw [foldl_upd_all _ _ _ _ (idx_nodup n), if_pos (mem_idx g)]

theorem put_one_bit (i j : Nat) (hj : j < 32) : (put 1 i).getLsbD j = decide (i = j) := by
  simp only [put, BitVec.getLsbD_ofNat, hj, decide_true, Bool.true_and, Nat.one_shiftLeft, Nat.testBit_two_pow]

/-- A bit of a word after one bit was set or cleared. -/
theorem bit_withBit (w : W32) (i j : Nat) (b : Bool) (hj : j < 32) : bit (withBit w i b) j = if i = j then b else bit w j := by
  unfold bit withBit
  cases b
  · simp only [Bool.false_eq_true, if_false, BitVec.getLsbD_and, BitVec.getLsbD_not, put_one_bit _ _ hj, hj]
    split <;> simp_all
  · simp only [if_true, BitVec.getLsbD_or, put_one_bit _ _ hj]
    split <;> simp_all

/-! ## Updates of one part -/

@[simp] theorem updAct_act (s : State) (f : Act → Act) : (updAct s f).act = f s.act := rfl

@[simp] theorem updAct_frame (s : State) (f : Act → Act) :
    (updAct s f).pending = s.pending ∧ (updAct s f).time = s.time ∧ (updAct s f).ltHalf = s.ltHalf ∧
    (updAct s f).free = s.free ∧ (updAct s f).mem = s.mem ∧ (updAct s f).yard = s.yard ∧ (updAct s f).irq = s.irq ∧
    (updAct s f).trg = s.trg ∧ (updAct s f).cfg = s.cfg ∧ (updAct s f).sns = s.sns ∧ (updAct s f).stl = s.stl ∧
    (updAct s f).lpe = s.lpe ∧ (updAct s f).echo = s.echo ∧ (updAct s f).echoEvt = s.echoEvt ∧
    (updAct s f).echoEvtEn = s.echoEvtEn ∧ (updAct s f).gal = s.gal ∧ (updAct s f).trx = s.trx ∧ (updAct s f).rgy = s.rgy ∧
    (updAct s f).cry = s.cry ∧ (updAct s f).pkv = s.pkv ∧ (updAct s f).zlk = s.zlk ∧ (updAct s f).dli = s.dli ∧
    (updAct s f).spis = s.spis ∧ (updAct s f).uart = s.uart ∧ (updAct s f).i2c = s.i2c ∧ (updAct s f).clk = s.clk ∧
    (updAct s f).pwr = s.pwr ∧ (updAct s f).pio = s.pio ∧ (updAct s f).boot = s.boot ∧ (updAct s f).wdt = s.wdt ∧
    (updAct s f).bist = s.bist ∧ (updAct s f).sup = s.sup :=
  ⟨rfl, rfl, rfl, rfl, rfl, rfl, rfl, rfl, rfl, rfl, rfl, rfl, rfl, rfl, rfl, rfl, rfl, rfl, rfl, rfl, rfl, rfl, rfl, rfl, rfl, rfl, rfl, rfl, rfl, rfl, rfl, rfl⟩

@[simp] theorem updBist_bist (s : State) (f : Bist → Bist) : (updBist s f).bist = f s.bist := rfl

@[simp] theorem updBist_frame (s : State) (f : Bist → Bist) :
    (updBist s f).pending = s.pending ∧ (updBist s f).time = s.time ∧ (updBist s f).ltHalf = s.ltHalf ∧
    (updBist s f).free = s.free ∧ (updBist s f).mem = s.mem ∧ (updBist s f).yard = s.yard ∧ (updBist s f).irq = s.irq ∧
    (updBist s f).trg = s.trg ∧ (updBist s f).cfg = s.cfg ∧ (updBist s f).sns = s.sns ∧ (updBist s f).stl = s.stl ∧
    (updBist s f).lpe = s.lpe ∧ (updBist s f).echo = s.echo ∧ (updBist s f).echoEvt = s.echoEvt ∧
    (updBist s f).echoEvtEn = s.echoEvtEn ∧ (updBist s f).gal = s.gal ∧ (updBist s f).trx = s.trx ∧
    (updBist s f).rgy = s.rgy ∧ (updBist s f).cry = s.cry ∧ (updBist s f).pkv = s.pkv ∧ (updBist s f).zlk = s.zlk ∧
    (updBist s f).dli = s.dli ∧ (updBist s f).spis = s.spis ∧ (updBist s f).uart = s.uart ∧ (updBist s f).i2c = s.i2c ∧
    (updBist s f).clk = s.clk ∧ (updBist s f).pwr = s.pwr ∧ (updBist s f).act = s.act ∧ (updBist s f).pio = s.pio ∧
    (updBist s f).boot = s.boot ∧ (updBist s f).wdt = s.wdt ∧ (updBist s f).sup = s.sup :=
  ⟨rfl, rfl, rfl, rfl, rfl, rfl, rfl, rfl, rfl, rfl, rfl, rfl, rfl, rfl, rfl, rfl, rfl, rfl, rfl, rfl, rfl, rfl, rfl, rfl, rfl, rfl, rfl, rfl, rfl, rfl, rfl, rfl⟩

@[simp] theorem updBoot_boot (s : State) (f : Boot → Boot) : (updBoot s f).boot = f s.boot := rfl

@[simp] theorem updBoot_frame (s : State) (f : Boot → Boot) :
    (updBoot s f).pending = s.pending ∧ (updBoot s f).time = s.time ∧ (updBoot s f).ltHalf = s.ltHalf ∧
    (updBoot s f).free = s.free ∧ (updBoot s f).mem = s.mem ∧ (updBoot s f).yard = s.yard ∧ (updBoot s f).irq = s.irq ∧
    (updBoot s f).trg = s.trg ∧ (updBoot s f).cfg = s.cfg ∧ (updBoot s f).sns = s.sns ∧ (updBoot s f).stl = s.stl ∧
    (updBoot s f).lpe = s.lpe ∧ (updBoot s f).echo = s.echo ∧ (updBoot s f).echoEvt = s.echoEvt ∧
    (updBoot s f).echoEvtEn = s.echoEvtEn ∧ (updBoot s f).gal = s.gal ∧ (updBoot s f).trx = s.trx ∧
    (updBoot s f).rgy = s.rgy ∧ (updBoot s f).cry = s.cry ∧ (updBoot s f).pkv = s.pkv ∧ (updBoot s f).zlk = s.zlk ∧
    (updBoot s f).dli = s.dli ∧ (updBoot s f).spis = s.spis ∧ (updBoot s f).uart = s.uart ∧ (updBoot s f).i2c = s.i2c ∧
    (updBoot s f).clk = s.clk ∧ (updBoot s f).pwr = s.pwr ∧ (updBoot s f).act = s.act ∧ (updBoot s f).pio = s.pio ∧
    (updBoot s f).wdt = s.wdt ∧ (updBoot s f).bist = s.bist ∧ (updBoot s f).sup = s.sup :=
  ⟨rfl, rfl, rfl, rfl, rfl, rfl, rfl, rfl, rfl, rfl, rfl, rfl, rfl, rfl, rfl, rfl, rfl, rfl, rfl, rfl, rfl, rfl, rfl, rfl, rfl, rfl, rfl, rfl, rfl, rfl, rfl, rfl⟩

@[simp] theorem updCfg_cfg (s : State) (f : Cfg → Cfg) : (updCfg s f).cfg = f s.cfg := rfl

@[simp] theorem updCfg_frame (s : State) (f : Cfg → Cfg) :
    (updCfg s f).pending = s.pending ∧ (updCfg s f).time = s.time ∧ (updCfg s f).ltHalf = s.ltHalf ∧
    (updCfg s f).free = s.free ∧ (updCfg s f).mem = s.mem ∧ (updCfg s f).yard = s.yard ∧ (updCfg s f).irq = s.irq ∧
    (updCfg s f).trg = s.trg ∧ (updCfg s f).sns = s.sns ∧ (updCfg s f).stl = s.stl ∧ (updCfg s f).lpe = s.lpe ∧
    (updCfg s f).echo = s.echo ∧ (updCfg s f).echoEvt = s.echoEvt ∧ (updCfg s f).echoEvtEn = s.echoEvtEn ∧
    (updCfg s f).gal = s.gal ∧ (updCfg s f).trx = s.trx ∧ (updCfg s f).rgy = s.rgy ∧ (updCfg s f).cry = s.cry ∧
    (updCfg s f).pkv = s.pkv ∧ (updCfg s f).zlk = s.zlk ∧ (updCfg s f).dli = s.dli ∧ (updCfg s f).spis = s.spis ∧
    (updCfg s f).uart = s.uart ∧ (updCfg s f).i2c = s.i2c ∧ (updCfg s f).clk = s.clk ∧ (updCfg s f).pwr = s.pwr ∧
    (updCfg s f).act = s.act ∧ (updCfg s f).pio = s.pio ∧ (updCfg s f).boot = s.boot ∧ (updCfg s f).wdt = s.wdt ∧
    (updCfg s f).bist = s.bist ∧ (updCfg s f).sup = s.sup :=
  ⟨rfl, rfl, rfl, rfl, rfl, rfl, rfl, rfl, rfl, rfl, rfl, rfl, rfl, rfl, rfl, rfl, rfl, rfl, rfl, rfl, rfl, rfl, rfl, rfl, rfl, rfl, rfl, rfl, rfl, rfl, rfl, rfl⟩

@[simp] theorem updClk_clk (s : State) (f : Clk → Clk) : (updClk s f).clk = f s.clk := rfl

@[simp] theorem updClk_frame (s : State) (f : Clk → Clk) :
    (updClk s f).pending = s.pending ∧ (updClk s f).time = s.time ∧ (updClk s f).ltHalf = s.ltHalf ∧
    (updClk s f).free = s.free ∧ (updClk s f).mem = s.mem ∧ (updClk s f).yard = s.yard ∧ (updClk s f).irq = s.irq ∧
    (updClk s f).trg = s.trg ∧ (updClk s f).cfg = s.cfg ∧ (updClk s f).sns = s.sns ∧ (updClk s f).stl = s.stl ∧
    (updClk s f).lpe = s.lpe ∧ (updClk s f).echo = s.echo ∧ (updClk s f).echoEvt = s.echoEvt ∧
    (updClk s f).echoEvtEn = s.echoEvtEn ∧ (updClk s f).gal = s.gal ∧ (updClk s f).trx = s.trx ∧ (updClk s f).rgy = s.rgy ∧
    (updClk s f).cry = s.cry ∧ (updClk s f).pkv = s.pkv ∧ (updClk s f).zlk = s.zlk ∧ (updClk s f).dli = s.dli ∧
    (updClk s f).spis = s.spis ∧ (updClk s f).uart = s.uart ∧ (updClk s f).i2c = s.i2c ∧ (updClk s f).pwr = s.pwr ∧
    (updClk s f).act = s.act ∧ (updClk s f).pio = s.pio ∧ (updClk s f).boot = s.boot ∧ (updClk s f).wdt = s.wdt ∧
    (updClk s f).bist = s.bist ∧ (updClk s f).sup = s.sup :=
  ⟨rfl, rfl, rfl, rfl, rfl, rfl, rfl, rfl, rfl, rfl, rfl, rfl, rfl, rfl, rfl, rfl, rfl, rfl, rfl, rfl, rfl, rfl, rfl, rfl, rfl, rfl, rfl, rfl, rfl, rfl, rfl, rfl⟩

@[simp] theorem updCry_cry (s : State) (f : Cry → Cry) : (updCry s f).cry = f s.cry := rfl

@[simp] theorem updCry_frame (s : State) (f : Cry → Cry) :
    (updCry s f).pending = s.pending ∧ (updCry s f).time = s.time ∧ (updCry s f).ltHalf = s.ltHalf ∧
    (updCry s f).free = s.free ∧ (updCry s f).mem = s.mem ∧ (updCry s f).yard = s.yard ∧ (updCry s f).irq = s.irq ∧
    (updCry s f).trg = s.trg ∧ (updCry s f).cfg = s.cfg ∧ (updCry s f).sns = s.sns ∧ (updCry s f).stl = s.stl ∧
    (updCry s f).lpe = s.lpe ∧ (updCry s f).echo = s.echo ∧ (updCry s f).echoEvt = s.echoEvt ∧
    (updCry s f).echoEvtEn = s.echoEvtEn ∧ (updCry s f).gal = s.gal ∧ (updCry s f).trx = s.trx ∧ (updCry s f).rgy = s.rgy ∧
    (updCry s f).pkv = s.pkv ∧ (updCry s f).zlk = s.zlk ∧ (updCry s f).dli = s.dli ∧ (updCry s f).spis = s.spis ∧
    (updCry s f).uart = s.uart ∧ (updCry s f).i2c = s.i2c ∧ (updCry s f).clk = s.clk ∧ (updCry s f).pwr = s.pwr ∧
    (updCry s f).act = s.act ∧ (updCry s f).pio = s.pio ∧ (updCry s f).boot = s.boot ∧ (updCry s f).wdt = s.wdt ∧
    (updCry s f).bist = s.bist ∧ (updCry s f).sup = s.sup :=
  ⟨rfl, rfl, rfl, rfl, rfl, rfl, rfl, rfl, rfl, rfl, rfl, rfl, rfl, rfl, rfl, rfl, rfl, rfl, rfl, rfl, rfl, rfl, rfl, rfl, rfl, rfl, rfl, rfl, rfl, rfl, rfl, rfl⟩

@[simp] theorem updGal_gal (s : State) (f : Gal → Gal) : (updGal s f).gal = f s.gal := rfl

@[simp] theorem updGal_frame (s : State) (f : Gal → Gal) :
    (updGal s f).pending = s.pending ∧ (updGal s f).time = s.time ∧ (updGal s f).ltHalf = s.ltHalf ∧
    (updGal s f).free = s.free ∧ (updGal s f).mem = s.mem ∧ (updGal s f).yard = s.yard ∧ (updGal s f).irq = s.irq ∧
    (updGal s f).trg = s.trg ∧ (updGal s f).cfg = s.cfg ∧ (updGal s f).sns = s.sns ∧ (updGal s f).stl = s.stl ∧
    (updGal s f).lpe = s.lpe ∧ (updGal s f).echo = s.echo ∧ (updGal s f).echoEvt = s.echoEvt ∧
    (updGal s f).echoEvtEn = s.echoEvtEn ∧ (updGal s f).trx = s.trx ∧ (updGal s f).rgy = s.rgy ∧ (updGal s f).cry = s.cry ∧
    (updGal s f).pkv = s.pkv ∧ (updGal s f).zlk = s.zlk ∧ (updGal s f).dli = s.dli ∧ (updGal s f).spis = s.spis ∧
    (updGal s f).uart = s.uart ∧ (updGal s f).i2c = s.i2c ∧ (updGal s f).clk = s.clk ∧ (updGal s f).pwr = s.pwr ∧
    (updGal s f).act = s.act ∧ (updGal s f).pio = s.pio ∧ (updGal s f).boot = s.boot ∧ (updGal s f).wdt = s.wdt ∧
    (updGal s f).bist = s.bist ∧ (updGal s f).sup = s.sup :=
  ⟨rfl, rfl, rfl, rfl, rfl, rfl, rfl, rfl, rfl, rfl, rfl, rfl, rfl, rfl, rfl, rfl, rfl, rfl, rfl, rfl, rfl, rfl, rfl, rfl, rfl, rfl, rfl, rfl, rfl, rfl, rfl, rfl⟩

@[simp] theorem updLpe_lpe (s : State) (f : Lpe → Lpe) : (updLpe s f).lpe = f s.lpe := rfl

@[simp] theorem updLpe_frame (s : State) (f : Lpe → Lpe) :
    (updLpe s f).pending = s.pending ∧ (updLpe s f).time = s.time ∧ (updLpe s f).ltHalf = s.ltHalf ∧
    (updLpe s f).free = s.free ∧ (updLpe s f).mem = s.mem ∧ (updLpe s f).yard = s.yard ∧ (updLpe s f).irq = s.irq ∧
    (updLpe s f).trg = s.trg ∧ (updLpe s f).cfg = s.cfg ∧ (updLpe s f).sns = s.sns ∧ (updLpe s f).stl = s.stl ∧
    (updLpe s f).echo = s.echo ∧ (updLpe s f).echoEvt = s.echoEvt ∧ (updLpe s f).echoEvtEn = s.echoEvtEn ∧
    (updLpe s f).gal = s.gal ∧ (updLpe s f).trx = s.trx ∧ (updLpe s f).rgy = s.rgy ∧ (updLpe s f).cry = s.cry ∧
    (updLpe s f).pkv = s.pkv ∧ (updLpe s f).zlk = s.zlk ∧ (updLpe s f).dli = s.dli ∧ (updLpe s f).spis = s.spis ∧
    (updLpe s f).uart = s.uart ∧ (updLpe s f).i2c = s.i2c ∧ (updLpe s f).clk = s.clk ∧ (updLpe s f).pwr = s.pwr ∧
    (updLpe s f).act = s.act ∧ (updLpe s f).pio = s.pio ∧ (updLpe s f).boot = s.boot ∧ (updLpe s f).wdt = s.wdt ∧
    (updLpe s f).bist = s.bist ∧ (updLpe s f).sup = s.sup :=
  ⟨rfl, rfl, rfl, rfl, rfl, rfl, rfl, rfl, rfl, rfl, rfl, rfl, rfl, rfl, rfl, rfl, rfl, rfl, rfl, rfl, rfl, rfl, rfl, rfl, rfl, rfl, rfl, rfl, rfl, rfl, rfl, rfl⟩

@[simp] theorem updTrx_trx (s : State) (f : Trx → Trx) : (updTrx s f).trx = f s.trx := rfl

@[simp] theorem updTrx_frame (s : State) (f : Trx → Trx) :
    (updTrx s f).pending = s.pending ∧ (updTrx s f).time = s.time ∧ (updTrx s f).ltHalf = s.ltHalf ∧
    (updTrx s f).free = s.free ∧ (updTrx s f).mem = s.mem ∧ (updTrx s f).yard = s.yard ∧ (updTrx s f).irq = s.irq ∧
    (updTrx s f).trg = s.trg ∧ (updTrx s f).cfg = s.cfg ∧ (updTrx s f).sns = s.sns ∧ (updTrx s f).stl = s.stl ∧
    (updTrx s f).lpe = s.lpe ∧ (updTrx s f).echo = s.echo ∧ (updTrx s f).echoEvt = s.echoEvt ∧
    (updTrx s f).echoEvtEn = s.echoEvtEn ∧ (updTrx s f).gal = s.gal ∧ (updTrx s f).rgy = s.rgy ∧ (updTrx s f).cry = s.cry ∧
    (updTrx s f).pkv = s.pkv ∧ (updTrx s f).zlk = s.zlk ∧ (updTrx s f).dli = s.dli ∧ (updTrx s f).spis = s.spis ∧
    (updTrx s f).uart = s.uart ∧ (updTrx s f).i2c = s.i2c ∧ (updTrx s f).clk = s.clk ∧ (updTrx s f).pwr = s.pwr ∧
    (updTrx s f).act = s.act ∧ (updTrx s f).pio = s.pio ∧ (updTrx s f).boot = s.boot ∧ (updTrx s f).wdt = s.wdt ∧
    (updTrx s f).bist = s.bist ∧ (updTrx s f).sup = s.sup :=
  ⟨rfl, rfl, rfl, rfl, rfl, rfl, rfl, rfl, rfl, rfl, rfl, rfl, rfl, rfl, rfl, rfl, rfl, rfl, rfl, rfl, rfl, rfl, rfl, rfl, rfl, rfl, rfl, rfl, rfl, rfl, rfl, rfl⟩

@[simp] theorem updPkv_pkv (s : State) (f : Pkv → Pkv) : (updPkv s f).pkv = f s.pkv := rfl

@[simp] theorem updPkv_frame (s : State) (f : Pkv → Pkv) :
    (updPkv s f).pending = s.pending ∧ (updPkv s f).time = s.time ∧ (updPkv s f).ltHalf = s.ltHalf ∧
    (updPkv s f).free = s.free ∧ (updPkv s f).mem = s.mem ∧ (updPkv s f).yard = s.yard ∧ (updPkv s f).irq = s.irq ∧
    (updPkv s f).trg = s.trg ∧ (updPkv s f).cfg = s.cfg ∧ (updPkv s f).sns = s.sns ∧ (updPkv s f).stl = s.stl ∧
    (updPkv s f).lpe = s.lpe ∧ (updPkv s f).echo = s.echo ∧ (updPkv s f).echoEvt = s.echoEvt ∧
    (updPkv s f).echoEvtEn = s.echoEvtEn ∧ (updPkv s f).gal = s.gal ∧ (updPkv s f).trx = s.trx ∧ (updPkv s f).rgy = s.rgy ∧
    (updPkv s f).cry = s.cry ∧ (updPkv s f).zlk = s.zlk ∧ (updPkv s f).dli = s.dli ∧ (updPkv s f).spis = s.spis ∧
    (updPkv s f).uart = s.uart ∧ (updPkv s f).i2c = s.i2c ∧ (updPkv s f).clk = s.clk ∧ (updPkv s f).pwr = s.pwr ∧
    (updPkv s f).act = s.act ∧ (updPkv s f).pio = s.pio ∧ (updPkv s f).boot = s.boot ∧ (updPkv s f).wdt = s.wdt ∧
    (updPkv s f).bist = s.bist ∧ (updPkv s f).sup = s.sup :=
  ⟨rfl, rfl, rfl, rfl, rfl, rfl, rfl, rfl, rfl, rfl, rfl, rfl, rfl, rfl, rfl, rfl, rfl, rfl, rfl, rfl, rfl, rfl, rfl, rfl, rfl, rfl, rfl, rfl, rfl, rfl, rfl, rfl⟩

@[simp] theorem updDli_dli (s : State) (f : Dli → Dli) : (updDli s f).dli = f s.dli := rfl

@[simp] theorem updDli_frame (s : State) (f : Dli → Dli) :
    (updDli s f).pending = s.pending ∧ (updDli s f).time = s.time ∧ (updDli s f).ltHalf = s.ltHalf ∧
    (updDli s f).free = s.free ∧ (updDli s f).mem = s.mem ∧ (updDli s f).yard = s.yard ∧ (updDli s f).irq = s.irq ∧
    (updDli s f).trg = s.trg ∧ (updDli s f).cfg = s.cfg ∧ (updDli s f).sns = s.sns ∧ (updDli s f).stl = s.stl ∧
    (updDli s f).lpe = s.lpe ∧ (updDli s f).echo = s.echo ∧ (updDli s f).echoEvt = s.echoEvt ∧
    (updDli s f).echoEvtEn = s.echoEvtEn ∧ (updDli s f).gal = s.gal ∧ (updDli s f).trx = s.trx ∧ (updDli s f).rgy = s.rgy ∧
    (updDli s f).cry = s.cry ∧ (updDli s f).pkv = s.pkv ∧ (updDli s f).zlk = s.zlk ∧ (updDli s f).spis = s.spis ∧
    (updDli s f).uart = s.uart ∧ (updDli s f).i2c = s.i2c ∧ (updDli s f).clk = s.clk ∧ (updDli s f).pwr = s.pwr ∧
    (updDli s f).act = s.act ∧ (updDli s f).pio = s.pio ∧ (updDli s f).boot = s.boot ∧ (updDli s f).wdt = s.wdt ∧
    (updDli s f).bist = s.bist ∧ (updDli s f).sup = s.sup :=
  ⟨rfl, rfl, rfl, rfl, rfl, rfl, rfl, rfl, rfl, rfl, rfl, rfl, rfl, rfl, rfl, rfl, rfl, rfl, rfl, rfl, rfl, rfl, rfl, rfl, rfl, rfl, rfl, rfl, rfl, rfl, rfl, rfl⟩

@[simp] theorem updSpis_spis (s : State) (f : Spis → Spis) : (updSpis s f).spis = f s.spis := rfl

@[simp] theorem updSpis_frame (s : State) (f : Spis → Spis) :
    (updSpis s f).pending = s.pending ∧ (updSpis s f).time = s.time ∧ (updSpis s f).ltHalf = s.ltHalf ∧
    (updSpis s f).free = s.free ∧ (updSpis s f).mem = s.mem ∧ (updSpis s f).yard = s.yard ∧ (updSpis s f).irq = s.irq ∧
    (updSpis s f).trg = s.trg ∧ (updSpis s f).cfg = s.cfg ∧ (updSpis s f).sns = s.sns ∧ (updSpis s f).stl = s.stl ∧
    (updSpis s f).lpe = s.lpe ∧ (updSpis s f).echo = s.echo ∧ (updSpis s f).echoEvt = s.echoEvt ∧
    (updSpis s f).echoEvtEn = s.echoEvtEn ∧ (updSpis s f).gal = s.gal ∧ (updSpis s f).trx = s.trx ∧
    (updSpis s f).rgy = s.rgy ∧ (updSpis s f).cry = s.cry ∧ (updSpis s f).pkv = s.pkv ∧ (updSpis s f).zlk = s.zlk ∧
    (updSpis s f).dli = s.dli ∧ (updSpis s f).uart = s.uart ∧ (updSpis s f).i2c = s.i2c ∧ (updSpis s f).clk = s.clk ∧
    (updSpis s f).pwr = s.pwr ∧ (updSpis s f).act = s.act ∧ (updSpis s f).pio = s.pio ∧ (updSpis s f).boot = s.boot ∧
    (updSpis s f).wdt = s.wdt ∧ (updSpis s f).bist = s.bist ∧ (updSpis s f).sup = s.sup :=
  ⟨rfl, rfl, rfl, rfl, rfl, rfl, rfl, rfl, rfl, rfl, rfl, rfl, rfl, rfl, rfl, rfl, rfl, rfl, rfl, rfl, rfl, rfl, rfl, rfl, rfl, rfl, rfl, rfl, rfl, rfl, rfl, rfl⟩

@[simp] theorem updRgy_rgy (s : State) (f : Rgy → Rgy) : (updRgy s f).rgy = f s.rgy := rfl

@[simp] theorem updRgy_frame (s : State) (f : Rgy → Rgy) :
    (updRgy s f).pending = s.pending ∧ (updRgy s f).time = s.time ∧ (updRgy s f).ltHalf = s.ltHalf ∧
    (updRgy s f).free = s.free ∧ (updRgy s f).mem = s.mem ∧ (updRgy s f).yard = s.yard ∧ (updRgy s f).irq = s.irq ∧
    (updRgy s f).trg = s.trg ∧ (updRgy s f).cfg = s.cfg ∧ (updRgy s f).sns = s.sns ∧ (updRgy s f).stl = s.stl ∧
    (updRgy s f).lpe = s.lpe ∧ (updRgy s f).echo = s.echo ∧ (updRgy s f).echoEvt = s.echoEvt ∧
    (updRgy s f).echoEvtEn = s.echoEvtEn ∧ (updRgy s f).gal = s.gal ∧ (updRgy s f).trx = s.trx ∧ (updRgy s f).cry = s.cry ∧
    (updRgy s f).pkv = s.pkv ∧ (updRgy s f).zlk = s.zlk ∧ (updRgy s f).dli = s.dli ∧ (updRgy s f).spis = s.spis ∧
    (updRgy s f).uart = s.uart ∧ (updRgy s f).i2c = s.i2c ∧ (updRgy s f).clk = s.clk ∧ (updRgy s f).pwr = s.pwr ∧
    (updRgy s f).act = s.act ∧ (updRgy s f).pio = s.pio ∧ (updRgy s f).boot = s.boot ∧ (updRgy s f).wdt = s.wdt ∧
    (updRgy s f).bist = s.bist ∧ (updRgy s f).sup = s.sup :=
  ⟨rfl, rfl, rfl, rfl, rfl, rfl, rfl, rfl, rfl, rfl, rfl, rfl, rfl, rfl, rfl, rfl, rfl, rfl, rfl, rfl, rfl, rfl, rfl, rfl, rfl, rfl, rfl, rfl, rfl, rfl, rfl, rfl⟩

@[simp] theorem updSns_sns (s : State) (f : Sns → Sns) : (updSns s f).sns = f s.sns := rfl

@[simp] theorem updSns_frame (s : State) (f : Sns → Sns) :
    (updSns s f).pending = s.pending ∧ (updSns s f).time = s.time ∧ (updSns s f).ltHalf = s.ltHalf ∧
    (updSns s f).free = s.free ∧ (updSns s f).mem = s.mem ∧ (updSns s f).yard = s.yard ∧ (updSns s f).irq = s.irq ∧
    (updSns s f).trg = s.trg ∧ (updSns s f).cfg = s.cfg ∧ (updSns s f).stl = s.stl ∧ (updSns s f).lpe = s.lpe ∧
    (updSns s f).echo = s.echo ∧ (updSns s f).echoEvt = s.echoEvt ∧ (updSns s f).echoEvtEn = s.echoEvtEn ∧
    (updSns s f).gal = s.gal ∧ (updSns s f).trx = s.trx ∧ (updSns s f).rgy = s.rgy ∧ (updSns s f).cry = s.cry ∧
    (updSns s f).pkv = s.pkv ∧ (updSns s f).zlk = s.zlk ∧ (updSns s f).dli = s.dli ∧ (updSns s f).spis = s.spis ∧
    (updSns s f).uart = s.uart ∧ (updSns s f).i2c = s.i2c ∧ (updSns s f).clk = s.clk ∧ (updSns s f).pwr = s.pwr ∧
    (updSns s f).act = s.act ∧ (updSns s f).pio = s.pio ∧ (updSns s f).boot = s.boot ∧ (updSns s f).wdt = s.wdt ∧
    (updSns s f).bist = s.bist ∧ (updSns s f).sup = s.sup :=
  ⟨rfl, rfl, rfl, rfl, rfl, rfl, rfl, rfl, rfl, rfl, rfl, rfl, rfl, rfl, rfl, rfl, rfl, rfl, rfl, rfl, rfl, rfl, rfl, rfl, rfl, rfl, rfl, rfl, rfl, rfl, rfl, rfl⟩

@[simp] theorem updSup_sup (s : State) (f : Sup → Sup) : (updSup s f).sup = f s.sup := rfl

@[simp] theorem updSup_frame (s : State) (f : Sup → Sup) :
    (updSup s f).pending = s.pending ∧ (updSup s f).time = s.time ∧ (updSup s f).ltHalf = s.ltHalf ∧
    (updSup s f).free = s.free ∧ (updSup s f).mem = s.mem ∧ (updSup s f).yard = s.yard ∧ (updSup s f).irq = s.irq ∧
    (updSup s f).trg = s.trg ∧ (updSup s f).cfg = s.cfg ∧ (updSup s f).sns = s.sns ∧ (updSup s f).stl = s.stl ∧
    (updSup s f).lpe = s.lpe ∧ (updSup s f).echo = s.echo ∧ (updSup s f).echoEvt = s.echoEvt ∧
    (updSup s f).echoEvtEn = s.echoEvtEn ∧ (updSup s f).gal = s.gal ∧ (updSup s f).trx = s.trx ∧ (updSup s f).rgy = s.rgy ∧
    (updSup s f).cry = s.cry ∧ (updSup s f).pkv = s.pkv ∧ (updSup s f).zlk = s.zlk ∧ (updSup s f).dli = s.dli ∧
    (updSup s f).spis = s.spis ∧ (updSup s f).uart = s.uart ∧ (updSup s f).i2c = s.i2c ∧ (updSup s f).clk = s.clk ∧
    (updSup s f).pwr = s.pwr ∧ (updSup s f).act = s.act ∧ (updSup s f).pio = s.pio ∧ (updSup s f).boot = s.boot ∧
    (updSup s f).wdt = s.wdt ∧ (updSup s f).bist = s.bist :=
  ⟨rfl, rfl, rfl, rfl, rfl, rfl, rfl, rfl, rfl, rfl, rfl, rfl, rfl, rfl, rfl, rfl, rfl, rfl, rfl, rfl, rfl, rfl, rfl, rfl, rfl, rfl, rfl, rfl, rfl, rfl, rfl, rfl⟩

@[simp] theorem updPwr_pwr (s : State) (f : Pwr → Pwr) : (updPwr s f).pwr = f s.pwr := rfl

@[simp] theorem updPwr_frame (s : State) (f : Pwr → Pwr) :
    (updPwr s f).pending = s.pending ∧ (updPwr s f).time = s.time ∧ (updPwr s f).ltHalf = s.ltHalf ∧
    (updPwr s f).free = s.free ∧ (updPwr s f).mem = s.mem ∧ (updPwr s f).yard = s.yard ∧ (updPwr s f).irq = s.irq ∧
    (updPwr s f).trg = s.trg ∧ (updPwr s f).cfg = s.cfg ∧ (updPwr s f).sns = s.sns ∧ (updPwr s f).stl = s.stl ∧
    (updPwr s f).lpe = s.lpe ∧ (updPwr s f).echo = s.echo ∧ (updPwr s f).echoEvt = s.echoEvt ∧
    (updPwr s f).echoEvtEn = s.echoEvtEn ∧ (updPwr s f).gal = s.gal ∧ (updPwr s f).trx = s.trx ∧ (updPwr s f).rgy = s.rgy ∧
    (updPwr s f).cry = s.cry ∧ (updPwr s f).pkv = s.pkv ∧ (updPwr s f).zlk = s.zlk ∧ (updPwr s f).dli = s.dli ∧
    (updPwr s f).spis = s.spis ∧ (updPwr s f).uart = s.uart ∧ (updPwr s f).i2c = s.i2c ∧ (updPwr s f).clk = s.clk ∧
    (updPwr s f).act = s.act ∧ (updPwr s f).pio = s.pio ∧ (updPwr s f).boot = s.boot ∧ (updPwr s f).wdt = s.wdt ∧
    (updPwr s f).bist = s.bist ∧ (updPwr s f).sup = s.sup :=
  ⟨rfl, rfl, rfl, rfl, rfl, rfl, rfl, rfl, rfl, rfl, rfl, rfl, rfl, rfl, rfl, rfl, rfl, rfl, rfl, rfl, rfl, rfl, rfl, rfl, rfl, rfl, rfl, rfl, rfl, rfl, rfl, rfl⟩

@[simp] theorem updZlk_zlk (s : State) (f : Zlk → Zlk) : (updZlk s f).zlk = f s.zlk := rfl

@[simp] theorem updZlk_frame (s : State) (f : Zlk → Zlk) :
    (updZlk s f).pending = s.pending ∧ (updZlk s f).time = s.time ∧ (updZlk s f).ltHalf = s.ltHalf ∧
    (updZlk s f).free = s.free ∧ (updZlk s f).mem = s.mem ∧ (updZlk s f).yard = s.yard ∧ (updZlk s f).irq = s.irq ∧
    (updZlk s f).trg = s.trg ∧ (updZlk s f).cfg = s.cfg ∧ (updZlk s f).sns = s.sns ∧ (updZlk s f).stl = s.stl ∧
    (updZlk s f).lpe = s.lpe ∧ (updZlk s f).echo = s.echo ∧ (updZlk s f).echoEvt = s.echoEvt ∧
    (updZlk s f).echoEvtEn = s.echoEvtEn ∧ (updZlk s f).gal = s.gal ∧ (updZlk s f).trx = s.trx ∧ (updZlk s f).rgy = s.rgy ∧
    (updZlk s f).cry = s.cry ∧ (updZlk s f).pkv = s.pkv ∧ (updZlk s f).dli = s.dli ∧ (updZlk s f).spis = s.spis ∧
    (updZlk s f).uart = s.uart ∧ (updZlk s f).i2c = s.i2c ∧ (updZlk s f).clk = s.clk ∧ (updZlk s f).pwr = s.pwr ∧
    (updZlk s f).act = s.act ∧ (updZlk s f).pio = s.pio ∧ (updZlk s f).boot = s.boot ∧ (updZlk s f).wdt = s.wdt ∧
    (updZlk s f).bist = s.bist ∧ (updZlk s f).sup = s.sup :=
  ⟨rfl, rfl, rfl, rfl, rfl, rfl, rfl, rfl, rfl, rfl, rfl, rfl, rfl, rfl, rfl, rfl, rfl, rfl, rfl, rfl, rfl, rfl, rfl, rfl, rfl, rfl, rfl, rfl, rfl, rfl, rfl, rfl⟩

@[simp] theorem updStl_stl (s : State) (n : Fin 32) (f : Stall → Stall) : (updStl s n f).stl = upd s.stl n f := rfl

@[simp] theorem updStl_frame (s : State) (n : Fin 32) (f : Stall → Stall) :
    (updStl s n f).pending = s.pending ∧ (updStl s n f).time = s.time ∧ (updStl s n f).ltHalf = s.ltHalf ∧
    (updStl s n f).free = s.free ∧ (updStl s n f).mem = s.mem ∧ (updStl s n f).yard = s.yard ∧ (updStl s n f).irq = s.irq ∧
    (updStl s n f).trg = s.trg ∧ (updStl s n f).cfg = s.cfg ∧ (updStl s n f).sns = s.sns ∧ (updStl s n f).lpe = s.lpe ∧
    (updStl s n f).echo = s.echo ∧ (updStl s n f).echoEvt = s.echoEvt ∧ (updStl s n f).echoEvtEn = s.echoEvtEn ∧
    (updStl s n f).gal = s.gal ∧ (updStl s n f).trx = s.trx ∧ (updStl s n f).rgy = s.rgy ∧ (updStl s n f).cry = s.cry ∧
    (updStl s n f).pkv = s.pkv ∧ (updStl s n f).zlk = s.zlk ∧ (updStl s n f).dli = s.dli ∧ (updStl s n f).spis = s.spis ∧
    (updStl s n f).uart = s.uart ∧ (updStl s n f).i2c = s.i2c ∧ (updStl s n f).clk = s.clk ∧ (updStl s n f).pwr = s.pwr ∧
    (updStl s n f).act = s.act ∧ (updStl s n f).pio = s.pio ∧ (updStl s n f).boot = s.boot ∧ (updStl s n f).wdt = s.wdt ∧
    (updStl s n f).bist = s.bist ∧ (updStl s n f).sup = s.sup :=
  ⟨rfl, rfl, rfl, rfl, rfl, rfl, rfl, rfl, rfl, rfl, rfl, rfl, rfl, rfl, rfl, rfl, rfl, rfl, rfl, rfl, rfl, rfl, rfl, rfl, rfl, rfl, rfl, rfl, rfl, rfl, rfl, rfl⟩

@[simp] theorem updPdk_cfg (s : State) (p : Fin 8) (f : Paddock → Paddock) : (updPdk s p f).cfg = { s.cfg with pdk := upd s.cfg.pdk p f } := rfl

@[simp] theorem updPdk_frame (s : State) (p : Fin 8) (f : Paddock → Paddock) :
    (updPdk s p f).pending = s.pending ∧ (updPdk s p f).time = s.time ∧ (updPdk s p f).ltHalf = s.ltHalf ∧
    (updPdk s p f).free = s.free ∧ (updPdk s p f).mem = s.mem ∧ (updPdk s p f).yard = s.yard ∧ (updPdk s p f).irq = s.irq ∧
    (updPdk s p f).trg = s.trg ∧ (updPdk s p f).sns = s.sns ∧ (updPdk s p f).stl = s.stl ∧ (updPdk s p f).lpe = s.lpe ∧
    (updPdk s p f).echo = s.echo ∧ (updPdk s p f).echoEvt = s.echoEvt ∧ (updPdk s p f).echoEvtEn = s.echoEvtEn ∧
    (updPdk s p f).gal = s.gal ∧ (updPdk s p f).trx = s.trx ∧ (updPdk s p f).rgy = s.rgy ∧ (updPdk s p f).cry = s.cry ∧
    (updPdk s p f).pkv = s.pkv ∧ (updPdk s p f).zlk = s.zlk ∧ (updPdk s p f).dli = s.dli ∧ (updPdk s p f).spis = s.spis ∧
    (updPdk s p f).uart = s.uart ∧ (updPdk s p f).i2c = s.i2c ∧ (updPdk s p f).clk = s.clk ∧ (updPdk s p f).pwr = s.pwr ∧
    (updPdk s p f).act = s.act ∧ (updPdk s p f).pio = s.pio ∧ (updPdk s p f).boot = s.boot ∧ (updPdk s p f).wdt = s.wdt ∧
    (updPdk s p f).bist = s.bist ∧ (updPdk s p f).sup = s.sup :=
  ⟨rfl, rfl, rfl, rfl, rfl, rfl, rfl, rfl, rfl, rfl, rfl, rfl, rfl, rfl, rfl, rfl, rfl, rfl, rfl, rfl, rfl, rfl, rfl, rfl, rfl, rfl, rfl, rfl, rfl, rfl, rfl, rfl⟩

@[simp] theorem updEcho_echo (s : State) (e : Fin 4) (f : Echo → Echo) : (updEcho s e f).echo = upd s.echo e f := rfl

@[simp] theorem updEcho_frame (s : State) (e : Fin 4) (f : Echo → Echo) :
    (updEcho s e f).pending = s.pending ∧ (updEcho s e f).time = s.time ∧ (updEcho s e f).ltHalf = s.ltHalf ∧
    (updEcho s e f).free = s.free ∧ (updEcho s e f).mem = s.mem ∧ (updEcho s e f).yard = s.yard ∧
    (updEcho s e f).irq = s.irq ∧ (updEcho s e f).trg = s.trg ∧ (updEcho s e f).cfg = s.cfg ∧ (updEcho s e f).sns = s.sns ∧
    (updEcho s e f).stl = s.stl ∧ (updEcho s e f).lpe = s.lpe ∧ (updEcho s e f).echoEvt = s.echoEvt ∧
    (updEcho s e f).echoEvtEn = s.echoEvtEn ∧ (updEcho s e f).gal = s.gal ∧ (updEcho s e f).trx = s.trx ∧
    (updEcho s e f).rgy = s.rgy ∧ (updEcho s e f).cry = s.cry ∧ (updEcho s e f).pkv = s.pkv ∧ (updEcho s e f).zlk = s.zlk ∧
    (updEcho s e f).dli = s.dli ∧ (updEcho s e f).spis = s.spis ∧ (updEcho s e f).uart = s.uart ∧
    (updEcho s e f).i2c = s.i2c ∧ (updEcho s e f).clk = s.clk ∧ (updEcho s e f).pwr = s.pwr ∧ (updEcho s e f).act = s.act ∧
    (updEcho s e f).pio = s.pio ∧ (updEcho s e f).boot = s.boot ∧ (updEcho s e f).wdt = s.wdt ∧
    (updEcho s e f).bist = s.bist ∧ (updEcho s e f).sup = s.sup :=
  ⟨rfl, rfl, rfl, rfl, rfl, rfl, rfl, rfl, rfl, rfl, rfl, rfl, rfl, rfl, rfl, rfl, rfl, rfl, rfl, rfl, rfl, rfl, rfl, rfl, rfl, rfl, rfl, rfl, rfl, rfl, rfl, rfl⟩

@[simp] theorem updUart_uart (s : State) (u : Fin 2) (f : Uart → Uart) : (updUart s u f).uart = upd s.uart u f := rfl

@[simp] theorem updUart_frame (s : State) (u : Fin 2) (f : Uart → Uart) :
    (updUart s u f).pending = s.pending ∧ (updUart s u f).time = s.time ∧ (updUart s u f).ltHalf = s.ltHalf ∧
    (updUart s u f).free = s.free ∧ (updUart s u f).mem = s.mem ∧ (updUart s u f).yard = s.yard ∧
    (updUart s u f).irq = s.irq ∧ (updUart s u f).trg = s.trg ∧ (updUart s u f).cfg = s.cfg ∧ (updUart s u f).sns = s.sns ∧
    (updUart s u f).stl = s.stl ∧ (updUart s u f).lpe = s.lpe ∧ (updUart s u f).echo = s.echo ∧
    (updUart s u f).echoEvt = s.echoEvt ∧ (updUart s u f).echoEvtEn = s.echoEvtEn ∧ (updUart s u f).gal = s.gal ∧
    (updUart s u f).trx = s.trx ∧ (updUart s u f).rgy = s.rgy ∧ (updUart s u f).cry = s.cry ∧ (updUart s u f).pkv = s.pkv ∧
    (updUart s u f).zlk = s.zlk ∧ (updUart s u f).dli = s.dli ∧ (updUart s u f).spis = s.spis ∧ (updUart s u f).i2c = s.i2c ∧
    (updUart s u f).clk = s.clk ∧ (updUart s u f).pwr = s.pwr ∧ (updUart s u f).act = s.act ∧ (updUart s u f).pio = s.pio ∧
    (updUart s u f).boot = s.boot ∧ (updUart s u f).wdt = s.wdt ∧ (updUart s u f).bist = s.bist ∧
    (updUart s u f).sup = s.sup :=
  ⟨rfl, rfl, rfl, rfl, rfl, rfl, rfl, rfl, rfl, rfl, rfl, rfl, rfl, rfl, rfl, rfl, rfl, rfl, rfl, rfl, rfl, rfl, rfl, rfl, rfl, rfl, rfl, rfl, rfl, rfl, rfl, rfl⟩

@[simp] theorem updI2c_i2c (s : State) (i : Fin 2) (f : I2c → I2c) : (updI2c s i f).i2c = upd s.i2c i f := rfl

@[simp] theorem updI2c_frame (s : State) (i : Fin 2) (f : I2c → I2c) :
    (updI2c s i f).pending = s.pending ∧ (updI2c s i f).time = s.time ∧ (updI2c s i f).ltHalf = s.ltHalf ∧
    (updI2c s i f).free = s.free ∧ (updI2c s i f).mem = s.mem ∧ (updI2c s i f).yard = s.yard ∧ (updI2c s i f).irq = s.irq ∧
    (updI2c s i f).trg = s.trg ∧ (updI2c s i f).cfg = s.cfg ∧ (updI2c s i f).sns = s.sns ∧ (updI2c s i f).stl = s.stl ∧
    (updI2c s i f).lpe = s.lpe ∧ (updI2c s i f).echo = s.echo ∧ (updI2c s i f).echoEvt = s.echoEvt ∧
    (updI2c s i f).echoEvtEn = s.echoEvtEn ∧ (updI2c s i f).gal = s.gal ∧ (updI2c s i f).trx = s.trx ∧
    (updI2c s i f).rgy = s.rgy ∧ (updI2c s i f).cry = s.cry ∧ (updI2c s i f).pkv = s.pkv ∧ (updI2c s i f).zlk = s.zlk ∧
    (updI2c s i f).dli = s.dli ∧ (updI2c s i f).spis = s.spis ∧ (updI2c s i f).uart = s.uart ∧ (updI2c s i f).clk = s.clk ∧
    (updI2c s i f).pwr = s.pwr ∧ (updI2c s i f).act = s.act ∧ (updI2c s i f).pio = s.pio ∧ (updI2c s i f).boot = s.boot ∧
    (updI2c s i f).wdt = s.wdt ∧ (updI2c s i f).bist = s.bist ∧ (updI2c s i f).sup = s.sup :=
  ⟨rfl, rfl, rfl, rfl, rfl, rfl, rfl, rfl, rfl, rfl, rfl, rfl, rfl, rfl, rfl, rfl, rfl, rfl, rfl, rfl, rfl, rfl, rfl, rfl, rfl, rfl, rfl, rfl, rfl, rfl, rfl, rfl⟩

@[simp] theorem updWdt_wdt (s : State) (w : Core) (f : Wdt → Wdt) : (updWdt s w f).wdt = upd s.wdt (wdtOf w) f := rfl

@[simp] theorem updWdt_frame (s : State) (w : Core) (f : Wdt → Wdt) :
    (updWdt s w f).pending = s.pending ∧ (updWdt s w f).time = s.time ∧ (updWdt s w f).ltHalf = s.ltHalf ∧
    (updWdt s w f).free = s.free ∧ (updWdt s w f).mem = s.mem ∧ (updWdt s w f).yard = s.yard ∧ (updWdt s w f).irq = s.irq ∧
    (updWdt s w f).trg = s.trg ∧ (updWdt s w f).cfg = s.cfg ∧ (updWdt s w f).sns = s.sns ∧ (updWdt s w f).stl = s.stl ∧
    (updWdt s w f).lpe = s.lpe ∧ (updWdt s w f).echo = s.echo ∧ (updWdt s w f).echoEvt = s.echoEvt ∧
    (updWdt s w f).echoEvtEn = s.echoEvtEn ∧ (updWdt s w f).gal = s.gal ∧ (updWdt s w f).trx = s.trx ∧
    (updWdt s w f).rgy = s.rgy ∧ (updWdt s w f).cry = s.cry ∧ (updWdt s w f).pkv = s.pkv ∧ (updWdt s w f).zlk = s.zlk ∧
    (updWdt s w f).dli = s.dli ∧ (updWdt s w f).spis = s.spis ∧ (updWdt s w f).uart = s.uart ∧ (updWdt s w f).i2c = s.i2c ∧
    (updWdt s w f).clk = s.clk ∧ (updWdt s w f).pwr = s.pwr ∧ (updWdt s w f).act = s.act ∧ (updWdt s w f).pio = s.pio ∧
    (updWdt s w f).boot = s.boot ∧ (updWdt s w f).bist = s.bist ∧ (updWdt s w f).sup = s.sup :=
  ⟨rfl, rfl, rfl, rfl, rfl, rfl, rfl, rfl, rfl, rfl, rfl, rfl, rfl, rfl, rfl, rfl, rfl, rfl, rfl, rfl, rfl, rfl, rfl, rfl, rfl, rfl, rfl, rfl, rfl, rfl, rfl, rfl⟩

/-! ## The four stalls of a paddock -/

theorem mem_stallsOf (p : Fin 8) (n : Fin 32) : n ∈ stallsOf p ↔ pdkOf n = p := by
  revert n
  revert p
  decide

theorem stallsOf_nodup (p : Fin 8) : (stallsOf p).Nodup := by
  revert p
  decide

/-- The stalls of a paddock updated alike: nothing but these stalls changes. -/
theorem foldl_updStl (l : List (Fin 32)) (f : Stall → Stall) (s : State) :
    l.foldl (fun s n => updStl s n f) s = { s with stl := l.foldl (fun v n => upd v n f) s.stl } := by
  induction l generalizing s with
  | nil => rfl
  | cons n t ih => exact ih _

/-- A stall after the stalls of a paddock were updated alike. -/
theorem stl_foldl (p : Fin 8) (f : Stall → Stall) (v : Vector Stall 32) (n : Fin 32) :
    ((stallsOf p).foldl (fun v n => upd v n f) v)[n] = if pdkOf n = p then f v[n] else v[n] := by
  rw [foldl_upd _ _ _ _ (stallsOf_nodup p)]
  simp only [mem_stallsOf]

end Sys2Proof.Machine
end

