-- ==== Sys2Proof/Laws/Frames.lean ====
section
/-!
SUPPORT. Frames: what the operations that many commands share can change, each said once.
-/

namespace Sys2Proof.Machine

open Sys2Proof

/-! ## Power domains and the entry to SLUMBER -/

/-- An aborted entry changes the power controller and releases the held pads, nothing else (R325). -/
theorem fence_frame (s : State) : ∃ P Q, fence s = { s with pwr := P, pio := Q } := by
  unfold fence abortEntry
  repeat' split
  all_goals exact ⟨_, _, rfl⟩

/-- A domain that becomes ready changes the power controller, and for SENSE the sensing block (R320). -/
theorem domUp_frame (s : State) (d : Domain) :
    ∃ P S, domUp s d = { s with pwr := P, sns := S } ∧ P.ready = withBit s.pwr.ready (domBit d) true ∧
      (d ≠ .sense → S = s.sns) := by
  unfold domUp
  split
  · exact ⟨_, _, rfl, rfl, fun h => absurd ‹_› h⟩
  · exact ⟨_, _, rfl, rfl, fun _ => rfl⟩

/-- A domain powered on demand (R320). -/
theorem domDemand_frame (s : State) (d : Domain) :
    ∃ P S, domDemand s d = { s with pwr := P, sns := S } ∧ P.ready = withBit s.pwr.ready (domBit d) true ∧
      bit P.evt 3 = true ∧ (d ≠ .sense → S = s.sns) := by
  obtain ⟨P, S, e, h, g⟩ := domUp_frame s d
  unfold domDemand
  rw [e]
  exact ⟨_, _, rfl, h, bit_withBit _ _ _ _ (by decide), g⟩

theorem domBit_lt (d : Domain) : domBit d < 32 := by
  cases d <;> simp only [domBit] <;> omega

/-! ## Scene posts and trigger routes -/

/-- A scene posted to stalls changes the stalls' posts and the count of dropped actions (R31). -/
theorem postMask_frame (sc : Nat) (mask : W32) (s : State) :
    ∃ v d, postMask sc mask s = { s with stl := v, trg := { s.trg with dropCnt := d } } := by
  unfold postMask
  generalize List.filter _ _ = l
  induction l generalizing s with
  | nil => exact ⟨s.stl, s.trg.dropCnt, rfl⟩
  | cons n t ih =>
    have : ∃ v d, postScene sc s n = { s with stl := v, trg := { s.trg with dropCnt := d } } := by
      unfold postScene
      split
      · exact ⟨_, _, rfl⟩
      · exact ⟨_, _, rfl⟩
    obtain ⟨v, d, e⟩ := this
    obtain ⟨v', d', e'⟩ := ih (postScene sc s n)
    refine ⟨v', d', ?_⟩
    rw [List.foldl_cons, e', e]

/-- A channel that takes effect changes the radio only (R199). -/
theorem chanApply_frame (s : State) : ∃ T, chanApply s = { s with trx := T } := by
  unfold chanApply
  repeat' split
  · exact ⟨_, rfl⟩
  · exact ⟨s.trx, rfl⟩
  · exact ⟨s.trx, rfl⟩

/-- A launch changes the power controller, the pads held and the radio (R181, R325). -/
theorem launchSlot_frame (k : Fin 4) (s : State) : ∃ P Q T, launchSlot k s = { s with pwr := P, pio := Q, trx := T } := by
  obtain ⟨P, Q, e⟩ := fence_frame s
  unfold launchSlot
  rw [e]
  obtain ⟨T, e⟩ := chanApply_frame _
  exact ⟨P, Q, T, e⟩

/-- A route that fires changes only what its enabled actions are about, and the count of dropped actions (R30 to R32). -/
theorem fireRoute_frame (r : Fin 32) (s : State) :
    ∃ V D P Q T Z, fireRoute r s =
      { s with stl := V, trg := { s.trg with dropCnt := D }, pwr := P, pio := Q, trx := T, zlk := Z } ∧
      (bit s.trg.route[r] 13 = false → V = s.stl) ∧ (bit s.trg.route[r] 14 = false → T = s.trx) ∧
      (bit s.trg.route[r] 15 = false → Z = s.zlk) := by
  obtain ⟨v, d, e⟩ := postMask_frame (fld s.trg.route[r] 10 8) s.trg.mask[r] s
  unfold fireRoute
  simp only [e]
  have one : ∃ V D, (if bit s.trg.route[r] 13 = true then { s with stl := v, trg := { s.trg with dropCnt := d } } else s) =
      { s with stl := V, trg := { s.trg with dropCnt := D } } ∧ (bit s.trg.route[r] 13 = false → V = s.stl) := by
    split
    · rename_i b
      exact ⟨v, d, rfl, fun h => nomatch h.symm.trans b⟩
    · exact ⟨s.stl, s.trg.dropCnt, rfl, fun _ => rfl⟩
  obtain ⟨V, D, e1, h1⟩ := one
  rw [e1]
  generalize hk : (⟨fld s.trg.route[r] 17 16 % 4, _⟩ : Fin 4) = k
  have two : ∃ D' P Q T, (if bit s.trg.route[r] 14 = true then
        (if canLaunch { s with stl := V, trg := { s.trg with dropCnt := D } } k = true then
          launchSlot k { s with stl := V, trg := { s.trg with dropCnt := D } }
        else countDrop 1 { s with stl := V, trg := { s.trg with dropCnt := D } })
      else { s with stl := V, trg := { s.trg with dropCnt := D } }) =
      { s with stl := V, trg := { s.trg with dropCnt := D' }, pwr := P, pio := Q, trx := T } ∧
      (bit s.trg.route[r] 14 = false → T = s.trx) := by
    split
    · rename_i b
      split
      · obtain ⟨P, Q, T, e⟩ := launchSlot_frame k { s with stl := V, trg := { s.trg with dropCnt := D } }
        exact ⟨D, P, Q, T, e, fun h => nomatch h.symm.trans b⟩
      · exact ⟨_, s.pwr, s.pio, s.trx, rfl, fun h => nomatch h.symm.trans b⟩
    · exact ⟨D, s.pwr, s.pio, s.trx, rfl, fun _ => rfl⟩
  obtain ⟨D', P, Q, T, e2, h2⟩ := two
  rw [e2]
  split
  · rename_i b
    split
    · exact ⟨V, D', P, Q, T, _, rfl, h1, h2, fun h => nomatch h.symm.trans b⟩
    · exact ⟨V, _, P, Q, T, s.zlk, rfl, h1, h2, fun _ => rfl⟩
  · exact ⟨V, D', P, Q, T, s.zlk, rfl, h1, h2, fun _ => rfl⟩

/-- A source event changes what the enabled actions of its routes are about, TRG_LAST, the count of dropped actions and the latch
of source 47 (R30). -/
theorem fire_frame (src : Nat) (s : State) : ∃ V D L P Q T Z E, fire src s =
    { s with stl := V, trg := { s.trg with dropCnt := D, last := L }, pwr := P, pio := Q, trx := T, zlk := Z
             irq := { s.irq with edge := E } } := by
  have fold : ∀ (l : List (Fin 32)) (s : State), ∃ V D P Q T Z, l.foldl (fun t r => fireRoute r t) s =
      { s with stl := V, trg := { s.trg with dropCnt := D }, pwr := P, pio := Q, trx := T, zlk := Z } := by
    intro l
    induction l with
    | nil => exact fun s => ⟨s.stl, s.trg.dropCnt, s.pwr, s.pio, s.trx, s.zlk, rfl⟩
    | cons r t ih =>
      intro s
      obtain ⟨V, D, P, Q, T, Z, e, _⟩ := fireRoute_frame r s
      obtain ⟨V', D', P', Q', T', Z', e'⟩ := ih (fireRoute r s)
      refine ⟨V', D', P', Q', T', Z', ?_⟩
      rw [List.foldl_cons, e', e]
  unfold fire
  split
  · exact ⟨s.stl, s.trg.dropCnt, s.trg.last, s.pwr, s.pio, s.trx, s.zlk, s.irq.edge, rfl⟩
  · dsimp only
    split
    · exact ⟨s.stl, s.trg.dropCnt, s.trg.last, s.pwr, s.pio, s.trx, s.zlk, s.irq.edge, rfl⟩
    · obtain ⟨V, D, P, Q, T, Z, e⟩ := fold ((idx 32).filter (routeHits s src)) s
      rw [e]
      exact ⟨V, D, src, P, Q, T, Z, _, rfl⟩

/-- A publication on the sense bus changes the stalls' fault causes at most (R150). -/
theorem published_frame (c : Nat) (s : State) : ∃ V, published c s = { s with stl := V } := ⟨_, rfl⟩

/-- A cause added to a stall, or not. -/
theorem causes_if (b : Prop) [Decidable b] (t : Stall) (C : BitVec 9) :
    ∃ D, (if b then { t with causes := C } else t) = { t with causes := D } := by
  split
  · exact ⟨C, rfl⟩
  · exact ⟨t.causes, rfl⟩

/-- A publication leaves each stall as it was, or adds the cause SHORT_OUT to it (R150). -/
theorem published_at (c : Nat) (s : State) (j : Fin 32) : ∃ C, (published c s).stl[j] = { s.stl[j] with causes := C } := by
  unfold published
  dsimp only
  rw [foldl_idx]
  exact causes_if _ _ _

/-- The sense bus reads of the stalls only their commands and ramps (R105). -/
theorem senseVal_stl (s : State) (V : Vector Stall 32) (L : Lpe) (c : Nat)
    (h : ∀ i : Fin 32, V[i].cmd = s.stl[i].cmd ∧ V[i].spr = s.stl[i].spr) :
    senseVal { s with stl := V, lpe := L } c = senseVal s c := by
  unfold senseVal
  repeat' split
  all_goals first
    | rfl
    | exact congrArg BitVec.toInt (h ⟨c - 0x40, by omega⟩).1
    | exact congrArg BitVec.toInt (h ⟨c - 0x60, by omega⟩).2

/-- The sense bus reads of the stalls only their commands and ramps (R105). -/
theorem senseBus_stl (s : State) (V : Vector Stall 32) (L : Lpe) (c : Nat)
    (h : ∀ i : Fin 32, V[i].cmd = s.stl[i].cmd ∧ V[i].spr = s.stl[i].spr) :
    senseBus { s with stl := V, lpe := L } c = senseBus s c :=
  congrArg (fun x => if (decide (c < 0x80) && !unusable s (codeBlock c)) = true then x else 0) (senseVal_stl s V L c h)

end Sys2Proof.Machine
end

