-- ==== Sys2Proof/Laws/Load.lean ====
section
/-!
SUPPORT. Load: what the loader's commands can change, each said once (R57, R61, R65 to R69).
-/

namespace Sys2Proof.Machine

open Sys2Proof

theorem pdkWake_frame (p : Fin 8) (s : State) : ∃ P S, pdkWake p s = { s with pwr := P, sns := S } ∧
    bit P.ready (16 + p.val) = true ∧ (∀ j, j < 32 → bit s.pwr.ready j = true → bit P.ready j = true) ∧ S = s.sns := by
  unfold pdkWake
  split
  · exact ⟨_, _, rfl, ‹_›, fun _ _ h => h, rfl⟩
  · obtain ⟨P, S, e, r, _, f⟩ := domDemand_frame s (.paddock p)
    refine ⟨P, S, e, ?_, fun j hj h => ?_, f (by simp)⟩ <;> rw [r, bit_withBit _ _ _ _ (by omega)]
    · simp [domBit]
    · simp [h]

theorem senseWake_frame (s : State) : ∃ P S, (if domReady s .sense then s else domDemand s .sense) = { s with pwr := P, sns := S } ∧
    bit P.ready 1 = true ∧ (∀ j, j < 32 → bit s.pwr.ready j = true → bit P.ready j = true) := by
  split
  · exact ⟨_, _, rfl, ‹_›, fun _ _ h => h⟩
  · obtain ⟨P, S, e, r, _⟩ := domDemand_frame s .sense
    refine ⟨P, S, e, ?_, fun j hj h => ?_⟩ <;> rw [r, bit_withBit _ _ _ _ (by omega)]
    · rfl
    · simp [h]

/-- PARK (R66, R68). -/
theorem effPark_frame (p : Fin 8) (hold : Bool) (s : State) : ∃ P Q, effPark p hold s = { s with
    cfg := { s.cfg with pdk := upd s.cfg.pdk p (fun q => { q with
      state := .parking, hold := hold, begun := false, holdRun := false, heldCyc := 0 }) }, pwr := P, pio := Q } := by
  obtain ⟨P, Q, f⟩ := fence_frame s
  unfold effPark
  rw [f]
  exact ⟨P, Q, rfl⟩

/-- UNPARK (R65, R70, R319). -/
theorem effUnpark_frame (p : Fin 8) (s : State) : ∃ P Q S, effUnpark p s = { s with
    cfg := { s.cfg with pdk := upd s.cfg.pdk p (fun q => { q with state := .unparking, begun := false }) }
    stl := (stallsOf p).foldl (fun v n => upd v n (fun t => { t with updated := false })) s.stl
    pwr := P, pio := Q, sns := S } ∧ bit P.ready 1 = true ∧ bit P.ready (16 + p.val) = true := by
  obtain ⟨P, Q, f⟩ := fence_frame s
  obtain ⟨P1, S1, a, r1, _, _⟩ := pdkWake_frame p { s with pwr := P, pio := Q }
  obtain ⟨P2, S2, b, r2, m2⟩ := senseWake_frame { s with pwr := P1, sns := S1, pio := Q }
  refine ⟨P2, Q, S2, ?_, r2, m2 _ (by omega) r1⟩
  unfold effUnpark
  rw [f, a]
  simp only [b, foldl_updStl]
  rfl

/-- What an engine's access of one piece can change: memory in the piece, the captures of the access tables, and the yard. -/
theorem dmaPiece_frame (m : Mid) (k : Kind) (a n : Nat) (d : List Byte) (s : State) :
    ∃ A Y, (dmaPiece m k a n d s).2 = { s with act := A, yard := Y } ∨
      (k = .write ∧ (dmaPiece m k a n d s).2 = { s with mem := s.mem.writeN a d, act := A, yard := Y }) := by
  have cd : ∀ s : State, ∀ t w, ∃ A, captureDeny s m t w k = { s with act := A } := by
    intro s t w
    unfold captureDeny
    split
    · exact ⟨s.act, rfl⟩
    · exact ⟨_, rfl⟩
  have gr : ∀ t, ∀ s : State, ∃ Y, grant t m s = { s with yard := Y } := by
    intro t s
    unfold grant
    split
    · exact ⟨s.yard, rfl⟩
    · exact ⟨_, rfl⟩
  unfold dmaPiece
  split
  · exact ⟨_, _, .inl rfl⟩
  · dsimp only
    split
    · exact ⟨_, _, .inl rfl⟩
    · obtain ⟨A, e⟩ := cd (issue s) ‹_› (BitVec.ofNat 32 a)
      exact ⟨A, _, .inl e⟩
    · exact ⟨_, _, .inl rfl⟩
    · repeat' split
      all_goals exact ⟨_, _, .inl rfl⟩
    · rename_i t _
      obtain ⟨Y, e⟩ := gr t (issue s)
      obtain ⟨Y', e'⟩ := gr t { issue s with mem := (issue s).mem.writeN a d }
      rw [e, e']
      split
      · split
        · exact ⟨_, _, .inl rfl⟩
        · rename_i h
          have h : k = .write := by revert h; cases k <;> simp
          split
          · exact ⟨_, _, .inr ⟨h, rfl⟩⟩
          · exact ⟨_, _, .inl rfl⟩
      · repeat' split
        all_goals exact ⟨_, _, .inl rfl⟩

/-- A piece that is read leaves memory as it is. -/
theorem dmaPiece_read (m : Mid) (a n : Nat) (s : State) :
    ∃ A Y, (dmaPiece m .read a n [] s).2 = { s with act := A, yard := Y } := by
  obtain ⟨A, Y, e | ⟨h, _⟩⟩ := dmaPiece_frame m .read a n [] s
  · exact ⟨A, Y, e⟩
  · exact nomatch h

theorem cfgReadL_frame (l : List (Nat × Nat)) (s : State) : ∃ A Y, (cfgReadL l s).2 = { s with act := A, yard := Y } := by
  induction l generalizing s with
  | nil => exact ⟨_, _, rfl⟩
  | cons x t ih =>
    obtain ⟨a, n⟩ := x
    obtain ⟨A, Y, e⟩ := dmaPiece_read .cfg a n s
    simp only [cfgReadL]
    generalize dmaPiece .cfg .read a n [] s = p at e
    obtain ⟨⟨c, b⟩, s1⟩ := p
    obtain rfl := e
    cases c
    case deny => exact ⟨A, Y, rfl⟩
    case dead => exact ⟨A, Y, rfl⟩
    all_goals
      obtain ⟨A', Y', e'⟩ := ih { s with act := A, yard := Y }
      exact ⟨A', Y', e'⟩

theorem cfgRead_frame (a n : Nat) (s : State) : ∃ A Y, (cfgRead a n s).2 = { s with act := A, yard := Y } := cfgReadL_frame _ s

/-- The PKV taken by the loader, its domain powered for it (R245). -/
theorem pkvTake_frame (s : State) : ∃ P S K, pkvTake s = { s with pwr := P, sns := S, pkv := K } := by
  have w : ∃ P S, pkvWake s = { s with pwr := P, sns := S } := by
    unfold pkvWake
    split
    · exact ⟨_, _, rfl⟩
    · obtain ⟨P, S, e, _⟩ := domDemand_frame s .crypto
      exact ⟨P, S, e⟩
  obtain ⟨P, S, w⟩ := w
  unfold pkvTake
  rw [w]
  dsimp only
  split
  · exact ⟨_, _, _, rfl⟩
  · exact ⟨_, _, _, rfl⟩

/-- The first pass has ended in a stage: the load that runs, its phase, and the PKV where a signature is verified (R57). -/
theorem startRun_frame (base : Bool) (p : Fin 8) (src : Nat) (l : List Byte) (g : LoadStage × List Sect) (s : State) :
    ∃ L P S K, startRun base p src l g s = { s with
        cfg := { s.cfg with load := some L, phase := stagePhase g.1 }, pwr := P, sns := S, pkv := K } ∧
      L.base = base ∧ L.pdk = p ∧ L.src = src ∧ L.stage = g.1 := by
  unfold startRun
  obtain ⟨st, se⟩ := g
  cases st
  case sig c o =>
    obtain ⟨P, S, K, e⟩ := pkvTake_frame (updCfg s (fun x => { x with
      load := some { base := base, pdk := p, src := src, baseId := BitVec.ofNat 32 (u32 l 0x14)
                     ver := BitVec.ofNat 32 (u32 l 0x18), sects := se, stage := .sig c o }
      phase := stagePhase (.sig c o) }))
    exact ⟨_, P, S, K, e, rfl, rfl, rfl, rfl⟩
  all_goals exact ⟨_, _, _, _, rfl, rfl, rfl, rfl, rfl⟩

/-- The first pass writes nothing but the load itself (R57). -/
theorem firstPass_frame (base : Bool) (p : Fin 8) (src avail : Nat) (s : State) :
    ∃ L D P S K A Y, firstPass base p src avail s = { s with
        cfg := { s.cfg with load := some L, phase := stagePhase L.stage, digest := D }, pwr := P, sns := S, pkv := K, act := A
        yard := Y } ∧
      L.base = base ∧ L.pdk = p ∧ L.src = src := by
  obtain ⟨A, Y, e⟩ := cfgRead_frame src 64 s
  unfold firstPass
  generalize cfgRead src 64 s = x at e
  obtain ⟨⟨c, hd⟩, s1⟩ := x
  obtain rfl := e
  dsimp only
  have one : ∀ g A Y, ∃ L D P S K A' Y', startRun base p src [] g { s with act := A, yard := Y } = { s with
        cfg := { s.cfg with load := some L, phase := stagePhase L.stage, digest := D }, pwr := P, sns := S, pkv := K, act := A'
        yard := Y' } ∧ L.base = base ∧ L.pdk = p ∧ L.src = src := by
    intro g A Y
    obtain ⟨L, P, S, K, e, a, b, d, h⟩ := startRun_frame base p src [] g { s with act := A, yard := Y }
    exact ⟨L, s.cfg.digest, P, S, K, A, Y, by rw [e, h], a, b, d⟩
  split
  · exact one _ _ _
  · split
    · exact one _ _ _
    · obtain ⟨A2, Y2, e⟩ := cfgRead_frame (src + 64) (u32 hd 8 - 64) { s with act := A, yard := Y }
      generalize cfgRead (src + 64) (u32 hd 8 - 64) { s with act := A, yard := Y } = x at e
      obtain ⟨⟨c2, tl⟩, s2⟩ := x
      obtain rfl := e
      dsimp only
      split
      · exact one _ _ _
      · generalize restStage _ _ _ _ = g
        obtain ⟨L, P, S, K, e, a, b, d, h⟩ := startRun_frame base p src (hd ++ tl) g { s with
          cfg := { s.cfg with digest := imgDigest (hd ++ tl) (u32 (hd ++ tl) 8) }, act := A2, yard := Y2 }
        exact ⟨L, imgDigest (hd ++ tl) (u32 (hd ++ tl) 8), P, S, K, A2, Y2, e.trans (by rw [h]), a, b, d⟩

/-- A task that must wait joins those that wait: the yard, and the domain it needs (R15, R320). -/
theorem joinWait_frame (x : Txn) (s : State) : ∃ P Y, joinWait x s = { s with pwr := P, yard := Y } := by
  unfold joinWait
  split
  · exact ⟨_, _, rfl⟩
  · dsimp only
    split
    · split
      · exact ⟨_, _, rfl⟩
      · exact ⟨_, _, rfl⟩
    · exact ⟨_, _, rfl⟩

/-- A load that begins: its first pass is made, or waits for its source (R57, R71). -/
theorem beginLoad_frame (base : Bool) (p : Fin 8) (src : Nat) (s : State) :
    ∃ L D P S K A Y, beginLoad base p src s = { s with
        cfg := { s.cfg with load := some L, phase := stagePhase L.stage, digest := D }, pwr := P, sns := S, pkv := K, act := A
        yard := Y } ∧
      L.base = base ∧ L.pdk = p ∧ L.src = src := by
  unfold beginLoad engineRun
  dsimp only
  generalize hz : updCfg s _ = z
  have hr : ∀ e, readSource (updEng z e) = firstPass base p src (srcAvail base src) (updEng z e) := by
    intro e
    subst hz
    rfl
  rw [hr]
  obtain ⟨L, D, P, S, K, A, Y, e, a, b, d⟩ := firstPass_frame base p src (srcAvail base src)
    (updEng z (fun e => { e with got := [], stuck := none }))
  rw [e]
  subst hz
  split
  · exact ⟨L, D, P, S, K, A, _, rfl, a, b, d⟩
  · rename_i x _
    obtain ⟨P', Y', e'⟩ := joinWait_frame { x with cont := some { task := .event .loadEnd, got := [] } } (updCfg s (fun c => { c with
      load := some { base := base, pdk := p, src := src, stage := .reading }, phase := stagePhase .reading }))
    exact ⟨{ base := base, pdk := p, src := src, stage := .reading }, s.cfg.digest, P', s.sns, s.pkv, s.act, Y', e', rfl, rfl, rfl⟩

theorem foldl_updStl_each (l : List (Fin 32)) (f : Fin 32 → Stall → Stall) (s : State) :
    l.foldl (fun s n => updStl s n (f n)) s = { s with stl := l.foldl (fun v n => upd v n (f n)) s.stl } := by
  induction l generalizing s with
  | nil => rfl
  | cons n t ih => exact ih _

theorem stl_foldl_each (p : Fin 8) (f : Fin 32 → Stall → Stall) (v : Vector Stall 32) (n : Fin 32) :
    ((stallsOf p).foldl (fun v n => upd v n (f n)) v)[n] = if pdkOf n = p then f n v[n] else v[n] := by
  rw [foldl_upd_all _ _ _ _ (stallsOf_nodup p)]
  simp only [mem_stallsOf]

/-- The windows of a paddock that is loaded return to their reset values (R69). -/
theorem loadReset_frame (p : Fin 8) (s : State) : ∃ V, loadReset p s = { s with
    stl := V, cfg := { s.cfg with pdk := upd s.cfg.pdk p (fun q => { q with tag := 0 }) } } ∧
    (∀ n, pdkOf n = p → V[n].en = false ∧ V[n].lane = (Stall.atReset n).lane) ∧ ∀ n, pdkOf n ≠ p → V[n] = s.stl[n] := by
  unfold loadReset
  simp only
  rw [foldl_updStl_each]
  refine ⟨_, rfl, fun n h => ?_, fun n h => ?_⟩
  · rw [stl_foldl_each, if_pos h]
    exact ⟨rfl, rfl⟩
  · rw [stl_foldl_each, if_neg h]

/-- LOAD (R65, R69, R71). -/
theorem effLoad_frame (p : Fin 8) (s : State) : ∃ L D V P Q S K A Y, effLoad p s = { s with
    cfg := { s.cfg with load := some L, phase := stagePhase L.stage, digest := D, statPdk := p.val
                        pdk := upd s.cfg.pdk p (fun q => { q with state := .loading, tag := 0 }) }
    stl := V, pwr := P, pio := Q, sns := S, pkv := K, act := A, yard := Y } ∧
    L.base = false ∧ L.pdk = p ∧ L.src = s.cfg.src.toNat ∧
    (∀ n, pdkOf n = p → V[n].en = false ∧ V[n].lane = (Stall.atReset n).lane) ∧ ∀ n, pdkOf n ≠ p → V[n] = s.stl[n] := by
  obtain ⟨P, Q, f⟩ := fence_frame s
  obtain ⟨P1, S1, a, _⟩ := pdkWake_frame p { s with pwr := P, pio := Q }
  obtain ⟨V, b, v1, v2⟩ := loadReset_frame p { s with
    pwr := P1, sns := S1, pio := Q, cfg := { s.cfg with pdk := upd s.cfg.pdk p (fun q => { q with state := .loading }) } }
  have hp : upd (upd s.cfg.pdk p (fun q => { q with state := .loading })) p (fun q => { q with tag := 0 }) =
      upd s.cfg.pdk p (fun q => { q with state := .loading, tag := 0 }) := by
    simp [upd]
  have e := (congrArg (loadReset p) (show updPdk (pdkWake p (fence s)) p (fun q => { q with state := .loading }) = _ by
    rw [f, a]
    rfl)).trans b
  unfold effLoad
  rw [e]
  simp only [updCfg, hp]
  split
  · obtain ⟨L, D, P2, S2, K, A, Y, g, l1, l2, l3⟩ := beginLoad_frame false p s.cfg.src.toNat { s with
      cfg := { s.cfg with statPdk := p.val, pdk := upd s.cfg.pdk p (fun q => { q with state := .loading, tag := 0 }) }
      stl := V, pwr := P1, pio := Q, sns := S1 }
    exact ⟨L, D, V, P2, Q, S2, K, A, Y, g, l1, l2, l3, v1, v2⟩
  · obtain ⟨L, P2, S2, K, g, l1, l2, l3, l4⟩ := startRun_frame false p s.cfg.src.toNat [] (.checked 0x51 0, []) { s with
      cfg := { s.cfg with statPdk := p.val, pdk := upd s.cfg.pdk p (fun q => { q with state := .loading, tag := 0 }) }
      stl := V, pwr := P1, pio := Q, sns := S1 }
    exact ⟨L, s.cfg.digest, V, P2, Q, S2, K, s.act, s.yard, g.trans (by rw [l4]), l1, l2, l3, v1, v2⟩

/-- LOAD_BASE, once per reset (R61). -/
theorem effLoadBase_frame (s : State) (h : s.cfg.load = none) (u : s.cfg.baseUsed = false) :
    ∃ L D P S K A Y, effLoadBase s = { s with
      cfg := { s.cfg with baseUsed := true, load := some L, phase := stagePhase L.stage, digest := D }, pwr := P, sns := S, pkv := K
      act := A, yard := Y } ∧
      L.base = true ∧ L.src = s.cfg.src.toNat := by
  unfold effLoadBase
  simp only [h, u]
  obtain ⟨L, D, P, S, K, A, Y, e, a, _, b⟩ := beginLoad_frame true 0 s.cfg.src.toNat (updCfg s (fun c => { c with baseUsed := true }))
  exact ⟨L, D, P, S, K, A, Y, e, a, b⟩

/-- A paddock command that R65 allows reaches its effect. -/
theorem effCfgCmd_pdk (m : Mid) (op : Nat) (p : Fin 8) (d : W32) (s : State) (hop : fld d 2 0 = op) (ho : 1 ≤ op ∧ op ≤ 4)
    (hp : fld d 6 4 % 8 = p.val) : effCfgCmd m d s = effPdkCmd op p (bit d 8) s := by
  have : (⟨fld d 6 4 % 8, Nat.mod_lt _ (by decide)⟩ : Fin 8) = p := Fin.ext hp
  unfold effCfgCmd
  simp only [hop, this]
  rcases op with _ | _ | _ | _ | _ | op
  all_goals first | rfl | omega

end Sys2Proof.Machine
end

