-- ==== Sys2Proof/Laws/Mem.lean ====
section
/-!
SUPPORT. Mem: the memory of R23 keeps its canonical form under every operation, and reads give what was written.
-/

namespace Sys2Proof.Machine

open Sys2Proof

/-! ## Sorted lists -/

/-- Every key of a list lies above a bound. -/
theorem rising_cons {α : Type} (a : Nat) (v : α) (l : List (Nat × α)) :
    rising ((a, v) :: l) = true ↔ (∀ c ∈ l, a < c.1) ∧ rising l = true := by
  induction l generalizing a v with
  | nil => simp [rising]
  | cons c t ih =>
    obtain ⟨b, w⟩ := c
    simp only [rising, Bool.and_eq_true, decide_eq_true_eq, List.mem_cons, forall_eq_or_imp]
    constructor
    · rintro ⟨h1, h2⟩
      exact ⟨⟨h1, fun c hc => Nat.lt_trans h1 (((ih b w).1 h2).1 c hc)⟩, h2⟩
    · rintro ⟨⟨h1, -⟩, h2⟩
      exact ⟨h1, h2⟩

/-- A list filtered stays sorted. -/
theorem rising_filter {α : Type} (p : Nat × α → Bool) (l : List (Nat × α)) (h : rising l = true) :
    rising (l.filter p) = true := by
  induction l with
  | nil => rfl
  | cons c t ih =>
    obtain ⟨b, w⟩ := c
    rw [rising_cons] at h
    rw [List.filter_cons]
    split
    · rw [rising_cons]
      exact ⟨fun c hc => h.1 c (List.mem_of_mem_filter hc), ih h.2⟩
    · exact ih h.2

/-- The entries after an insertion. -/
theorem mem_putCell {α : Type} {a : Nat} {v : α} {l : List (Nat × α)} {c : Nat × α} (h : c ∈ putCell a v l) :
    c = (a, v) ∨ c ∈ l := by
  induction l with
  | nil => simpa [putCell] using h
  | cons d t ih =>
    obtain ⟨k, w⟩ := d
    simp only [putCell] at h
    split at h
    · rcases List.mem_cons.1 h with h | h <;> simp [h]
    · split at h
      · rcases List.mem_cons.1 h with h | h
        · exact .inl h
        · exact .inr h
      · rcases List.mem_cons.1 h with h | h
        · simp [h]
        · rcases ih h with h | h <;> simp [h]

/-- An insertion keeps the list sorted. -/
theorem rising_putCell {α : Type} (a : Nat) (v : α) (l : List (Nat × α)) (h : rising l = true) :
    rising (putCell a v l) = true := by
  induction l with
  | nil => rfl
  | cons d t ih =>
    obtain ⟨k, w⟩ := d
    have h' := (rising_cons k w t).1 h
    simp only [putCell]
    split
    · rename_i e
      subst e
      rw [rising_cons]
      exact h'
    · split
      · rename_i hlt
        rw [rising_cons]
        refine ⟨fun c hc => ?_, h⟩
        rcases List.mem_cons.1 hc with rfl | hc
        · exact hlt
        · exact Nat.lt_trans hlt (h'.1 c hc)
      · rename_i h1 h2
        rw [rising_cons]
        refine ⟨fun c hc => ?_, ih h'.2⟩
        rcases mem_putCell hc with rfl | hc
        · show k < a
          omega
        · exact h'.1 c hc

/-- The entries after a removal. -/
theorem mem_dropCell {α : Type} {a : Nat} {l : List (Nat × α)} {c : Nat × α} (h : c ∈ dropCell a l) : c ∈ l := by
  induction l with
  | nil => exact h
  | cons d t ih =>
    obtain ⟨k, w⟩ := d
    simp only [dropCell] at h
    split at h
    · exact List.mem_cons_of_mem _ h
    · rcases List.mem_cons.1 h with h | h
      · simp [h]
      · exact List.mem_cons_of_mem _ (ih h)

/-- A removal keeps the list sorted. -/
theorem rising_dropCell {α : Type} (a : Nat) (l : List (Nat × α)) (h : rising l = true) : rising (dropCell a l) = true := by
  induction l with
  | nil => rfl
  | cons d t ih =>
    obtain ⟨k, w⟩ := d
    have h' := (rising_cons k w t).1 h
    simp only [dropCell]
    split
    · exact h'.2
    · rw [rising_cons]
      exact ⟨fun c hc => h'.1 c (mem_dropCell hc), ih h'.2⟩

/-- Nothing is found below the first key. -/
theorem getCell_below {α : Type} {a : Nat} {l : List (Nat × α)} (h : ∀ c ∈ l, a < c.1) : getCell l a = none := by
  cases l with
  | nil => rfl
  | cons d t =>
    have := h d (by simp)
    simp [getCell, this, Nat.ne_of_gt this]

/-- What an insertion binds is found. -/
theorem getCell_putCell_same {α : Type} (a : Nat) (v : α) (l : List (Nat × α)) : getCell (putCell a v l) a = some v := by
  induction l with
  | nil => simp [putCell, getCell]
  | cons d t ih =>
    obtain ⟨k, w⟩ := d
    simp only [putCell]
    split
    · simp [getCell]
    · split
      · simp [getCell]
      · rename_i h1 h2
        simp [getCell, h1, h2, ih]

/-- An insertion leaves every other key as it was. -/
theorem getCell_putCell_other {α : Type} {a b : Nat} (v : α) (l : List (Nat × α)) (h : b ≠ a) :
    getCell (putCell a v l) b = getCell l b := by
  induction l with
  | nil =>
    have : a ≠ b := fun e => h e.symm
    simp [putCell, getCell, this]
  | cons d t ih =>
    obtain ⟨k, w⟩ := d
    have ha : a ≠ b := fun e => h e.symm
    simp only [putCell]
    split
    · rename_i e
      subst e
      simp [getCell, ha]
    · split
      · rename_i h1 h2
        by_cases hb : b < a
        · simp only [getCell, ha, if_false, hb, if_true]
          have : k ≠ b := by omega
          have : b < k := by omega
          simp [*]
        · simp [getCell, ha, hb]
      · simp only [getCell, ih]

/-- A removed key is not found in a sorted list. -/
theorem getCell_dropCell_same {α : Type} (a : Nat) (l : List (Nat × α)) (h : rising l = true) :
    getCell (dropCell a l) a = none := by
  induction l with
  | nil => rfl
  | cons d t ih =>
    obtain ⟨k, w⟩ := d
    have h' := (rising_cons k w t).1 h
    simp only [dropCell]
    split
    · rename_i e
      subst e
      exact getCell_below h'.1
    · rename_i e
      simp only [getCell, e, if_false]
      split
      · rfl
      · exact ih h'.2

/-- A removal leaves every other key as it was, in a sorted list. -/
theorem getCell_dropCell_other {α : Type} {a b : Nat} (l : List (Nat × α)) (h : rising l = true) (hb : b ≠ a) :
    getCell (dropCell a l) b = getCell l b := by
  induction l with
  | nil => rfl
  | cons d t ih =>
    obtain ⟨k, w⟩ := d
    have h' := (rising_cons k w t).1 h
    simp only [dropCell]
    split
    · rename_i e
      subst e
      have : k ≠ b := fun e => hb e.symm
      simp only [getCell, this, if_false]
      split
      · rename_i hlt
        exact getCell_below (fun c hc => Nat.lt_trans hlt (h'.1 c hc))
      · rfl
    · simp only [getCell, ih h'.2]

/-! ## The canonical form -/

/-- The form as a proposition. -/
theorem Mem.wf_iff (m : Mem) :
    m.wf = true ↔ rising m.cells = true ∧ ∀ c ∈ m.cells, c.2 ≠ memDefault m.lost c.1 := by
  simp [Mem.wf]

/-- A write keeps the form. -/
theorem Mem.wf_write (m : Mem) (a : Nat) (v : Byte) (h : m.wf = true) : (m.write a v).wf = true := by
  rw [Mem.wf_iff] at *
  simp only [Mem.write]
  split
  · exact ⟨rising_dropCell a _ h.1, fun c hc => h.2 c (mem_dropCell hc)⟩
  · rename_i hv
    refine ⟨rising_putCell a v _ h.1, fun c hc => ?_⟩
    rcases mem_putCell hc with rfl | hc
    · exact hv
    · exact h.2 c hc

/-- A write of several bytes keeps the form. -/
theorem Mem.wf_writeN (m : Mem) (a : Nat) (l : List Byte) (h : m.wf = true) : (m.writeN a l).wf = true := by
  induction l generalizing m a with
  | nil => exact h
  | cons b t ih => exact ih _ _ (Mem.wf_write m a b h)

/-- A clear keeps the form. -/
theorem Mem.wf_clear (m : Mem) (lo hi : Nat) (h : m.wf = true) : (m.clear lo hi).wf = true := by
  rw [Mem.wf_iff] at *
  exact ⟨rising_filter _ _ h.1, fun c hc => h.2 c (List.mem_of_mem_filter hc)⟩

/-- Outside bank `k` an unlisted address reads the same however often the bank's contents were lost. -/
theorem memDefault_set (lost : Vector Nat 8) (k : Fin 8) (x a : Nat)
    (h : ¬ (0x20000000 + k.val * 0x10000 ≤ a ∧ a < 0x20010000 + k.val * 0x10000)) :
    memDefault (lost.set k.val x) a = memDefault lost a := by
  unfold memDefault
  split
  · rfl
  split
  · rfl
  split
  · rename_i hr
    have : k.val ≠ (a - 0x20000000) / 0x10000 := by omega
    simp [Vector.getElem_set_ne, this]
  · rfl

/-- A bank emptied keeps the form, whatever its loss count becomes. -/
theorem Mem.wf_empty (m : Mem) (k : Fin 8) (x : Nat) (h : m.wf = true) :
    Mem.wf { cells := m.cells.filter (fun c => !(0x20000000 + k.val * 0x10000 ≤ c.1 && c.1 < 0x20010000 + k.val * 0x10000))
             lost := m.lost.set k.val x } = true := by
  rw [Mem.wf_iff] at *
  refine ⟨rising_filter _ _ h.1, fun c hc => ?_⟩
  rw [List.mem_filter] at hc
  have h2 := hc.2
  simp only [Bool.not_eq_true', Bool.and_eq_false_iff, decide_eq_false_iff_not] at h2
  rw [memDefault_set _ _ _ _ (by omega)]
  exact h.2 c hc.1

/-- A loss of a bank keeps the form. -/
theorem Mem.wf_lose (m : Mem) (k : Fin 8) (h : m.wf = true) : (m.lose k).wf = true := Mem.wf_empty m k _ h

/-- A bank zeroed keeps the form. -/
theorem Mem.wf_zeroBank (m : Mem) (k : Fin 8) (h : m.wf = true) : (m.zeroBank k).wf = true := Mem.wf_empty m k _ h

/-- Memory with nothing listed has the form. -/
theorem Mem.wf_reset : State.reset.mem.wf = true := by decide

/-! ## Reads after writes -/

/-- A read of the byte just written. -/
theorem Mem.read_write_same (m : Mem) (a : Nat) (v : Byte) (h : m.wf = true) : (m.write a v).read a = v := by
  have hr := ((Mem.wf_iff m).1 h).1
  by_cases hv : v = memDefault m.lost a
  · simp only [Mem.read, Mem.write, if_pos hv, getCell_dropCell_same a _ hr]
    exact hv.symm
  · simp only [Mem.read, Mem.write, if_neg hv, getCell_putCell_same]

/-- A read of any other byte. -/
theorem Mem.read_write_other (m : Mem) {a b : Nat} (v : Byte) (h : m.wf = true) (hb : b ≠ a) :
    (m.write a v).read b = m.read b := by
  have hr := ((Mem.wf_iff m).1 h).1
  by_cases hv : v = memDefault m.lost a
  · simp only [Mem.read, Mem.write, if_pos hv, getCell_dropCell_other _ hr hb]
  · simp only [Mem.read, Mem.write, if_neg hv, getCell_putCell_other v _ hb]

/-- Bytes outside a written range read as before. -/
theorem Mem.read_writeN_other (m : Mem) (a : Nat) (l : List Byte) (h : m.wf = true) {b : Nat}
    (hb : b < a ∨ a + l.length ≤ b) : (m.writeN a l).read b = m.read b := by
  induction l generalizing m a with
  | nil => rfl
  | cons v t ih =>
    simp only [List.length_cons] at hb
    show (Mem.writeN (m.write a v) (a + 1) t).read b = m.read b
    rw [ih _ _ (Mem.wf_write m a v h) (by omega), Mem.read_write_other m v h (by omega)]

/-- A read of the bytes just written. -/
theorem Mem.readN_writeN_same (m : Mem) (a : Nat) (l : List Byte) (h : m.wf = true) :
    (m.writeN a l).readN a l.length = l := by
  induction l generalizing m a with
  | nil => rfl
  | cons v t ih =>
    show (Mem.writeN (m.write a v) (a + 1) t).read a :: (Mem.writeN (m.write a v) (a + 1) t).readN (a + 1) t.length = v :: t
    rw [ih _ _ (Mem.wf_write m a v h), Mem.read_writeN_other _ _ _ (Mem.wf_write m a v h) (by omega),
      Mem.read_write_same m a v h]

end Sys2Proof.Machine
end

