-- ==== Sys2Proof/Laws/Dma.lean ====
section
/-!
SUPPORT. Dma: what the accesses of the block's own masters can change (R21, R225): of memory only the bytes of the range, and besides
only the captures of the access tables, the yard, and the domain that a waiting access needs.
-/

namespace Sys2Proof.Machine

open Sys2Proof

/-- Two states that differ at most in what the accesses of an engine change, and in memory only from `lo` to below `hi`. -/
def stores (lo hi : Nat) (s t : State) : Prop :=
  (∃ M P A Y, t = { s with mem := M, pwr := P, act := A, yard := Y }) ∧
  (s.mem.wf = true → t.mem.wf = true ∧ ∀ a, a < lo ∨ hi ≤ a → t.mem.read a = s.mem.read a)

theorem stores_refl (lo hi : Nat) (s : State) : stores lo hi s s := ⟨⟨_, _, _, _, rfl⟩, fun h => ⟨h, fun _ _ => rfl⟩⟩

theorem stores_trans {lo hi : Nat} {s t u : State} (h : stores lo hi s t) (g : stores lo hi t u) : stores lo hi s u := by
  obtain ⟨⟨M, P, A, Y, rfl⟩, h⟩ := h
  obtain ⟨⟨M', P', A', Y', rfl⟩, g⟩ := g
  refine ⟨⟨M', P', A', Y', rfl⟩, fun k => ?_⟩
  obtain ⟨h1, h2⟩ := h k
  obtain ⟨g1, g2⟩ := g h1
  exact ⟨g1, fun a ha => (g2 a ha).trans (h2 a ha)⟩

/-- Within a range that is wider. -/
theorem stores_mono {lo hi lo' hi' : Nat} {s t : State} (h : stores lo hi s t) (l : lo' ≤ lo ∧ hi ≤ hi') : stores lo' hi' s t :=
  ⟨h.1, fun k => ⟨(h.2 k).1, fun a ha => (h.2 k).2 a (by omega)⟩⟩

/-- A change that leaves memory is within any range. -/
theorem stores_rest {s : State} (lo hi : Nat) (P : Pwr) (A : Act) (Y : Yard) :
    stores lo hi s { s with pwr := P, act := A, yard := Y } := ⟨⟨_, _, _, _, rfl⟩, fun h => ⟨h, fun _ _ => rfl⟩⟩

/-- A piece that is read changes no memory. -/
theorem stores_read (lo hi : Nat) (s : State) (m : Mid) (a n : Nat) : stores lo hi s (dmaPiece m .read a n [] s).2 := by
  obtain ⟨A, Y, e⟩ := dmaPiece_read m a n s
  rw [e]
  exact stores_rest lo hi s.pwr A Y

/-- A piece that is written changes no byte outside a range that holds it. -/
theorem stores_write (s : State) (m : Mid) (a n lo hi : Nat) (d : List Byte) (h : lo ≤ a ∧ a + n ≤ hi) (l : d.length ≤ n) :
    stores lo hi s (dmaPiece m .write a n d s).2 := by
  obtain ⟨A, Y, e | ⟨_, e⟩⟩ := dmaPiece_frame m .write a n d s
  · rw [e]
    exact stores_rest lo hi s.pwr A Y
  · rw [e]
    exact ⟨⟨_, _, _, _, rfl⟩, fun k => ⟨Mem.wf_writeN _ _ _ k, fun b hb => Mem.read_writeN_other _ _ _ k (by omega)⟩⟩

/-- Every piece of a range lies in the range. -/
theorem mem_pieces {fuel a n : Nat} {x : Nat × Nat} (h : x ∈ pieces fuel a n) : a ≤ x.1 ∧ x.1 + x.2 ≤ a + n := by
  induction fuel generalizing a n with
  | zero => simp [pieces] at h
  | succ f ih =>
    unfold pieces at h
    split at h
    · simp at h
    · rename_i hn
      have hp : pieceSize a n ≤ n := by unfold pieceSize; repeat' split
                                        all_goals omega
      rcases List.mem_cons.1 h with rfl | h
      · exact ⟨Nat.le_refl _, by simpa using hp⟩
      · have := ih h
        omega

/-- A read by an engine changes no memory. -/
theorem dmaRead_frame (m : Mid) (a n lo hi : Nat) (s : State) : stores lo hi s (dmaRead m a n s).2 := by
  unfold dmaRead
  generalize pieces n a n = l
  induction l generalizing s with
  | nil => exact stores_refl _ _ s
  | cons x t ih =>
    obtain ⟨a, n⟩ := x
    have q := stores_read lo hi s m a n
    simp only [dmaReadL]
    generalize dmaPiece m .read a n [] s = p at q
    obtain ⟨⟨c, _⟩, s1⟩ := p
    cases c
    case okay => exact stores_trans q (ih s1)
    all_goals exact q

/-- A write in pieces changes no byte outside a range that holds every piece. -/
theorem dmaWriteL_frame (m : Mid) (lo hi : Nat) (l : List (Nat × Nat)) (b : List Byte) (w : Nat) (s : State)
    (h : ∀ x ∈ l, lo ≤ x.1 ∧ x.1 + x.2 ≤ hi) : stores lo hi s (dmaWriteL m l b w s).2 := by
  induction l generalizing s b w with
  | nil => exact stores_refl _ _ s
  | cons x t ih =>
    obtain ⟨a, n⟩ := x
    have q := stores_write s m a n lo hi (b.take n) (h (a, n) List.mem_cons_self) (List.length_take_le n b)
    simp only [dmaWriteL]
    generalize dmaPiece m .write a n (b.take n) s = p at q
    obtain ⟨⟨c, _⟩, s1⟩ := p
    cases c
    case okay => exact stores_trans q (ih (b.drop n) (w + n) s1 (fun y hy => h y (List.mem_cons_of_mem _ hy)))
    all_goals exact q

/-- A write by an engine changes no byte outside its range. -/
theorem dmaWrite_frame (m : Mid) (a : Nat) (l : List Byte) (s : State) : stores a (a + l.length) s (dmaWrite m a l s).2 :=
  dmaWriteL_frame m a (a + l.length) _ l 0 s (fun _ hx => mem_pieces hx)

/-- Zeroing in pieces changes no byte outside a range that holds every piece. -/
theorem dmaZeroL_frame (m : Mid) (lo hi : Nat) (l : List (Nat × Nat)) (s : State) (h : ∀ x ∈ l, lo ≤ x.1 ∧ x.1 + x.2 ≤ hi) :
    stores lo hi s (dmaZeroL m l s).2 := by
  induction l generalizing s with
  | nil => exact stores_refl _ _ s
  | cons x t ih =>
    obtain ⟨a, n⟩ := x
    have q := stores_write s m a n lo hi (List.replicate n 0) (h (a, n) List.mem_cons_self) (by simp)
    simp only [dmaZeroL]
    generalize dmaPiece m .write a n (List.replicate n 0) s = p at q
    obtain ⟨⟨c, _⟩, s1⟩ := p
    have g := stores_trans q (ih s1 (fun y hy => h y (List.mem_cons_of_mem _ hy)))
    cases c
    all_goals exact g

/-- Zeroing by an engine changes no byte outside its range. -/
theorem dmaZero_frame (m : Mid) (a n : Nat) (s : State) : stores a (a + n) s (dmaZero m a n s).2 :=
  dmaZeroL_frame m a (a + n) _ s (fun _ hx => mem_pieces hx)

/-! ## Tasks (log 20) -/

/-- A task that waits changes no memory. -/
theorem stores_joinWait (lo hi : Nat) (x : Txn) (s : State) : stores lo hi s (joinWait x s) := by
  obtain ⟨P, Y, e⟩ := joinWait_frame x s
  rw [e]
  exact stores_rest lo hi P s.act Y

/-- A task whose effect is within a range is within it, made now or waiting. -/
theorem engineRun_frame (lo hi : Nat) (k : Task) (got : List Resp) (f : State → State) (s : State)
    (h : ∀ t, stores lo hi t (f t)) : stores lo hi s (engineRun k got f s) := by
  have q := stores_trans (stores_rest lo hi s.pwr s.act { s.yard with eng := { s.yard.eng with got := got, stuck := none } })
    (h { s with yard := { s.yard with eng := { s.yard.eng with got := got, stuck := none } } })
  have e : updEng s (fun e => { e with got := got, stuck := none }) =
    { s with yard := { s.yard with eng := { s.yard.eng with got := got, stuck := none } } } := rfl
  unfold engineRun
  dsimp only
  rw [e]
  split
  · exact stores_trans q (stores_rest lo hi _ _ _)
  · exact stores_joinWait lo hi _ s

theorem post_of (lo hi : Nat) (k : Task) (s : State) (h : ∀ t, stores lo hi t (taskEffect k t)) : stores lo hi s (post k s) := by
  have q := engineRun_frame lo hi k [] (taskEffect k) (updEng s (fun _ => {})) h
  exact stores_trans (stores_trans (stores_rest lo hi s.pwr s.act { s.yard with eng := {} }) q) (stores_rest lo hi _ _ _)

/-- A store that an engine does not wait for changes no byte outside its range. -/
theorem post_store (m : Mid) (a : Nat) (l : List Byte) (s : State) : stores a (a + l.length) s (post (.store m a l) s) :=
  post_of _ _ _ s (fun t => dmaWrite_frame m a l t)

/-- A word whose bit is rewritten changes no byte outside the word. -/
theorem post_setBit (m : Mid) (a i : Nat) (b : Bool) (s : State) : stores a (a + 4) s (post (.setBit m a i b) s) := by
  refine post_of _ _ _ s (fun t => ?_)
  have q := dmaRead_frame m a 4 a (a + 4) t
  simp only [taskEffect]
  generalize dmaRead m a 4 t = p at q
  obtain ⟨⟨c, l⟩, s1⟩ := p
  cases c
  case okay => exact stores_trans q (dmaWrite_frame m a (leBytes 4 _) s1)
  all_goals exact q

end Sys2Proof.Machine
end

