-- ==== Sys2Proof/Laws/Engines.lean ====
section
/-!
SUPPORT. Engines: when the yard has nothing waiting, and when an engine's event runs at once (R15, R16, log 20).
-/

namespace Sys2Proof.Machine

open Sys2Proof

/-- Where nothing waits, nothing goes on. -/
theorem settle_idle {s : State} (w : s.yard.waiting = []) (p : s.yard.port = []) : settle s = s := by
  unfold settle
  generalize 4 * (s.yard.waiting.length + s.yard.port.length) + 4 = n
  cases n with
  | zero => rfl
  | succ n => exact if_pos (by rw [w, p]; rfl)

/-- An event that does not wait already is carried out. -/
theorem engine_starts {c : Instr} {f : State → State} {s : State} (h : taskWaits s (.event c) = false) :
    engine c f s = engineRun (.event c) [] f s := if_neg (by simp [h])

/-- A task that finds every access answered has its effect at once. -/
theorem engineRun_done {k : Task} {got : List Resp} {f : State → State} {s : State}
    (h : (f (updEng s (fun e => { e with got := got, stuck := none }))).yard.eng.stuck = none) :
    engineRun k got f s = updEng (f (updEng s (fun e => { e with got := got, stuck := none }))) (fun _ => s.yard.eng) := by
  unfold engineRun
  dsimp only
  rw [h]

/-- A task that must wait leaves the state as it was, but for its access, which waits. -/
theorem engineRun_waits {k : Task} {got : List Resp} {f : State → State} {s : State} {x : Txn}
    (h : (f (updEng s (fun e => { e with got := got, stuck := none }))).yard.eng.stuck = some x) :
    engineRun k got f s = joinWait { x with cont := some { task := k, got := got } } s := by
  unfold engineRun
  dsimp only
  rw [h]

end Sys2Proof.Machine
end

