-- ==== Sys2Proof/Laws/Keeps.lean ====
section
/-!
SUPPORT. Keeps: what no command but the step itself may do. A state `t` keeps `s` when the queue is the same, memory has not
lost its canonical form, the rollback floor has not fallen, and no bit of an OTP key slot has been cleared (R394, R395).
-/

namespace Sys2Proof.Machine

open Sys2Proof

/-- What every command keeps of a state, by the four fields it is about. -/
structure KeepsIn (s : State) (p : List Instr) (m : Mem) (o : Vector OtpKey 4) (f : Nat) : Prop where
  pending : p = s.pending
  mem : s.mem.wf = true → m.wf = true
  floor : s.boot.floor ≤ f
  otp : ∀ k : Fin 4, (s.boot.otp[k]).grows o[k]

/-- What every command keeps. -/
def Keeps (s t : State) : Prop := KeepsIn s t.pending t.mem t.boot.otp t.boot.floor

theorem OtpKey.grows_refl (a : OtpKey) : a.grows a := ⟨id, id, fun h => ⟨h, rfl⟩⟩

theorem OtpKey.grows_trans {a b c : OtpKey} (h : a.grows b) (g : b.grows c) : a.grows c :=
  ⟨fun x => g.1 (h.1 x), fun x => g.2.1 (h.2.1 x), fun x =>
    have y := h.2.2 x
    have z := g.2.2 y.1
    ⟨z.1, z.2.trans y.2⟩⟩

theorem Keeps.refl (s : State) : Keeps s s := ⟨rfl, id, Nat.le_refl _, fun _ => OtpKey.grows_refl _⟩

theorem Keeps.trans {r s t : State} (h : Keeps r s) (g : Keeps s t) : Keeps r t :=
  ⟨(KeepsIn.pending g).trans (KeepsIn.pending h), fun x => KeepsIn.mem g (KeepsIn.mem h x),
    Nat.le_trans (KeepsIn.floor h) (KeepsIn.floor g), fun k => OtpKey.grows_trans (KeepsIn.otp h k) (KeepsIn.otp g k)⟩

/-- An update of other fields changes nothing that is kept. -/
theorem keeps_fold (r x : State) : KeepsIn r x.pending x.mem x.boot.otp x.boot.floor = Keeps r x := rfl

theorem keeps_if {r a b : State} {c : Prop} [Decidable c] (ha : c → Keeps r a) (hb : ¬c → Keeps r b) :
    Keeps r (if c then a else b) := by
  split
  · exact ha ‹_›
  · exact hb ‹_›

theorem keeps_writeN {r x : State} {a : Nat} {l : List Byte} (h : Keeps r x) :
    KeepsIn r x.pending (x.mem.writeN a l) x.boot.otp x.boot.floor :=
  ⟨KeepsIn.pending h, fun w => Mem.wf_writeN _ _ _ (KeepsIn.mem h w), KeepsIn.floor h, KeepsIn.otp h⟩

theorem keeps_write {r x : State} {a : Nat} {b : Byte} (h : Keeps r x) :
    KeepsIn r x.pending (x.mem.write a b) x.boot.otp x.boot.floor :=
  ⟨KeepsIn.pending h, fun w => Mem.wf_write _ _ _ (KeepsIn.mem h w), KeepsIn.floor h, KeepsIn.otp h⟩

theorem keeps_clear {r x : State} {a b : Nat} (h : Keeps r x) :
    KeepsIn r x.pending (x.mem.clear a b) x.boot.otp x.boot.floor :=
  ⟨KeepsIn.pending h, fun w => Mem.wf_clear _ _ _ (KeepsIn.mem h w), KeepsIn.floor h, KeepsIn.otp h⟩

theorem keeps_lose {r x : State} {k : Fin 8} (h : Keeps r x) :
    KeepsIn r x.pending (x.mem.lose k) x.boot.otp x.boot.floor :=
  ⟨KeepsIn.pending h, fun w => Mem.wf_lose _ _ (KeepsIn.mem h w), KeepsIn.floor h, KeepsIn.otp h⟩

theorem keeps_zeroBank {r x : State} {k : Fin 8} (h : Keeps r x) :
    KeepsIn r x.pending (x.mem.zeroBank k) x.boot.otp x.boot.floor :=
  ⟨KeepsIn.pending h, fun w => Mem.wf_zeroBank _ _ (KeepsIn.mem h w), KeepsIn.floor h, KeepsIn.otp h⟩

/-- The memory of a state from before, put back. -/
theorem keeps_oldMem {r s x : State} (h : Keeps r s) (g : Keeps r x) :
    KeepsIn r x.pending s.mem x.boot.otp x.boot.floor :=
  ⟨KeepsIn.pending g, KeepsIn.mem h, KeepsIn.floor g, KeepsIn.otp g⟩

/-- A result that answers a state or none keeps `r` when the state does. -/
structure KeepsO (r : State) (o : Option State) : Prop where
  keeps : ∀ t, o = some t → Keeps r t

/-- An outcome keeps `r` when its next state does. -/
structure KeepsX (r : State) (o : Host.Outcome State Fault Refusal) : Prop where
  keeps : ∀ t, o = .next t → Keeps r t

theorem keepsO_none {r : State} : KeepsO r none := ⟨fun _ e => nomatch e⟩

theorem keepsO_some {r s : State} (h : Keeps r s) : KeepsO r (some s) := ⟨fun _ e => Option.some.inj e ▸ h⟩

theorem keepsO_map {α : Type} {r : State} {o : Option α} {f : α → State} (h : ∀ d, Keeps r (f d)) : KeepsO r (o.map f) := by
  cases o with
  | none => exact keepsO_none
  | some d => exact keepsO_some (h d)

theorem keepsX_next {r s : State} (h : Keeps r s) : KeepsX r (.next s) := ⟨fun t e => by
  cases e
  exact h⟩

theorem keeps_some {r t : State} {o : Option State} (e : o = some t) (h : KeepsO r o) : Keeps r t := h.keeps t e

/-- A result that answers a value and a state keeps `r` when the state does. -/
structure KeepsP {α : Type} (r : State) (p : α × State) : Prop where
  keeps : Keeps r p.2

theorem keepsP_mk {α : Type} (r s : State) (a : α) : KeepsP r (a, s) = Keeps r s :=
  propext ⟨fun h => h.keeps, fun h => ⟨h⟩⟩

theorem keepsO_if {r : State} {a b : Option State} {c : Prop} [Decidable c] (ha : c → KeepsO r a) (hb : ¬c → KeepsO r b) :
    KeepsO r (if c then a else b) := by
  split
  · exact ha ‹_›
  · exact hb ‹_›

theorem keepsO_dite {r : State} {c : Prop} [Decidable c] {a : c → Option State} {b : ¬c → Option State}
    (ha : ∀ h, KeepsO r (a h)) (hb : ∀ h, KeepsO r (b h)) : KeepsO r (if h : c then a h else b h) := by
  split
  · exact ha _
  · exact hb _

theorem keeps_dite {r : State} {c : Prop} [Decidable c] {a : c → State} {b : ¬c → State}
    (ha : ∀ h, Keeps r (a h)) (hb : ∀ h, Keeps r (b h)) : Keeps r (if h : c then a h else b h) := by
  split
  · exact ha _
  · exact hb _

theorem keeps_snd {α : Type} {r t : State} {p : α × State} {a : α} (e : p = (a, t)) (h : KeepsP r p) : Keeps r t := by
  rw [e] at h
  exact h.keeps

theorem keepsP_if {α : Type} {r : State} {a b : α × State} {c : Prop} [Decidable c] (ha : c → KeepsP r a)
    (hb : ¬c → KeepsP r b) : KeepsP r (if c then a else b) := by
  split
  · exact ha ‹_›
  · exact hb ‹_›

theorem keepsP_dite {α : Type} {r : State} {c : Prop} [Decidable c] {a : c → α × State} {b : ¬c → α × State}
    (ha : ∀ h, KeepsP r (a h)) (hb : ∀ h, KeepsP r (b h)) : KeepsP r (if h : c then a h else b h) := by
  split
  · exact ha _
  · exact hb _

/-- A fold of steps that keep `r` keeps `r`. -/
theorem keeps_foldl {α : Type} {r s : State} {f : State → α → State} {l : List α}
    (h : Keeps r s) (hf : ∀ (t : State) (x : α), Keeps r t → Keeps r (f t x)) : Keeps r (l.foldl f s) := by
  induction l generalizing s with
  | nil => exact h
  | cons x t ih => exact ih (hf s x h)

/-- A state written out keeps what its four fields keep. -/
theorem keeps_mk (r : State) (pending : List Instr) (time ltHalf free : Nat) (mem : Mem) (yard : Yard) (irq : Irq) (trg : Trg)
    (cfg : Cfg) (sns : Sns) (stl : Vector Stall 32) (lpe : Lpe) (echo : Vector Echo 4) (echoEvt echoEvtEn : W32) (gal : Gal)
    (trx : Trx) (rgy : Rgy) (cry : Cry) (pkv : Pkv) (zlk : Zlk) (dli : Dli) (spis : Spis) (uart : Vector Uart 2)
    (i2c : Vector I2c 2) (clk : Clk) (pwr : Pwr) (act : Act) (pio : Pio) (boot : Boot) (wdt : Vector Wdt 2) (bist : Bist)
    (sup : Sup) :
    Keeps r ⟨pending, time, ltHalf, free, mem, yard, irq, trg, cfg, sns, stl, lpe, echo, echoEvt, echoEvtEn, gal, trx, rgy,
      cry, pkv, zlk, dli, spis, uart, i2c, clk, pwr, act, pio, boot, wdt, bist, sup⟩
    = KeepsIn r pending mem boot.otp boot.floor := rfl

end Sys2Proof.Machine
end

