-- ==== Sys2Proof/Laws/KeepsBus.lean ====
section
/-!
SUPPORT. KeepsBus: every operation of the bus, interrupts, clocks and triggers keeps the queue, the form of memory, the rollback floor and the OTP.
-/

namespace Sys2Proof.Machine

open Sys2Proof

theorem keeps_updStl {r s : State} {a1 a2} (h : Keeps r s) : Keeps r (updStl s a1 a2) := h

theorem keeps_updPdk {r s : State} {a1 a2} (h : Keeps r s) : Keeps r (updPdk s a1 a2) := h

theorem keeps_updLane {r s : State} {a1 a2 a3} (h : Keeps r s) : Keeps r (updLane s a1 a2 a3) := by
  unfold updLane
  with_reducible repeat' first | assumption | apply keeps_updStl

theorem keeps_domUp {r s : State} {a1} (h : Keeps r s) : Keeps r (domUp s a1) := by
  unfold domUp
  with_reducible repeat' first | assumption | intro _ | apply keeps_if | simp only [keeps_mk, keeps_fold]

theorem keeps_domDown {r s : State} {a1 a2} (h : Keeps r s) : Keeps r (domDown s a1 a2) := by
  unfold domDown
  with_reducible repeat' first
    | assumption | intro _ | apply keeps_if | simp only [keeps_mk, keeps_fold] | apply keeps_lose | split

theorem keeps_domDemand {r s : State} {a1} (h : Keeps r s) : Keeps r (domDemand s a1) := by
  unfold domDemand
  with_reducible repeat' first | assumption | apply keeps_domUp | simp only [keeps_mk, keeps_fold]

theorem keeps_captureDeny {r s : State} {a1 a2 a3 a4} (h : Keeps r s) : Keeps r (captureDeny s a1 a2 a3 a4) := by
  unfold captureDeny
  with_reducible repeat' first | assumption | intro _ | apply keeps_if | simp only [keeps_mk, keeps_fold]

theorem keeps_captureErr {r s : State} {a1 a2 a3 a4 a5} (h : Keeps r s) : Keeps r (captureErr s a1 a2 a3 a4 a5) := h

theorem keeps_respond {r s : State} {a1 a2 a3 a4 a5} (h : Keeps r s) : Keeps r (respond s a1 a2 a3 a4 a5) := by
  unfold respond
  with_reducible repeat' first | assumption | apply keeps_captureErr | simp only [keeps_mk, keeps_fold] | split

theorem keeps_noteSpis {r s : State} (h : Keeps r s) : Keeps r (noteSpis s) := by
  unfold noteSpis
  with_reducible repeat' first | assumption | intro _ | apply keeps_if | simp only [keeps_mk, keeps_fold]

theorem keeps_issue {r s : State} (h : Keeps r s) : Keeps r (issue s) := h

theorem keeps_enqueueTxn {r s : State} {a1 a2} (h : Keeps r s) : Keeps r (enqueueTxn s a1 a2) := h

theorem keeps_grant {r s : State} {a0 a1} (h : Keeps r s) : Keeps r (grant a0 a1 s) := by
  unfold grant
  with_reducible repeat' first | assumption | intro _ | apply keeps_if | simp only [keeps_mk, keeps_fold]

theorem keeps_access {r s : State} {a0 a1 a2 a3 a4 a5 a6} (hp : ∀ t, Keeps r t → KeepsP r (a6 t)) (h : Keeps r s) :
    Keeps r (access a0 a1 a2 a3 a4 a5 a6 s) := by
  unfold access
  with_reducible repeat' first
    | assumption | intro _ | apply hp | apply keeps_grant | apply keeps_enqueueTxn | apply keeps_issue | apply keeps_respond
    | apply keeps_captureDeny | apply keeps_if | simp only [keeps_mk, keeps_fold]
    | refine keeps_snd (by assumption) ?_ | split

theorem keeps_accepted {r s : State} {a0} (hp : ∀ t, Keeps r t → KeepsO r (a0 t)) (h : Keeps r s) :
    KeepsP r (accepted a0 s) := by
  unfold accepted
  with_reducible repeat' first
    | assumption | apply hp | simp only [keepsP_mk] | refine keeps_some (by assumption) ?_ | split

theorem keeps_busWriteR {r s : State} {a0 a1 a2 a3 a4} (hp : ∀ t, Keeps r t → KeepsP r (a4 t)) (h : Keeps r s) :
    Keeps r (busWriteR a0 a1 a2 a3 a4 s) := by
  unfold busWriteR
  with_reducible repeat' first
    | assumption | intro _ _ | apply hp | apply keeps_access | simp only [keepsP_mk]
    | refine keeps_snd (by assumption) ?_ | split

theorem keeps_busWrite {r s : State} {a0 a1 a2 a3 a4} (hp : ∀ t, Keeps r t → KeepsO r (a4 t)) (h : Keeps r s) :
    Keeps r (busWrite a0 a1 a2 a3 a4 s) := by
  unfold busWrite
  with_reducible repeat' first | assumption | intro _ _ | apply keeps_busWriteR | apply keeps_accepted

theorem keeps_busRead {r s : State} {a0 a1 a2 a3} (hp : ∀ t, Keeps r t → KeepsP r (a3 t)) (h : Keeps r s) :
    Keeps r (busRead a0 a1 a2 a3 s) := by
  unfold busRead
  with_reducible repeat' first
    | assumption | intro _ _ | refine (hp _ ?_).keeps | apply keeps_access | simp only [keepsP_mk]

theorem keeps_updEng {r s : State} {a1} (h : Keeps r s) : Keeps r (updEng s a1) := h

theorem keeps_stickAt {r s : State} {a0 a1 a2 a3 a4} (h : Keeps r s) : Keeps r (stickAt a0 a1 a2 a3 a4 s) := by
  unfold stickAt
  with_reducible repeat' first | assumption | apply keeps_updEng

theorem keeps_pieceErr {r s : State} {a0 a1 a2 a3} (h : Keeps r s) : KeepsP r (pieceErr a0 a1 a2 a3 s) := by
  unfold pieceErr
  with_reducible repeat' first | assumption | apply keeps_captureErr | simp only [keepsP_mk]

theorem keeps_dmaPiece {r s : State} {a0 a1 a2 a3 a4} (h : Keeps r s) : KeepsP r (dmaPiece a0 a1 a2 a3 a4 s) := by
  unfold dmaPiece
  with_reducible repeat' first
    | assumption | intro _ | apply keeps_pieceErr | apply keeps_stickAt | apply keeps_updEng | apply keeps_grant
    | apply keeps_issue | apply keeps_captureErr | apply keeps_captureDeny | apply keepsP_if
    | simp only [keeps_mk, keepsP_mk] | apply keeps_writeN | split

theorem keeps_dmaReadL {r s : State} {m : Mid} {l : List (Nat × Nat)} (h : Keeps r s) : KeepsP r (dmaReadL m l s) := by
  induction l generalizing s with
  | nil => exact ⟨h⟩
  | cons x t ih =>
    obtain ⟨a, n⟩ := x
    simp only [dmaReadL]
    repeat' first
    | with_reducible assumption | (with_reducible apply keeps_dmaPiece) | (with_reducible refine (ih ?_).keeps)
    | (with_reducible refine keeps_snd (by assumption) ?_) | (simp only [keepsP_mk]) | split

theorem keeps_dmaRead {r s : State} {a0 a1 a2} (h : Keeps r s) : KeepsP r (dmaRead a0 a1 a2 s) := by
  unfold dmaRead
  with_reducible repeat' first | assumption | apply keeps_dmaReadL

theorem keeps_dmaRead_2 {r s : State} {a0 a1 a2} (h : Keeps r s) : Keeps r (dmaRead a0 a1 a2 s).2 := (keeps_dmaRead h).keeps

theorem keeps_dmaWriteL {r s : State} {m : Mid} {l : List (Nat × Nat)} {b : List Byte} {w : Nat} (h : Keeps r s) :
    KeepsP r (dmaWriteL m l b w s) := by
  induction l generalizing s b w with
  | nil => exact ⟨h⟩
  | cons x t ih =>
    obtain ⟨a, n⟩ := x
    simp only [dmaWriteL]
    repeat' first
    | with_reducible assumption | (with_reducible apply keeps_dmaPiece) | (with_reducible apply ih)
    | (with_reducible refine keeps_snd (by assumption) ?_) | (simp only [keepsP_mk]) | split

theorem keeps_dmaWrite {r s : State} {a0 a1 a2} (h : Keeps r s) : KeepsP r (dmaWrite a0 a1 a2 s) := by
  unfold dmaWrite
  with_reducible repeat' first | assumption | apply keeps_dmaWriteL

theorem keeps_dmaWrite_2 {r s : State} {a0 a1 a2} (h : Keeps r s) : Keeps r (dmaWrite a0 a1 a2 s).2 := (keeps_dmaWrite h).keeps

theorem keeps_dmaZeroL {r s : State} {m : Mid} {l : List (Nat × Nat)} (h : Keeps r s) : KeepsP r (dmaZeroL m l s) := by
  induction l generalizing s with
  | nil => exact ⟨h⟩
  | cons x t ih =>
    obtain ⟨a, n⟩ := x
    simp only [dmaZeroL]
    repeat' first
    | with_reducible assumption | (with_reducible apply keeps_dmaPiece) | (with_reducible apply ih)
    | (with_reducible refine (ih ?_).keeps) | (with_reducible refine keeps_snd (by assumption) ?_)
    | (simp only [keepsP_mk]) | split

theorem keeps_dmaZero {r s : State} {a0 a1 a2} (h : Keeps r s) : KeepsP r (dmaZero a0 a1 a2 s) := by
  unfold dmaZero
  with_reducible repeat' first | assumption | apply keeps_dmaZeroL

theorem keeps_dmaZero_2 {r s : State} {a0 a1 a2} (h : Keeps r s) : Keeps r (dmaZero a0 a1 a2 s).2 := (keeps_dmaZero h).keeps

theorem keeps_joinWait {r s : State} {a0} (h : Keeps r s) : Keeps r (joinWait a0 s) := by
  unfold joinWait
  with_reducible repeat' first
    | assumption | intro _ | apply keeps_issue | apply keeps_if | simp only [keeps_mk, keeps_fold] | split

theorem keeps_engineRun {r s : State} {a0 a1 a2} (hp : ∀ t, Keeps r t → Keeps r (a2 t)) (h : Keeps r s) :
    Keeps r (engineRun a0 a1 a2 s) := by
  unfold engineRun
  try dsimp only
  with_reducible repeat' first | assumption | apply hp | apply keeps_joinWait | apply keeps_updEng | split

theorem keeps_engine {r s : State} {a0 a1} (hp : ∀ t, Keeps r t → Keeps r (a1 t)) (h : Keeps r s) :
    Keeps r (engine a0 a1 s) := by
  unfold engine
  with_reducible repeat' first | assumption | intro _ | apply keeps_engineRun | apply keeps_if

theorem keeps_dropTask {r s : State} {a0} (h : Keeps r s) : Keeps r (dropTask a0 s) := h

theorem keeps_taskEffect {r s : State} {a0} (h : Keeps r s) : Keeps r (taskEffect a0 s) := by
  unfold taskEffect
  with_reducible repeat' first
    | assumption | apply keeps_dmaWrite_2 | apply keeps_dmaRead | refine keeps_snd (by assumption) ?_ | split

theorem keeps_post {r s : State} {a0} (h : Keeps r s) : Keeps r (post a0 s) := by
  unfold post
  with_reducible repeat' first | assumption | intro _ _ | apply keeps_taskEffect | apply keeps_engineRun | apply keeps_updEng

theorem keeps_claim {r s : State} {a0} (h : Keeps r s) : KeepsP r (claim a0 s) := by
  unfold claim
  with_reducible repeat' first | assumption | simp only [keeps_mk, keeps_fold, keepsP_mk] | split

theorem keeps_complete {r s : State} {a0 a1} (h : Keeps r s) : Keeps r (complete a0 a1 s) := by
  unfold complete
  with_reducible repeat' first
    | assumption | intro _ | apply keeps_dite | apply keeps_if | simp only [keeps_mk, keeps_fold]

theorem keeps_edgePend {r s : State} {a0} (h : Keeps r s) : Keeps r (edgePend a0 s) := h

theorem keeps_effDoorbell {r s : State} {a0} (h : Keeps r s) : Keeps r (effDoorbell a0 s) := by
  unfold effDoorbell
  with_reducible repeat' first | assumption | intro _ | apply keeps_edgePend | apply keeps_if

theorem keeps_execIrqClaim {r s : State} {a0 a1} (h : Keeps r s) : KeepsX r (execIrqClaim a0 a1 s) := by
  unfold execIrqClaim
  with_reducible repeat' first | assumption | apply keepsX_next | intro _ _ | apply keeps_claim | apply keeps_busRead

theorem keeps_execIrqComplete {r s : State} {a0 a1 a2} (h : Keeps r s) : KeepsX r (execIrqComplete a0 a1 a2 s) := by
  unfold execIrqComplete
  with_reducible repeat' first
    | assumption | apply keepsO_some | apply keepsX_next | intro _ _ | apply keeps_complete | apply keeps_busWrite

theorem keeps_execToHost {r s : State} {a0} (h : Keeps r s) : KeepsX r (execToHost a0 s) := by
  unfold execToHost
  with_reducible repeat' first
    | assumption | apply keepsO_some | apply keepsX_next | intro _ _ | apply keeps_effDoorbell | apply keeps_busWrite

theorem keeps_execToGroom {r s : State} {a0} (h : Keeps r s) : KeepsX r (execToGroom a0 s) := by
  unfold execToGroom
  with_reducible repeat' first
    | assumption | apply keepsO_some | apply keepsX_next | intro _ _ | apply keeps_effDoorbell | apply keeps_busWrite

theorem keeps_updTrx {r s : State} {a1} (h : Keeps r s) : Keeps r (updTrx s a1) := h

theorem keeps_chanApply {r s : State} (h : Keeps r s) : Keeps r (chanApply s) := by
  unfold chanApply
  with_reducible repeat' first | assumption | intro _ | apply keeps_updTrx | apply keeps_if | split

theorem keeps_ptApply {r s : State} {a0} (h : Keeps r s) : Keeps r (ptApply a0 s) := by
  unfold ptApply
  with_reducible repeat' first | assumption | apply keeps_updTrx | split

theorem keeps_ptUpdate {r s : State} {a0} (h : Keeps r s) : Keeps r (ptUpdate a0 s) := by
  unfold ptUpdate
  with_reducible repeat' first | assumption | intro _ | apply keeps_ptApply | apply keeps_updTrx | apply keeps_if

theorem keeps_ptFlush {r s : State} (h : Keeps r s) : Keeps r (ptFlush s) := by
  unfold ptFlush
  with_reducible repeat' first
    | assumption | intro _ _ | intro _ | apply keeps_ptUpdate | apply keeps_updTrx | apply keeps_foldl

theorem keeps_updClk {r s : State} {a1} (h : Keeps r s) : Keeps r (updClk s a1) := h

theorem keeps_slkLapse {r s : State} {a0} (h : Keeps r s) : Keeps r (slkLapse a0 s) := by
  unfold slkLapse
  with_reducible repeat' first | assumption | intro _ | apply keeps_updClk | apply keeps_if

theorem keeps_coastStart {r s : State} {a0} (h : Keeps r s) : Keeps r (coastStart a0 s) := by
  unfold coastStart
  with_reducible repeat' first | assumption | simp only [keeps_mk, keeps_fold] | split

theorem keeps_lossCoast {r s : State} {a1 a2} (h : Keeps r s) : Keeps r (lossCoast s a1 a2) := by
  unfold lossCoast
  with_reducible repeat' first | assumption | intro _ | apply keeps_coastStart | apply keeps_updClk | apply keeps_if | split

theorem keeps_lossLock {r s : State} {a0} (h : Keeps r s) : Keeps r (lossLock a0 s) := by
  unfold lossLock
  with_reducible repeat' first
    | assumption | intro _ | apply keeps_lossCoast | apply keeps_slkLapse | apply keeps_updClk | apply keeps_if

theorem keeps_lossRef {r s : State} {a0} (h : Keeps r s) : Keeps r (lossRef a0 s) := by
  unfold lossRef
  with_reducible repeat' first
    | assumption | intro _ | apply keeps_lossCoast | apply keeps_slkLapse | apply keeps_updClk | apply keeps_if

theorem keeps_lockPll {r s : State} {a0} (h : Keeps r s) : Keeps r (lockPll a0 s) := by
  unfold lockPll
  with_reducible repeat' first | assumption | apply keeps_updClk | split

theorem keeps_effBypass {r s : State} {a0} (h : Keeps r s) : KeepsO r (effBypass a0 s) := by
  unfold effBypass
  with_reducible repeat' first
    | assumption | exact keepsO_none | apply keepsO_some | intro _ | apply keepsO_if
    | simp only [keeps_mk, keeps_fold]

theorem keeps_effSysCfg {r s : State} {a0} (h : Keeps r s) : KeepsO r (effSysCfg a0 s) := by
  unfold effSysCfg
  with_reducible repeat' first
    | assumption | exact keepsO_none | apply keepsO_some | intro _ | apply keeps_coastStart | apply keeps_slkLapse
    | apply keeps_updClk | apply keepsO_if

theorem keeps_effRfCfg {r s : State} {a0} (h : Keeps r s) : KeepsO r (effRfCfg a0 s) := by
  unfold effRfCfg
  with_reducible repeat' first
    | assumption | exact keepsO_none | apply keepsO_some | intro _ | apply keeps_updClk | apply keepsO_if

theorem keeps_effSlkCfg {r s : State} {a0} (h : Keeps r s) : KeepsO r (effSlkCfg a0 s) := by
  unfold effSlkCfg
  with_reducible repeat' first
    | assumption | exact keepsO_none | apply keepsO_some | intro _ | apply keeps_slkLapse | apply keeps_updClk
    | apply keepsO_if

theorem keeps_effClkCntClr {r s : State} {a0} (h : Keeps r s) : Keeps r (effClkCntClr a0 s) := by
  unfold effClkCntClr
  with_reducible repeat' first | assumption | intro _ | apply keeps_updClk | apply keeps_if

theorem keeps_effSlkE {r s : State} {a0 a1} (h : Keeps r s) : Keeps r (effSlkE a0 a1 s) := by
  unfold effSlkE
  with_reducible repeat' first | assumption | apply keeps_updClk

theorem keeps_effSlkD {r s : State} {a0 a1} (h : Keeps r s) : Keeps r (effSlkD a0 a1 s) := by
  unfold effSlkD
  with_reducible repeat' first | assumption | apply keeps_updClk

theorem keeps_execXtalFail {r s : State} (h : Keeps r s) : KeepsX r (execXtalFail s) := by
  unfold execXtalFail
  with_reducible repeat' first | assumption | apply keepsX_next | intro _ | apply keeps_updClk | apply keeps_if

theorem keeps_execXtalOk {r s : State} (h : Keeps r s) : KeepsX r (execXtalOk s) := by
  unfold execXtalOk
  with_reducible repeat' first | assumption | apply keepsX_next | intro _ | apply keeps_updClk | apply keeps_if

theorem keeps_execBandSearchEnd {r s : State} {a0 a1} (h : Keeps r s) : KeepsX r (execBandSearchEnd a0 a1 s) := by
  unfold execBandSearchEnd
  with_reducible repeat' first | assumption | apply keepsX_next | apply keeps_updClk

theorem keeps_buckSync {r s : State} (h : Keeps r s) : Keeps r (buckSync s) := by
  unfold buckSync
  with_reducible repeat' first | assumption | intro _ | apply keeps_if | simp only [keeps_mk, keeps_fold]

theorem keeps_execLock {r s : State} {a0} (h : Keeps r s) : KeepsX r (execLock a0 s) := by
  unfold execLock
  with_reducible repeat' first | assumption | apply keepsX_next | apply keeps_buckSync | apply keeps_lockPll

theorem keeps_execReacquire {r s : State} {a0} (h : Keeps r s) : KeepsX r (execReacquire a0 s) := by
  unfold execReacquire
  with_reducible repeat' first | assumption | apply keepsX_next | intro _ | apply keeps_lockPll | apply keeps_if

theorem keeps_execRfpllResearch {r s : State} (h : Keeps r s) : KeepsX r (execRfpllResearch s) := by
  unfold execRfpllResearch
  with_reducible repeat' first | assumption | apply keepsX_next | apply keeps_updClk

theorem keeps_execSyspllFailed {r s : State} (h : Keeps r s) : KeepsX r (execSyspllFailed s) := by
  unfold execSyspllFailed
  with_reducible repeat' first | assumption | apply keepsX_next | apply keeps_updClk

theorem keeps_execReferenceSwitch {r s : State} {a0 a1} (h : Keeps r s) : KeepsX r (execReferenceSwitch a0 a1 s) := by
  unfold execReferenceSwitch
  with_reducible repeat' first | assumption | apply keepsX_next | intro _ _ | apply keeps_effSysCfg | apply keeps_busWrite

theorem keeps_execBypass {r s : State} {a0} (h : Keeps r s) : KeepsX r (execBypass a0 s) := by
  unfold execBypass
  with_reducible repeat' first | assumption | apply keepsX_next | intro _ _ | apply keeps_effBypass | apply keeps_busWrite

theorem keeps_noteMove {r s : State} {a0} (h : Keeps r s) : Keeps r (noteMove a0 s) := by
  unfold noteMove
  with_reducible repeat' first | assumption | intro _ | apply keeps_if | simp only [keeps_mk, keeps_fold]

theorem keeps_execXlfOk {r s : State} (h : Keeps r s) : KeepsX r (execXlfOk s) := by
  unfold execXlfOk
  with_reducible repeat' first
    | assumption | apply keepsX_next | intro _ | apply keeps_noteMove | apply keeps_updClk | apply keeps_if

theorem keeps_execXlfFail {r s : State} (h : Keeps r s) : KeepsX r (execXlfFail s) := by
  unfold execXlfFail
  with_reducible repeat' first
    | assumption | apply keepsX_next | intro _ | apply keeps_noteMove | apply keeps_slkLapse | apply keeps_updClk
    | apply keeps_if

theorem keeps_execSleepClockMeasurement {r s : State} {a0} (h : Keeps r s) : KeepsX r (execSleepClockMeasurement a0 s) := by
  unfold execSleepClockMeasurement
  with_reducible repeat' first | assumption | apply keepsX_next | intro _ | apply keeps_updClk | apply keeps_if

theorem keeps_execClkCntClr {r s : State} {a0} (h : Keeps r s) : KeepsX r (execClkCntClr a0 s) := by
  unfold execClkCntClr
  with_reducible repeat' first
    | assumption | apply keepsO_some | apply keepsX_next | intro _ _ | apply keeps_effClkCntClr | apply keeps_busWrite

theorem keeps_execCloadStep {r s : State} (h : Keeps r s) : KeepsX r (execCloadStep s) := by
  unfold execCloadStep
  with_reducible repeat' first | assumption | apply keepsX_next | intro _ | apply keeps_updClk | apply keeps_if

theorem keeps_updPwr {r s : State} {a1} (h : Keeps r s) : Keeps r (updPwr s a1) := h

theorem keeps_abortEntry {r s : State} {a0} (h : Keeps r s) : Keeps r (abortEntry a0 s) := by
  unfold abortEntry
  with_reducible repeat' first | assumption | simp only [keeps_mk, keeps_fold] | split

theorem keeps_fence {r s : State} (h : Keeps r s) : Keeps r (fence s) := by
  unfold fence
  with_reducible repeat' first | assumption | apply keeps_abortEntry | split

theorem keeps_startExit {r s : State} {a0} (h : Keeps r s) : Keeps r (startExit a0 s) := by
  unfold startExit
  with_reducible repeat' first | assumption | apply keeps_updPwr | apply keeps_updClk | split

theorem keeps_wake {r s : State} {a0} (h : Keeps r s) : Keeps r (wake a0 s) := by
  unfold wake
  try dsimp only
  with_reducible repeat' first
    | assumption | intro _ | apply keeps_startExit | apply keeps_abortEntry | apply keeps_updPwr | apply keeps_if | split

theorem keeps_countDrop {r s : State} {a0} (h : Keeps r s) : Keeps r (countDrop a0 s) := h

theorem keeps_postScene {r s : State} {a0 a2} (h : Keeps r s) : Keeps r (postScene a0 s a2) := by
  unfold postScene
  with_reducible repeat' first | assumption | intro _ | apply keeps_countDrop | apply keeps_updStl | apply keeps_if

theorem keeps_postMask {r s : State} {a0 a1} (h : Keeps r s) : Keeps r (postMask a0 a1 s) := by
  unfold postMask
  with_reducible repeat' first | assumption | intro _ _ | intro _ | apply keeps_postScene | apply keeps_foldl

theorem keeps_launchSlot {r s : State} {a0} (h : Keeps r s) : Keeps r (launchSlot a0 s) := by
  unfold launchSlot
  with_reducible repeat' first
    | assumption | apply keeps_fence | apply keeps_chanApply | simp only [keeps_mk, keeps_fold]

theorem keeps_zlkQueue {r s : State} {a0} (h : Keeps r s) : Keeps r (zlkQueue a0 s) := h

theorem keeps_fireRoute {r s : State} {a0} (h : Keeps r s) : Keeps r (fireRoute a0 s) := by
  unfold fireRoute
  with_reducible repeat' first
    | assumption | intro _ | apply keeps_zlkQueue | apply keeps_launchSlot | apply keeps_postMask | apply keeps_countDrop
    | apply keeps_if

theorem keeps_fire {r s : State} {a0} (h : Keeps r s) : Keeps r (fire a0 s) := by
  unfold fire
  with_reducible repeat' first
    | assumption | intro _ _ | intro _ | apply keeps_fireRoute | apply keeps_edgePend | apply keeps_if
    | simp only [keeps_mk, keeps_fold] | apply keeps_foldl

theorem keeps_fireAll {r s : State} {a0} (h : Keeps r s) : Keeps r (fireAll a0 s) := by
  unfold fireAll
  with_reducible repeat' first
    | assumption | intro _ _ | intro _ | apply keeps_fire | apply keeps_if | simp only [keeps_mk, keeps_fold]
    | apply keeps_foldl | split

theorem keeps_fireWith {r s : State} {a0 a1} (h : Keeps r s) : Keeps r (fireWith a0 a1 s) := by
  unfold fireWith
  with_reducible repeat' first
    | assumption | intro _ | apply keeps_fire | apply keeps_if | simp only [keeps_mk, keeps_fold] | split

theorem keeps_effRoute {r s : State} {a0 a1} (h : Keeps r s) : KeepsO r (effRoute a0 a1 s) := by
  unfold effRoute
  with_reducible repeat' first
    | assumption | exact keepsO_none | apply keepsO_some | intro _ | apply keepsO_if
    | simp only [keeps_mk, keeps_fold]

theorem keeps_effMask {r s : State} {a0 a1} (h : Keeps r s) : Keeps r (effMask a0 a1 s) := by
  unfold effMask
  with_reducible repeat' first | assumption | intro _ | apply keeps_if | simp only [keeps_mk, keeps_fold]

theorem keeps_effTrgLock {r s : State} {a0} (h : Keeps r s) : Keeps r (effTrgLock a0 s) := by
  unfold effTrgLock
  with_reducible repeat' first | assumption | intro _ | apply keeps_if | simp only [keeps_mk, keeps_fold]

theorem keeps_effTrgFire {r s : State} {a0} (h : Keeps r s) : Keeps r (effTrgFire a0 s) := by
  unfold effTrgFire
  with_reducible repeat' first | assumption | apply keeps_fireAll

theorem keeps_effDropCnt {r s : State} {a0} (h : Keeps r s) : Keeps r (effDropCnt a0 s) := by
  unfold effDropCnt
  with_reducible repeat' first | assumption | intro _ | apply keeps_if | simp only [keeps_mk, keeps_fold]

theorem keeps_effYerrStat {r s : State} {a0} (h : Keeps r s) : Keeps r (effYerrStat a0 s) := by
  unfold effYerrStat
  with_reducible repeat' first | assumption | intro _ | apply keeps_if | simp only [keeps_mk, keeps_fold]

theorem keeps_effYerrClr {r s : State} {a0} (h : Keeps r s) : Keeps r (effYerrClr a0 s) := by
  unfold effYerrClr
  with_reducible repeat' first | assumption | intro _ | apply keeps_if | simp only [keeps_mk, keeps_fold]

theorem keeps_effYardCfg {r s : State} {a0} (h : Keeps r s) : Keeps r (effYardCfg a0 s) := by
  unfold effYardCfg
  with_reducible repeat' first | assumption | intro _ | apply keeps_if | simp only [keeps_mk, keeps_fold]

theorem keeps_execYerrValidClear {r s : State} {a0 a1} (h : Keeps r s) : KeepsX r (execYerrValidClear a0 a1 s) := by
  unfold execYerrValidClear
  with_reducible repeat' first
    | assumption | apply keepsO_some | apply keepsX_next | intro _ _ | apply keeps_effYerrStat | apply keeps_busWrite

theorem keeps_execCntClr {r s : State} {a0} (h : Keeps r s) : KeepsX r (execCntClr a0 s) := by
  unfold execCntClr
  with_reducible repeat' first
    | assumption | apply keepsO_some | apply keepsX_next | intro _ _ | apply keeps_effYerrClr | apply keeps_busWrite

theorem keeps_execPeakClr {r s : State} {a0} (h : Keeps r s) : KeepsX r (execPeakClr a0 s) := by
  unfold execPeakClr
  with_reducible repeat' first
    | assumption | apply keepsO_some | apply keepsX_next | intro _ _ | apply keeps_effYerrClr | apply keeps_busWrite

theorem keeps_execTrgFire {r s : State} {a0 a1} (h : Keeps r s) : KeepsX r (execTrgFire a0 a1 s) := by
  unfold execTrgFire
  with_reducible repeat' first
    | assumption | apply keepsO_some | apply keepsX_next | intro _ _ | apply keeps_effTrgFire | apply keeps_busWrite

theorem keeps_execTrgLock {r s : State} {a0} (h : Keeps r s) : KeepsX r (execTrgLock a0 s) := by
  unfold execTrgLock
  with_reducible repeat' first
    | assumption | apply keepsO_some | apply keepsX_next | intro _ _ | apply keeps_effTrgLock | apply keeps_busWrite

theorem keeps_execTrgDropCntClr {r s : State} {a0} (h : Keeps r s) : KeepsX r (execTrgDropCntClr a0 s) := by
  unfold execTrgDropCntClr
  with_reducible repeat' first
    | assumption | apply keepsO_some | apply keepsX_next | intro _ _ | apply keeps_effDropCnt | apply keeps_busWrite

theorem keeps_updAct {r s : State} {a1} (h : Keeps r s) : Keeps r (updAct s a1) := h

theorem keeps_effActLock {r s : State} {a0} (h : Keeps r s) : KeepsO r (effActLock a0 s) := by
  unfold effActLock
  with_reducible repeat' first
    | assumption | exact keepsO_none | apply keepsO_some | intro _ | apply keeps_updAct | apply keepsO_if | apply keepsO_dite

theorem keeps_effViolCnt {r s : State} {a0} (h : Keeps r s) : Keeps r (effViolCnt a0 s) := by
  unfold effViolCnt
  with_reducible repeat' first | assumption | intro _ | apply keeps_updAct | apply keeps_if

theorem keeps_effViolInfo {r s : State} {a0 a1} (h : Keeps r s) : Keeps r (effViolInfo a0 a1 s) := by
  unfold effViolInfo
  with_reducible repeat' first | assumption | intro _ | apply keeps_updAct | apply keeps_if

theorem keeps_effGate {r s : State} {a0 a1 a2} (h : Keeps r s) : KeepsO r (effGate a0 a1 a2 s) := by
  unfold effGate
  with_reducible repeat' first
    | assumption | exact keepsO_none | apply keepsO_some | intro _ | apply keeps_effViolInfo | apply keeps_updAct
    | apply keepsO_if | apply keepsO_dite | split

theorem keeps_actWrite {r s : State} {a0 a1 a2} (h : Keeps r s) : KeepsO r (actWrite a0 a1 a2 s) := by
  unfold actWrite
  with_reducible repeat' first
    | assumption | exact keepsO_none | apply keepsO_some | intro _ | apply keeps_effGate | apply keeps_effViolCnt
    | apply keeps_effActLock | apply keeps_updAct | apply keepsO_if | split

theorem keeps_irqWrite {r s : State} {a0 a1} (h : Keeps r s) : KeepsO r (irqWrite a0 a1 s) := by
  unfold irqWrite
  with_reducible repeat' first
    | assumption | apply keepsO_some | intro _ | apply keeps_effDropCnt | apply keeps_effTrgFire | apply keeps_effTrgLock
    | apply keeps_effMask | apply keeps_effRoute | apply keeps_effDoorbell | apply keeps_complete | apply keepsO_if
    | apply keepsO_dite | simp only [keeps_mk, keeps_fold] | split

theorem keeps_irqRead {r s : State} {a0} (h : Keeps r s) : KeepsP r (irqRead a0 s) := by
  unfold irqRead
  with_reducible repeat' first
    | assumption | intro _ | apply keeps_claim | apply keepsP_if | apply keepsP_dite
    | simp only [keepsP_mk] | split

theorem keeps_irqRead_2 {r s : State} {a0} (h : Keeps r s) : Keeps r (irqRead a0 s).2 := (keeps_irqRead h).keeps

theorem keeps_yardWrite {r s : State} {a0 a1} (h : Keeps r s) : Keeps r (yardWrite a0 a1 s) := by
  unfold yardWrite
  with_reducible repeat' first | assumption | apply keeps_effYardCfg | apply keeps_effYerrClr | apply keeps_effYerrStat | split

theorem keeps_execAll {r s : State} {a0} (h : Keeps r s) : KeepsX r (execAll a0 s) := by
  unfold execAll
  with_reducible repeat' first | assumption | apply keepsX_next | intro _ _ | apply keeps_actWrite | apply keeps_busWrite

theorem keeps_execOne {r s : State} {a0 a1} (h : Keeps r s) : KeepsX r (execOne a0 a1 s) := by
  unfold execOne
  with_reducible repeat' first | assumption | apply keepsX_next | intro _ _ | apply keeps_actWrite | apply keeps_busWrite

theorem keeps_execViolClear {r s : State} {a0 a1} (h : Keeps r s) : KeepsX r (execViolClear a0 a1 s) := by
  unfold execViolClear
  with_reducible repeat' first | assumption | apply keepsX_next | intro _ _ | apply keeps_actWrite | apply keeps_busWrite

theorem keeps_execViolCntClr {r s : State} {a0} (h : Keeps r s) : KeepsX r (execViolCntClr a0 s) := by
  unfold execViolCntClr
  with_reducible repeat' first | assumption | apply keepsX_next | intro _ _ | apply keeps_actWrite | apply keeps_busWrite

end Sys2Proof.Machine
end

