-- ==== Sys2Proof/Laws/KeepsStalls.lean ====
section
/-!
SUPPORT. KeepsStalls: every operation of sensing, stalls, lanes and the loader keeps the queue, the form of memory, the rollback floor and the OTP.
-/

namespace Sys2Proof.Machine

open Sys2Proof

theorem keeps_published {r s : State} {a0} (h : Keeps r s) : Keeps r (published a0 s) := by
  unfold published
  with_reducible repeat' first | assumption | simp only [keeps_mk, keeps_fold]

theorem keeps_updSns {r s : State} {a1} (h : Keeps r s) : Keeps r (updSns s a1) := h

theorem keeps_publishCs {r s : State} {a0 a1 a2 a3 a4} (h : Keeps r s) : Keeps r (publishCs a0 a1 a2 a3 a4 s) := by
  unfold publishCs
  try dsimp only
  with_reducible repeat' first | assumption | intro _ | apply keeps_updSns | apply keeps_published | apply keeps_if

theorem keeps_noteConv {r s : State} {a0 a1 a2 a3} (h : Keeps r s) : Keeps r (noteConv a0 a1 a2 a3 s) := by
  unfold noteConv
  with_reducible repeat' first | assumption | apply keeps_updSns

theorem keeps_execAdcResult {r s : State} {a0 a1 a2} (h : Keeps r s) : KeepsX r (execAdcResult a0 a1 a2 s) := by
  unfold execAdcResult
  with_reducible repeat' first
    | assumption | apply keepsX_next | intro _ | apply keeps_noteConv | apply keeps_publishCs | apply keeps_updSns
    | apply keeps_if

theorem keeps_execCalReference {r s : State} {a0 a1 a2} (h : Keeps r s) : KeepsX r (execCalReference a0 a1 a2 s) := by
  unfold execCalReference
  with_reducible repeat' first
    | assumption | apply keepsX_next | intro _ | apply keeps_publishCs | apply keeps_updSns | apply keeps_if

theorem keeps_execLaneRdy {r s : State} {a0 a1 a2} (h : Keeps r s) : KeepsX r (execLaneRdy a0 a1 a2 s) := by
  unfold execLaneRdy
  with_reducible repeat' first | assumption | apply keepsX_next | intro _ | apply keeps_updSns | apply keeps_if

theorem keeps_effAdlEn {r s : State} {a0} (h : Keeps r s) : Keeps r (effAdlEn a0 s) := by
  unfold effAdlEn
  with_reducible repeat' first | assumption | apply keeps_updSns

theorem keeps_effAdlCfg {r s : State} {a0 a1} (h : Keeps r s) : KeepsO r (effAdlCfg a0 a1 s) := by
  unfold effAdlCfg
  with_reducible repeat' first
    | assumption | exact keepsO_none | apply keepsO_some | intro _ | apply keeps_updSns | apply keepsO_if

theorem keeps_execVrefBad {r s : State} (h : Keeps r s) : KeepsX r (execVrefBad s) := by
  unfold execVrefBad
  with_reducible repeat' first | assumption | apply keepsX_next | apply keeps_updSns

theorem keeps_execVrefReturn {r s : State} (h : Keeps r s) : KeepsX r (execVrefReturn s) := by
  unfold execVrefReturn
  with_reducible repeat' first | assumption | apply keepsX_next | apply keeps_updSns

theorem keeps_execStartUpCalibration {r s : State} {a0 a1} (h : Keeps r s) : KeepsX r (execStartUpCalibration a0 a1 s) := by
  unfold execStartUpCalibration
  with_reducible repeat' first
    | assumption | apply keepsO_some | apply keepsX_next | intro _ _ | apply keeps_effAdlEn | apply keeps_busWrite

theorem keeps_execAdlCfg {r s : State} {a0 a1 a2} (h : Keeps r s) : KeepsX r (execAdlCfg a0 a1 a2 s) := by
  unfold execAdlCfg
  with_reducible repeat' first | assumption | apply keepsX_next | intro _ _ | apply keeps_effAdlCfg | apply keeps_busWrite

theorem keeps_execAuxConversion {r s : State} {a0 a1} (h : Keeps r s) : KeepsX r (execAuxConversion a0 a1 s) := by
  unfold execAuxConversion
  try dsimp only
  with_reducible repeat' first
    | assumption | apply keepsX_next | intro _ | apply keeps_updSns | apply keeps_published | apply keeps_if | split

theorem keeps_effAuxCfg {r s : State} {a0} (h : Keeps r s) : Keeps r (effAuxCfg a0 s) := by
  unfold effAuxCfg
  with_reducible repeat' first | assumption | apply keeps_updSns

theorem keeps_execAuxCfg {r s : State} {a0 a1} (h : Keeps r s) : KeepsX r (execAuxCfg a0 a1 s) := by
  unfold execAuxCfg
  with_reducible repeat' first
    | assumption | apply keepsO_some | apply keepsX_next | intro _ _ | apply keeps_effAuxCfg | apply keeps_busWrite

theorem keeps_execPirSample {r s : State} {a0 a1} (h : Keeps r s) : KeepsX r (execPirSample a0 a1 s) := by
  unfold execPirSample
  try dsimp only
  with_reducible repeat' first
    | assumption | apply keepsX_next | intro _ | apply keeps_updSns | apply keeps_published | apply keeps_fireWith
    | apply keeps_if

theorem keeps_execPirHoldEnd {r s : State} {a0} (h : Keeps r s) : KeepsX r (execPirHoldEnd a0 s) := by
  unfold execPirHoldEnd
  with_reducible repeat' first | assumption | apply keepsX_next | intro _ | apply keeps_updSns | apply keeps_if

theorem keeps_execSettleEnd {r s : State} {a0} (h : Keeps r s) : KeepsX r (execSettleEnd a0 s) := by
  unfold execSettleEnd
  with_reducible repeat' first | assumption | apply keepsX_next | intro _ | apply keeps_updSns | apply keeps_if

theorem keeps_effPirCfg {r s : State} {a0 a1} (h : Keeps r s) : Keeps r (effPirCfg a0 a1 s) := by
  unfold effPirCfg
  with_reducible repeat' first | assumption | apply keeps_updSns

theorem keeps_execPirEnable {r s : State} {a0 a1 a2} (h : Keeps r s) : KeepsX r (execPirEnable a0 a1 a2 s) := by
  unfold execPirEnable
  with_reducible repeat' first
    | assumption | apply keepsO_some | apply keepsX_next | intro _ _ | apply keeps_effPirCfg | apply keeps_busWrite

theorem keeps_execPirSat {r s : State} {a0} (h : Keeps r s) : KeepsX r (execPirSat a0 s) := by
  unfold execPirSat
  with_reducible repeat' first | assumption | apply keepsX_next | intro _ | apply keeps_updSns | apply keeps_if

theorem keeps_execPirSatClear {r s : State} {a0} (h : Keeps r s) : KeepsX r (execPirSatClear a0 s) := by
  unfold execPirSatClear
  with_reducible repeat' first | assumption | apply keepsX_next | intro _ | apply keeps_updSns | apply keeps_if

theorem keeps_execDayResult {r s : State} {a0 a1} (h : Keeps r s) : KeepsX r (execDayResult a0 a1 s) := by
  unfold execDayResult
  try dsimp only
  with_reducible repeat' first
    | assumption | apply keepsX_next | intro _ | apply keeps_updSns | apply keeps_published | apply keeps_fire | apply keeps_if

theorem keeps_advanceTrx {r s : State} (h : Keeps r s) : Keeps r (advanceTrx s) := by
  unfold advanceTrx
  with_reducible repeat' first | assumption | apply keeps_ptFlush | simp only [keeps_mk, keeps_fold] | split

theorem keeps_fastDrop {r s : State} (h : Keeps r s) : Keeps r (fastDrop s) := by
  unfold fastDrop
  with_reducible repeat' first | assumption | intro _ | apply keeps_updPwr | apply keeps_updClk | apply keeps_if

theorem keeps_execTempMeasurement {r s : State} {a0} (h : Keeps r s) : KeepsX r (execTempMeasurement a0 s) := by
  unfold execTempMeasurement
  try dsimp only
  with_reducible repeat' first
    | assumption | apply keepsX_next | intro _ | apply keeps_fastDrop | apply keeps_advanceTrx | apply keeps_updSns
    | apply keeps_published | apply keeps_if

theorem keeps_effSnsCtrl {r s : State} {a0} (h : Keeps r s) : Keeps r (effSnsCtrl a0 s) := by
  unfold effSnsCtrl
  with_reducible repeat' first | assumption | apply keeps_updSns

theorem keeps_effDayThr {r s : State} {a0 a1} (h : Keeps r s) : KeepsO r (effDayThr a0 a1 s) := by
  unfold effDayThr
  with_reducible repeat' first
    | assumption | exact keepsO_none | apply keepsO_some | intro _ | apply keeps_updSns | apply keepsO_if

theorem keeps_effBoard {r s : State} {a0 a1 a2} (h : Keeps r s) : KeepsO r (effBoard a0 a1 a2 s) := by
  unfold effBoard
  with_reducible repeat' first
    | assumption | exact keepsO_none | apply keepsO_some | intro _ | apply keeps_updSns | apply keepsO_if

theorem keeps_adlWrite {r s : State} {a0 a1 a2} (h : Keeps r s) : KeepsO r (adlWrite a0 a1 a2 s) := by
  unfold adlWrite
  with_reducible repeat' first | assumption | apply keepsO_some | apply keeps_effAdlCfg | apply keeps_updSns | split

theorem keeps_auxWrite {r s : State} {a0 a1 a2} (h : Keeps r s) : Keeps r (auxWrite a0 a1 a2 s) := by
  unfold auxWrite
  with_reducible repeat' first | assumption | apply keeps_updSns

theorem keeps_dayWrite {r s : State} {a0 a1 a2} (h : Keeps r s) : KeepsO r (dayWrite a0 a1 a2 s) := by
  unfold dayWrite
  with_reducible repeat' first
    | assumption | exact keepsO_none | apply keepsO_some | intro _ | apply keeps_effDayThr | apply keeps_updSns
    | apply keepsO_if | split

theorem keeps_snsWrite {r s : State} {a0 a1} (h : Keeps r s) : KeepsO r (snsWrite a0 a1 s) := by
  unfold snsWrite
  with_reducible repeat' first
    | assumption | apply keepsO_some | intro _ | apply keeps_dayWrite | apply keeps_auxWrite | apply keeps_adlWrite
    | apply keeps_effBoard | apply keeps_effSnsCtrl | apply keeps_effPirCfg | apply keeps_effAuxCfg | apply keeps_effAdlEn
    | apply keeps_updSns | apply keepsO_if | apply keepsO_dite

theorem keeps_cutGates {r s : State} (h : Keeps r s) : Keeps r (cutGates s) := h

theorem keeps_cfgEvt {r s : State} {a0} (h : Keeps r s) : Keeps r (cfgEvt a0 s) := h

theorem keeps_parkCheck {r s : State} {a0} (h : Keeps r s) : Keeps r (parkCheck a0 s) := by
  unfold parkCheck
  with_reducible repeat' first | assumption | intro _ | apply keeps_cfgEvt | apply keeps_updPdk | apply keeps_if

theorem keeps_liveCheck {r s : State} {a0} (h : Keeps r s) : Keeps r (liveCheck a0 s) := by
  unfold liveCheck
  with_reducible repeat' first | assumption | intro _ | apply keeps_cfgEvt | apply keeps_updPdk | apply keeps_if

theorem keeps_echoAbort {r s : State} {a0} (h : Keeps r s) : Keeps r (echoAbort a0 s) := by
  unfold echoAbort
  with_reducible repeat' first
    | assumption | intro _ _ | intro _ | apply keeps_if | simp only [keeps_mk, keeps_fold] | apply keeps_foldl

theorem keeps_faultEntry {r s : State} {a0 a1} (h : Keeps r s) : Keeps r (faultEntry a0 a1 s) := by
  unfold faultEntry
  try dsimp only
  with_reducible repeat' first
    | assumption | apply keeps_echoAbort | apply keeps_liveCheck | apply keeps_parkCheck | apply keeps_published
    | apply keeps_updStl | simp only [keeps_mk, keeps_fold]

theorem keeps_updEcho {r s : State} {a1 a2} (h : Keeps r s) : Keeps r (updEcho s a1 a2) := h

theorem keeps_echoRegWrite {r s : State} {a0 a1 a2} (h : Keeps r s) : KeepsO r (echoRegWrite a0 a1 a2 s) := by
  unfold echoRegWrite
  with_reducible repeat' first
    | assumption | exact keepsO_none | apply keepsO_some | intro _ | apply keeps_updEcho | apply keepsO_if | split

theorem keeps_echoWrite {r s : State} {a0 a1} (h : Keeps r s) : KeepsO r (echoWrite a0 a1 s) := by
  unfold echoWrite
  with_reducible repeat' first
    | assumption | apply keepsO_some | intro _ | apply keeps_echoRegWrite | apply keepsO_if | apply keepsO_dite
    | simp only [keeps_mk, keeps_fold]

theorem keeps_execEchoStart {r s : State} {a0 a1 a2} (h : Keeps r s) : KeepsX r (execEchoStart a0 a1 a2 s) := by
  unfold execEchoStart
  with_reducible repeat' first | assumption | apply keepsX_next | intro _ _ | apply keeps_echoRegWrite | apply keeps_busWrite

theorem keeps_execEchoStop {r s : State} {a0 a1 a2} (h : Keeps r s) : KeepsX r (execEchoStop a0 a1 a2 s) := by
  unfold execEchoStop
  with_reducible repeat' first | assumption | apply keepsX_next | intro _ _ | apply keeps_echoRegWrite | apply keeps_busWrite

theorem keeps_execEchoEnd {r s : State} {a0} (h : Keeps r s) : KeepsX r (execEchoEnd a0 s) := by
  unfold execEchoEnd
  with_reducible repeat' first
    | assumption | apply keepsX_next | intro _ | apply keeps_if | simp only [keeps_mk, keeps_fold]

theorem keeps_updLpe {r s : State} {a1} (h : Keeps r s) : Keeps r (updLpe s a1) := h

theorem keeps_lpeEvt {r s : State} {a0} (h : Keeps r s) : Keeps r (lpeEvt a0 s) := by
  unfold lpeEvt
  with_reducible repeat' first | assumption | apply keeps_updLpe

theorem keeps_takeScene {r s : State} {a0} (h : Keeps r s) : Keeps r (takeScene a0 s) := by
  unfold takeScene
  with_reducible repeat' first
    | assumption | intro _ | apply keeps_lpeEvt | apply keeps_updLpe | apply keeps_updStl | apply keeps_if | split

theorem keeps_advanceEchoes {r s : State} {a1 a2} (h : Keeps r s) : Keeps r (advanceEchoes s a1 a2) := by
  unfold advanceEchoes
  with_reducible repeat' first | assumption | intro _ _ | intro _ | apply keeps_updEcho | apply keeps_if | apply keeps_foldl

theorem keeps_execStallCompute {r s : State} {a0} (h : Keeps r s) : KeepsX r (execStallCompute a0 s) := by
  unfold execStallCompute
  with_reducible repeat' first
    | assumption | apply keepsX_next | intro _ | apply keeps_advanceEchoes | apply keeps_updLpe | apply keeps_updStl
    | apply keeps_if | split

theorem keeps_undoScene {r s : State} {a0} (h : Keeps r s) : Keeps r (undoScene a0 s) := by
  unfold undoScene
  with_reducible repeat' first | assumption | intro _ | apply keeps_updLpe | apply keeps_if | split

theorem keeps_publishCmd {r s : State} {a0} (h : Keeps r s) : Keeps r (publishCmd a0 s) := by
  unfold publishCmd
  try dsimp only
  with_reducible repeat' first | assumption | apply keeps_published

theorem keeps_leaveUpdate {r s : State} {a0} (h : Keeps r s) : Keeps r (leaveUpdate a0 s) := by
  unfold leaveUpdate
  with_reducible repeat' first
    | assumption | apply keeps_publishCmd | apply keeps_liveCheck | apply keeps_parkCheck | apply keeps_updStl

theorem keeps_commitStall {r s : State} {a0} (h : Keeps r s) : Keeps r (commitStall a0 s) := by
  unfold commitStall
  with_reducible repeat' first
    | assumption | apply keeps_undoScene | apply keeps_lpeEvt | apply keeps_updLpe | apply keeps_updStl | split

theorem keeps_firstUpdate {r s : State} {a0 a1} (h : Keeps r s) : Keeps r (firstUpdate a0 a1 s) := by
  unfold firstUpdate
  with_reducible repeat' first
    | assumption | intro _ | apply keeps_liveCheck | apply keeps_updPdk | apply keeps_updStl | apply keeps_if

theorem keeps_stallUpdate {r s : State} {a0} (h : Keeps r s) : Keeps r (stallUpdate a0 s) := by
  unfold stallUpdate
  with_reducible repeat' first
    | assumption | intro _ | apply keeps_firstUpdate | apply keeps_commitStall | apply keeps_leaveUpdate
    | apply keeps_publishCmd | apply keeps_faultEntry | apply keeps_updStl | apply keeps_if

theorem keeps_execStallUpdate {r s : State} {a0} (h : Keeps r s) : KeepsX r (execStallUpdate a0 s) := by
  unfold execStallUpdate
  with_reducible repeat' first
    | assumption | apply keepsX_next | intro _ | apply keeps_stallUpdate | apply keeps_faultEntry | apply keeps_if | split

theorem keeps_takeSample {r s : State} {a0 a1 a2} (h : Keeps r s) : Keeps r (takeSample a0 a1 a2 s) := by
  unfold takeSample
  with_reducible repeat' first | assumption | apply keeps_updStl

theorem keeps_execStallSample {r s : State} {a0} (h : Keeps r s) : KeepsX r (execStallSample a0 s) := by
  unfold execStallSample
  with_reducible repeat' first
    | assumption | apply keepsX_next | intro _ | apply keeps_takeSample | apply keeps_stallUpdate | apply keeps_takeScene
    | apply keeps_updStl | apply keeps_if

theorem keeps_execLpeTick {r s : State} (h : Keeps r s) : KeepsX r (execLpeTick s) := by
  unfold execLpeTick
  with_reducible repeat' first
    | assumption | apply keepsX_next | intro _ | apply keeps_updLpe | apply keeps_if
    | simp only [keeps_mk, keeps_fold]

theorem keeps_cutGate {r s : State} {a0} (h : Keeps r s) : Keeps r (cutGate a0 s) := by
  unfold cutGate
  with_reducible repeat' first | assumption | intro _ | apply keeps_updStl | apply keeps_if

theorem keeps_stallTake {r s : State} {a0 a1 a2 a3 a4} (h : Keeps r s) : Keeps r (stallTake a0 a1 a2 a3 a4 s) := by
  unfold stallTake
  with_reducible repeat' first
    | assumption | intro _ | apply keeps_cutGate | apply keeps_fence | apply keeps_updLane | apply keeps_updStl
    | apply keeps_if

theorem keeps_stallWrite {r s : State} {a0 a1 a2 a3} (h : Keeps r s) : KeepsP r (stallWrite a0 a1 a2 a3 s) := by
  unfold stallWrite
  with_reducible repeat' first
    | assumption | intro _ | apply keeps_stallTake | apply keeps_updStl | apply keepsP_if
    | simp only [keepsP_mk]

theorem keeps_pdkWrite {r s : State} {a0 a1 a2 a3} (h : Keeps r s) : KeepsO r (pdkWrite a0 a1 a2 a3 s) := by
  unfold pdkWrite
  with_reducible repeat' first
    | assumption | exact keepsO_none | apply keepsO_some | intro _ | apply keeps_updPdk | apply keepsO_if | apply keeps_if

theorem keeps_tabWrite {r s : State} {a0} (h : Keeps r s) : KeepsP r (tabWrite a0 s) := by
  unfold tabWrite
  with_reducible repeat' first
    | assumption | intro _ _ | intro _ | apply keeps_updLpe | apply keeps_updStl | apply keepsP_if
    | simp only [keepsP_mk] | apply keeps_foldl

theorem keeps_tabRead {r s : State} (h : Keeps r s) : KeepsP r (tabRead s) := by
  unfold tabRead
  with_reducible repeat' first
    | assumption | intro _ | apply keeps_updLpe | apply keepsP_if | simp only [keepsP_mk]

theorem keeps_lpeWrite {r s : State} {a0 a1} (h : Keeps r s) : KeepsP r (lpeWrite a0 a1 s) := by
  unfold lpeWrite
  with_reducible repeat' first
    | assumption | intro _ | apply keeps_tabWrite | apply keeps_updLpe | apply keeps_postMask | apply keepsP_if
    | simp only [keepsP_mk] | split

theorem keeps_lpeRead {r s : State} {a0} (h : Keeps r s) : KeepsP r (lpeRead a0 s) := by
  unfold lpeRead
  with_reducible repeat' first | assumption | apply keeps_tabRead | simp only [keepsP_mk] | split

theorem keeps_stallCmd {r s : State} {a0 a1 a2 a3} (h : Keeps r s) : Keeps r (stallCmd a0 a1 a2 a3 s) := by
  unfold stallCmd
  with_reducible repeat' first | assumption | intro _ _ | apply keeps_stallWrite | apply keeps_busWriteR

theorem keeps_execLpePostMask {r s : State} {a0 a1} (h : Keeps r s) : KeepsX r (execLpePostMask a0 a1 s) := by
  unfold execLpePostMask
  with_reducible repeat' first | assumption | apply keepsX_next | intro _ _ | apply keeps_lpeWrite | apply keeps_busWriteR

theorem keeps_execStlSpWrite {r s : State} {a0 a1 a2} (h : Keeps r s) : KeepsX r (execStlSpWrite a0 a1 a2 s) := by
  unfold execStlSpWrite
  with_reducible repeat' first | assumption | apply keepsX_next | apply keeps_stallCmd

theorem keeps_execStallEnable {r s : State} {a0 a1 a2} (h : Keeps r s) : KeepsX r (execStallEnable a0 a1 a2 s) := by
  unfold execStallEnable
  with_reducible repeat' first | assumption | apply keepsX_next | apply keeps_stallCmd

theorem keeps_execStallDisable {r s : State} {a0 a1 a2} (h : Keeps r s) : KeepsX r (execStallDisable a0 a1 a2 s) := by
  unfold execStallDisable
  with_reducible repeat' first | assumption | apply keepsX_next | apply keeps_stallCmd

theorem keeps_execLpeTabData {r s : State} {a0 a1} (h : Keeps r s) : KeepsX r (execLpeTabData a0 a1 s) := by
  unfold execLpeTabData
  with_reducible repeat' first
    | assumption | apply keepsX_next | intro _ _ | apply keeps_lpeRead | apply keeps_lpeWrite | apply keeps_busWriteR
    | apply keeps_access | split

theorem keeps_execLpeLoadPeakClr {r s : State} {a0} (h : Keeps r s) : KeepsX r (execLpeLoadPeakClr a0 s) := by
  unfold execLpeLoadPeakClr
  with_reducible repeat' first | assumption | apply keepsX_next | intro _ _ | apply keeps_lpeWrite | apply keeps_busWriteR

theorem keeps_execMissCntClr {r s : State} {a0 a1 a2} (h : Keeps r s) : KeepsX r (execMissCntClr a0 a1 a2 s) := by
  unfold execMissCntClr
  with_reducible repeat' first | assumption | apply keepsX_next | apply keeps_stallCmd

theorem keeps_execClampCntClear {r s : State} {a0 a1 a2 a3} (h : Keeps r s) : KeepsX r (execClampCntClear a0 a1 a2 a3 s) := by
  unfold execClampCntClear
  with_reducible repeat' first | assumption | apply keepsX_next | apply keeps_stallCmd

theorem keeps_updCfg {r s : State} {a1} (h : Keeps r s) : Keeps r (updCfg s a1) := h

theorem keeps_cfgReadL {r s : State} {l : List (Nat × Nat)} (h : Keeps r s) : KeepsP r (cfgReadL l s) := by
  induction l generalizing s with
  | nil => exact ⟨h⟩
  | cons x t ih =>
    obtain ⟨a, n⟩ := x
    simp only [cfgReadL]
    repeat' first
    | with_reducible assumption | (with_reducible apply keeps_dmaPiece) | (with_reducible refine (ih ?_).keeps)
    | (with_reducible refine keeps_snd (by assumption) ?_) | (simp only [keepsP_mk]) | split

theorem keeps_cfgRead {r s : State} {a0 a1} (h : Keeps r s) : KeepsP r (cfgRead a0 a1 s) := by
  unfold cfgRead
  with_reducible repeat' first | assumption | apply keeps_cfgReadL

theorem keeps_cfgRead_2 {r s : State} {a0 a1} (h : Keeps r s) : Keeps r (cfgRead a0 a1 s).2 := (keeps_cfgRead h).keeps

theorem keeps_setStage {r s : State} {a0} (h : Keeps r s) : Keeps r (setStage a0 s) := by
  unfold setStage
  with_reducible repeat' first | assumption | apply keeps_updCfg

theorem keeps_pkvWake {r s : State} (h : Keeps r s) : Keeps r (pkvWake s) := by
  unfold pkvWake
  with_reducible repeat' first | assumption | intro _ | apply keeps_domDemand | apply keeps_if

theorem keeps_pkvTake {r s : State} (h : Keeps r s) : Keeps r (pkvTake s) := by
  unfold pkvTake
  with_reducible repeat' first
    | assumption | intro _ | apply keeps_pkvWake | apply keeps_if | simp only [keeps_mk, keeps_fold]

theorem keeps_startRun {r s : State} {a0 a1 a2 a3 a4} (h : Keeps r s) : Keeps r (startRun a0 a1 a2 a3 a4 s) := by
  unfold startRun
  with_reducible repeat' first | assumption | apply keeps_pkvTake | apply keeps_updCfg | split

theorem keeps_firstPass {r s : State} {a0 a1 a2 a3} (h : Keeps r s) : Keeps r (firstPass a0 a1 a2 a3 s) := by
  unfold firstPass
  with_reducible repeat' first
    | assumption | intro _ | apply keeps_startRun | apply keeps_cfgRead_2 | apply keeps_updCfg | apply keeps_if | split

theorem keeps_readSource {r s : State} (h : Keeps r s) : Keeps r (readSource s) := by
  unfold readSource
  with_reducible repeat' first | assumption | intro _ | apply keeps_firstPass | apply keeps_if | split

theorem keeps_beginLoad {r s : State} {a0 a1 a2} (h : Keeps r s) : Keeps r (beginLoad a0 a1 a2 s) := by
  unfold beginLoad
  with_reducible repeat' first | assumption | intro _ _ | apply keeps_readSource | apply keeps_updCfg | apply keeps_engineRun

theorem keeps_sigDone {r s : State} (h : Keeps r s) : Keeps r (sigDone s) := by
  unfold sigDone
  with_reducible repeat' first
    | assumption | intro _ | apply keeps_setStage | apply keeps_if | simp only [keeps_mk, keeps_fold] | split

theorem keeps_endLoad {r s : State} {a0 a1 a2} (h : Keeps r s) : Keeps r (endLoad a0 a1 a2 s) := by
  unfold endLoad
  with_reducible repeat' first | assumption | apply keeps_updCfg | apply keeps_dropTask

theorem keeps_reject {r s : State} {a0} (h : Keeps r s) : Keeps r (reject a0 s) := by
  unfold reject
  with_reducible repeat' first | assumption | apply keeps_updCfg | apply keeps_cfgEvt

theorem keeps_pdkWake {r s : State} {a0} (h : Keeps r s) : Keeps r (pdkWake a0 s) := by
  unfold pdkWake
  with_reducible repeat' first | assumption | intro _ | apply keeps_domDemand | apply keeps_if

theorem keeps_loadReset {r s : State} {a0} (h : Keeps r s) : Keeps r (loadReset a0 s) := by
  unfold loadReset
  with_reducible repeat' first | assumption | intro _ _ | intro _ | apply keeps_updPdk | apply keeps_updStl | apply keeps_foldl

theorem keeps_effPark {r s : State} {a0 a1} (h : Keeps r s) : Keeps r (effPark a0 a1 s) := by
  unfold effPark
  with_reducible repeat' first | assumption | apply keeps_fence | apply keeps_updPdk

theorem keeps_effLoad {r s : State} {a0} (h : Keeps r s) : Keeps r (effLoad a0 s) := by
  unfold effLoad
  with_reducible repeat' first
    | assumption | intro _ | apply keeps_loadReset | apply keeps_pdkWake | apply keeps_beginLoad | apply keeps_startRun
    | apply keeps_updCfg | apply keeps_fence | apply keeps_updPdk | apply keeps_if

theorem keeps_effUnpark {r s : State} {a0} (h : Keeps r s) : Keeps r (effUnpark a0 s) := by
  unfold effUnpark
  with_reducible repeat' first
    | assumption | intro _ _ | intro _ | apply keeps_pdkWake | apply keeps_fence | apply keeps_domDemand | apply keeps_updPdk
    | apply keeps_updStl | apply keeps_if | apply keeps_foldl

theorem keeps_effAbort {r s : State} {a0} (h : Keeps r s) : Keeps r (effAbort a0 s) := by
  unfold effAbort
  with_reducible repeat' first | assumption | apply keeps_endLoad | apply keeps_updPdk

theorem keeps_effLoadBase {r s : State} (h : Keeps r s) : Keeps r (effLoadBase s) := by
  unfold effLoadBase
  with_reducible repeat' first
    | assumption | intro _ | apply keeps_reject | apply keeps_beginLoad | apply keeps_updCfg | apply keeps_if

theorem keeps_effConfirm {r s : State} {a0 a1} (h : Keeps r s) : Keeps r (effConfirm a0 a1 s) := by
  unfold effConfirm
  with_reducible repeat' first | assumption | intro _ | apply keeps_reject | apply keeps_setStage | apply keeps_if | split

theorem keeps_effPdkCmd {r s : State} {a0 a1 a2} (h : Keeps r s) : Keeps r (effPdkCmd a0 a1 a2 s) := by
  unfold effPdkCmd
  with_reducible repeat' first
    | assumption | intro _ | apply keeps_effAbort | apply keeps_effUnpark | apply keeps_effLoad | apply keeps_effPark
    | apply keeps_reject | apply keeps_if

theorem keeps_effCfgCmd {r s : State} {a0 a1} (h : Keeps r s) : Keeps r (effCfgCmd a0 a1 s) := by
  unfold effCfgCmd
  with_reducible repeat' first | assumption | apply keeps_effPdkCmd | apply keeps_effConfirm | apply keeps_effLoadBase | split

theorem keeps_cfgWrite {r s : State} {a0 a1 a2} (h : Keeps r s) : Keeps r (cfgWrite a0 a1 a2 s) := by
  unfold cfgWrite
  with_reducible repeat' first
    | assumption | intro _ | apply keeps_effCfgCmd | apply keeps_updCfg | apply keeps_updPdk | apply keeps_dite | split

theorem keeps_cfgCmd {r s : State} {a0 a1} (h : Keeps r s) : Keeps r (cfgCmd a0 a1 s) := by
  unfold cfgCmd
  with_reducible repeat' first | assumption | apply keepsO_some | intro _ _ | apply keeps_cfgWrite | apply keeps_busWrite

theorem keeps_execPark {r s : State} {a0 a1 a2} (h : Keeps r s) : KeepsX r (execPark a0 a1 a2 s) := by
  unfold execPark
  with_reducible repeat' first | assumption | apply keepsX_next | apply keeps_cfgCmd

theorem keeps_execLoad {r s : State} {a0 a1} (h : Keeps r s) : KeepsX r (execLoad a0 a1 s) := by
  unfold execLoad
  with_reducible repeat' first | assumption | apply keepsX_next | apply keeps_cfgCmd

theorem keeps_execUnpark {r s : State} {a0 a1} (h : Keeps r s) : KeepsX r (execUnpark a0 a1 s) := by
  unfold execUnpark
  with_reducible repeat' first | assumption | apply keepsX_next | apply keeps_cfgCmd

theorem keeps_execAbort {r s : State} {a0 a1} (h : Keeps r s) : KeepsX r (execAbort a0 a1 s) := by
  unfold execAbort
  with_reducible repeat' first | assumption | apply keepsX_next | apply keeps_cfgCmd

theorem keeps_execLoadBase {r s : State} {a0} (h : Keeps r s) : KeepsX r (execLoadBase a0 s) := by
  unfold execLoadBase
  with_reducible repeat' first | assumption | apply keepsX_next | apply keeps_cfgCmd

theorem keeps_execConfirm {r s : State} {a0 a1} (h : Keeps r s) : KeepsX r (execConfirm a0 a1 s) := by
  unfold execConfirm
  with_reducible repeat' first | assumption | apply keepsX_next | apply keeps_cfgCmd

theorem keeps_execWaitSwv {r s : State} (h : Keeps r s) : KeepsX r (execWaitSwv s) := by
  unfold execWaitSwv
  with_reducible repeat' first | assumption | apply keepsX_next | apply keeps_setStage | split

theorem keeps_execParkingStart {r s : State} {a0} (h : Keeps r s) : KeepsX r (execParkingStart a0 s) := by
  unfold execParkingStart
  with_reducible repeat' first
    | assumption | apply keepsX_next | intro _ _ | intro _ | apply keeps_parkCheck | apply keeps_updPdk | apply keeps_updStl
    | apply keeps_if | apply keeps_foldl

theorem keeps_execStallFreeze {r s : State} {a0} (h : Keeps r s) : KeepsX r (execStallFreeze a0 s) := by
  unfold execStallFreeze
  with_reducible repeat' first
    | assumption | apply keepsX_next | intro _ | apply keeps_stallUpdate | apply keeps_parkCheck | apply keeps_updStl
    | apply keeps_if

theorem keeps_execHoldExp {r s : State} {a0} (h : Keeps r s) : KeepsX r (execHoldExp a0 s) := by
  unfold execHoldExp
  with_reducible repeat' first
    | assumption | apply keepsX_next | intro _ _ | intro _ | apply keeps_cfgEvt | apply keeps_updPdk | apply keeps_updStl
    | apply keeps_if | apply keeps_foldl

theorem keeps_execUnparkingStart {r s : State} {a0} (h : Keeps r s) : KeepsX r (execUnparkingStart a0 s) := by
  unfold execUnparkingStart
  with_reducible repeat' first
    | assumption | apply keepsX_next | intro _ _ | intro _ | apply keeps_liveCheck | apply keeps_updPdk | apply keeps_updStl
    | apply keeps_if | apply keeps_foldl

end Sys2Proof.Machine
end

