-- ==== Sys2Proof/Laws/KeepsUnits.lean ====
section
/-!
SUPPORT. KeepsUnits: every operation of the cipher engine, the ports, the air rules keeps the queue, the form of memory, the rollback floor and the OTP.
-/

namespace Sys2Proof.Machine

open Sys2Proof

theorem keeps_isolate {r s : State} {a1} (h : Keeps r s) : Keeps r (isolate s a1) := by
  unfold isolate
  with_reducible repeat' first
    | assumption | intro _ | apply keeps_domDown | apply keeps_if | simp only [keeps_mk, keeps_fold]

theorem keeps_deadWaiting {r s : State} (h : Keeps r s) : Keeps r (deadWaiting s) := by
  unfold deadWaiting
  with_reducible repeat' first
    | assumption | intro _ _ | intro _ | apply keeps_noteSpis | apply keeps_respond
    | simp only [keeps_mk, keeps_fold] | apply keeps_foldl

theorem keeps_markPdk {r s : State} {a1} (h : Keeps r s) : Keeps r (markPdk s a1) := by
  unfold markPdk
  try dsimp only
  with_reducible repeat' first | assumption | intro _ | apply keeps_endLoad | apply keeps_updPdk | apply keeps_if | split

theorem keeps_markUnits {r s : State} (h : Keeps r s) : Keeps r (markUnits s) := h

theorem keeps_markBlocks {r s : State} {a0} (h : Keeps r s) : Keeps r (markBlocks a0 s) := by
  unfold markBlocks
  with_reducible repeat' first
    | assumption | intro _ _ | intro _ | apply keeps_markUnits | apply keeps_markPdk | apply keeps_deadWaiting
    | apply keeps_isolate | apply keeps_cutGates | simp only [keeps_mk, keeps_fold] | apply keeps_foldl

theorem keeps_recordFail {r s : State} {a0 a1} (h : Keeps r s) : Keeps r (recordFail a0 a1 s) := h

theorem keeps_testedReset {r s : State} {a0} (h : Keeps r s) : Keeps r (testedReset a0 s) := by
  unfold testedReset
  with_reducible repeat' first | assumption | simp only [keeps_mk, keeps_fold] | apply keeps_clear | split

theorem keeps_bistEnd {r s : State} {a0 a1} (h : Keeps r s) : Keeps r (bistEnd a0 a1 s) := by
  unfold bistEnd
  with_reducible repeat' first
    | assumption | intro _ | apply keeps_testedReset | apply keeps_markBlocks | apply keeps_if
    | simp only [keeps_mk, keeps_fold]

theorem keeps_bistAbort {r s : State} (h : Keeps r s) : Keeps r (bistAbort s) := by
  unfold bistAbort
  with_reducible repeat' first | assumption | apply keeps_bistEnd | split

theorem keeps_updCry {r s : State} {a1} (h : Keeps r s) : Keeps r (updCry s a1) := h

theorem keeps_cryEvt {r s : State} {a0} (h : Keeps r s) : Keeps r (cryEvt a0 s) := by
  unfold cryEvt
  with_reducible repeat' first | assumption | apply keeps_updCry

theorem keeps_cplStall {r s : State} (h : Keeps r s) : Keeps r (cplStall s) := by
  unfold cplStall
  with_reducible repeat' first | assumption | intro _ | apply keeps_updCry | apply keeps_if

theorem keeps_cplPosted {r s : State} (h : Keeps r s) : Keeps r (cplPosted s) := by
  unfold cplPosted
  with_reducible repeat' first | assumption | apply keeps_updCry

theorem keeps_setJobs {r s : State} {a0} (h : Keeps r s) : Keeps r (setJobs a0 s) := by
  unfold setJobs
  with_reducible repeat' first | assumption | apply keeps_updCry

theorem keeps_finishJob {r s : State} {a0 a1 a2 a3} (h : Keeps r s) : Keeps r (finishJob a0 a1 a2 a3 s) := by
  unfold finishJob
  with_reducible repeat' first
    | assumption | intro _ | apply keeps_cplStall | apply keeps_cryEvt | apply keeps_updCry | apply keeps_if

theorem keeps_acceptJob {r s : State} {a0} (h : Keeps r s) : Keeps r (acceptJob a0 s) := by
  unfold acceptJob
  with_reducible repeat' first
    | assumption | intro _ | apply keeps_finishJob | apply keeps_setJobs | apply keeps_cryEvt | apply keeps_updCry
    | apply keeps_fence | apply keeps_dmaRead_2 | apply keeps_if | split

theorem keeps_updUnit {r s : State} {a1 a2} (h : Keeps r s) : Keeps r (updUnit s a1 a2) := by
  unfold updUnit
  with_reducible repeat' first | assumption | apply keeps_updCry

theorem keeps_takeJob {r s : State} {a0} (h : Keeps r s) : Keeps r (takeJob a0 s) := by
  unfold takeJob
  with_reducible repeat' first | assumption | apply keeps_setJobs

theorem keeps_admitHeld {r s : State} (h : Keeps r s) : Keeps r (admitHeld s) := by
  unfold admitHeld
  with_reducible repeat' first | assumption | apply keeps_setJobs | apply keeps_updCry | split

theorem keeps_endPort {r s : State} {a0 a1} (h : Keeps r s) : Keeps r (endPort a0 a1 s) := by
  unfold endPort
  with_reducible repeat' first | assumption | apply keeps_admitHeld | apply keeps_updCry

theorem keeps_portRequest {r s : State} {a0 a1 a2 a3 a4} (h : Keeps r s) : KeepsP r (portRequest a0 a1 a2 a3 a4 s) := by
  unfold portRequest
  with_reducible repeat' first
    | assumption | intro _ | apply keeps_admitHeld | apply keeps_updCry | apply keeps_fence | apply keepsP_if | apply keeps_if
    | simp only [keeps_mk, keeps_fold, keepsP_mk]

theorem keeps_closeJob {r s : State} {a0 a1 a2 a3} (h : Keeps r s) : Keeps r (closeJob a0 a1 a2 a3 s) := by
  unfold closeJob
  with_reducible repeat' first | assumption | intro _ | apply keeps_endPort | apply keeps_finishJob | apply keeps_if

theorem keeps_giveJob {r s : State} {a0 a1} (h : Keeps r s) : Keeps r (giveJob a0 a1 s) := by
  unfold giveJob
  with_reducible repeat' first
    | assumption | intro _ | apply keeps_closeJob | apply keeps_takeJob | apply keeps_updUnit | apply keeps_if

theorem keeps_resumeJob {r s : State} {a0} (h : Keeps r s) : Keeps r (resumeJob a0 s) := by
  unfold resumeJob
  with_reducible repeat' first | assumption | apply keeps_updUnit

theorem keeps_dispatch {r s : State} {a0} (h : Keeps r s) : Keeps r (dispatch a0 s) := by
  unfold dispatch
  with_reducible repeat' first
    | assumption | intro _ | apply keeps_resumeJob | apply keeps_giveJob | apply keeps_closeJob | apply keeps_takeJob
    | apply keeps_if | split

theorem keeps_jobInputs {r s : State} {a0} (h : Keeps r s) : KeepsP r (jobInputs a0 s) := by
  unfold jobInputs
  with_reducible repeat' first
    | assumption | apply keeps_dmaRead | simp only [keepsP_mk] | refine keeps_snd (by assumption) ?_
    | split

theorem keeps_jobInputs_2 {r s : State} {a0} (h : Keeps r s) : Keeps r (jobInputs a0 s).2 := (keeps_jobInputs h).keeps

theorem keeps_jobBroken {r s : State} {a0 a1 a2} (h : Keeps r s) : Keeps r (jobBroken a0 a1 a2 s) := by
  unfold jobBroken
  with_reducible repeat' first | assumption | intro _ | apply keeps_dmaZero_2 | apply keeps_dmaWrite_2 | apply keeps_if

theorem keeps_fillSlot {r s : State} {a0 a1} (h : Keeps r s) : Keeps r (fillSlot a0 a1 s) := by
  unfold fillSlot
  with_reducible repeat' first | assumption | apply keeps_updCry

theorem keeps_jobOutput {r s : State} {a0 a1 a2} (h : Keeps r s) : KeepsP r (jobOutput a0 a1 a2 s) := by
  unfold jobOutput
  with_reducible repeat' first
    | assumption | intro _ | refine keeps_oldMem (s := s) ?_ ?_ | apply keeps_fillSlot | apply keeps_dmaZero_2
    | apply keeps_dmaWrite | apply keepsP_if | simp only [keeps_mk, keepsP_mk]
    | refine keeps_snd (by assumption) ?_ | split

theorem keeps_runJob {r s : State} {a0 a1} (h : Keeps r s) : KeepsP r (runJob a0 a1 s) := by
  unfold runJob
  with_reducible repeat' first
    | assumption | intro _ | apply keeps_jobOutput | apply keeps_jobBroken | apply keeps_jobInputs_2 | apply keepsP_if
    | simp only [keepsP_mk]

theorem keeps_runJob_2 {r s : State} {a0 a1} (h : Keeps r s) : Keeps r (runJob a0 a1 s).2 := (keeps_runJob h).keeps

theorem keeps_endJob {r s : State} {a0} (h : Keeps r s) : Keeps r (endJob a0 s) := by
  unfold endJob
  with_reducible repeat' first
    | assumption | intro _ | apply keeps_runJob_2 | apply keeps_resumeJob | apply keeps_endPort | apply keeps_updUnit
    | apply keeps_finishJob | apply keeps_if | split

theorem keeps_postCpl {r s : State} (h : Keeps r s) : Keeps r (postCpl s) := by
  unfold postCpl
  with_reducible repeat' first
    | assumption | intro _ | apply keeps_cplPosted | apply keeps_cryEvt | apply keeps_updCry | apply keeps_dmaWrite_2
    | apply keeps_if | split

theorem keeps_effCryProd {r s : State} {a0 a1 a2} (h : Keeps r s) : Keeps r (effCryProd a0 a1 a2 s) := by
  unfold effCryProd
  with_reducible repeat' first | assumption | apply keeps_updCry | apply keeps_fence

theorem keeps_ringWrite {r s : State} {a0 a1 a2 a3} (h : Keeps r s) : KeepsO r (ringWrite a0 a1 a2 a3 s) := by
  unfold ringWrite
  with_reducible repeat' first
    | assumption | exact keepsO_none | apply keepsO_some | intro _ | apply keeps_effCryProd | apply keeps_updCry
    | apply keepsO_if | split

theorem keeps_effFlush {r s : State} {a0} (h : Keeps r s) : Keeps r (effFlush a0 s) := by
  unfold effFlush
  with_reducible repeat' first
    | assumption | intro _ _ | intro _ | apply keeps_finishJob | apply keeps_setJobs | apply keeps_foldl

theorem keeps_effOut {r s : State} {a0} (h : Keeps r s) : Keeps r (effOut a0 s) := by
  unfold effOut
  with_reducible repeat' first | assumption | intro _ | apply keeps_updUnit | apply keeps_if

theorem keeps_effIn {r s : State} {a0} (h : Keeps r s) : Keeps r (effIn a0 s) := by
  unfold effIn
  with_reducible repeat' first | assumption | intro _ | apply keeps_updUnit | apply keeps_if

theorem keeps_updSlot {r s : State} {a1} (h : Keeps r s) : Keeps r (updSlot s a1) := by
  unfold updSlot
  with_reducible repeat' first | assumption | apply keeps_updCry

theorem keeps_effKsPol {r s : State} {a0} (h : Keeps r s) : KeepsO r (effKsPol a0 s) := by
  unfold effKsPol
  with_reducible repeat' first
    | assumption | exact keepsO_none | apply keepsO_some | intro _ | apply keeps_updSlot | apply keepsO_if

theorem keeps_clearStage {r s : State} (h : Keeps r s) : Keeps r (clearStage s) := by
  unfold clearStage
  with_reducible repeat' first | assumption | apply keeps_updCry

theorem keeps_effKsLoad {r s : State} (h : Keeps r s) : KeepsO r (effKsLoad s) := by
  unfold effKsLoad
  with_reducible repeat' first
    | assumption | exact keepsO_none | apply keepsO_some | intro _ | apply keeps_clearStage | apply keeps_updSlot
    | apply keepsO_if

theorem keeps_effKsClear {r s : State} (h : Keeps r s) : KeepsO r (effKsClear s) := by
  unfold effKsClear
  with_reducible repeat' first
    | assumption | exact keepsO_none | apply keepsO_some | intro _ | apply keeps_clearStage | apply keeps_updSlot
    | apply keepsO_if

theorem keeps_effCryCntClr {r s : State} {a0} (h : Keeps r s) : Keeps r (effCryCntClr a0 s) := by
  unfold effCryCntClr
  with_reducible repeat' first | assumption | intro _ | apply keeps_updCry | apply keeps_if

theorem keeps_ksWrite {r s : State} {a0 a1 a2} (h : Keeps r s) : KeepsO r (ksWrite a0 a1 a2 s) := by
  unfold ksWrite
  with_reducible repeat' first
    | assumption | exact keepsO_none | apply keepsO_some | intro _ | apply keeps_effKsClear | apply keeps_effKsLoad
    | apply keeps_effKsPol | apply keeps_updCry | apply keepsO_if | split

theorem keeps_cryWrite {r s : State} {a0 a1 a2} (h : Keeps r s) : KeepsO r (cryWrite a0 a1 a2 s) := by
  unfold cryWrite
  with_reducible repeat' first
    | assumption | exact keepsO_none | apply keepsO_some | intro _ | apply keeps_ksWrite | apply keeps_effCryCntClr
    | apply keeps_effIn | apply keeps_effOut | apply keeps_effFlush | apply keeps_ringWrite | apply keeps_updCry
    | apply keepsO_if | apply keeps_if | split

theorem keeps_cryBus {r s : State} {a0 a1 a2} (h : Keeps r s) : Keeps r (cryBus a0 a1 a2 s) := by
  unfold cryBus
  with_reducible repeat' first | assumption | intro _ _ | apply keeps_cryWrite | apply keeps_busWrite

theorem keeps_execCryProd {r s : State} {a0 a1 a2} (h : Keeps r s) : KeepsX r (execCryProd a0 a1 a2 s) := by
  unfold execCryProd
  with_reducible repeat' first | assumption | apply keepsX_next | apply keeps_cryBus

theorem keeps_execJobAged {r s : State} {a0} (h : Keeps r s) : KeepsX r (execJobAged a0 s) := by
  unfold execJobAged
  with_reducible repeat' first | assumption | apply keepsX_next | apply keeps_updCry

theorem keeps_execCplCons {r s : State} {a0 a1} (h : Keeps r s) : KeepsX r (execCplCons a0 a1 s) := by
  unfold execCplCons
  with_reducible repeat' first | assumption | apply keepsX_next | apply keeps_cryBus

theorem keeps_execCryFlush {r s : State} {a0 a1} (h : Keeps r s) : KeepsX r (execCryFlush a0 a1 s) := by
  unfold execCryFlush
  with_reducible repeat' first | assumption | apply keepsX_next | apply keeps_cryBus

theorem keeps_execKsPol {r s : State} {a0 a1} (h : Keeps r s) : KeepsX r (execKsPol a0 a1 s) := by
  unfold execKsPol
  with_reducible repeat' first | assumption | apply keepsX_next | apply keeps_cryBus

theorem keeps_execKsLoad {r s : State} {a0} (h : Keeps r s) : KeepsX r (execKsLoad a0 s) := by
  unfold execKsLoad
  with_reducible repeat' first | assumption | apply keepsX_next | apply keeps_cryBus

theorem keeps_execKsClear {r s : State} {a0} (h : Keeps r s) : KeepsX r (execKsClear a0 s) := by
  unfold execKsClear
  with_reducible repeat' first | assumption | apply keepsX_next | apply keeps_cryBus

theorem keeps_execOutReq {r s : State} {a0 a1} (h : Keeps r s) : KeepsX r (execOutReq a0 a1 s) := by
  unfold execOutReq
  with_reducible repeat' first | assumption | apply keepsX_next | apply keeps_cryBus

theorem keeps_execInReq {r s : State} {a0 a1} (h : Keeps r s) : KeepsX r (execInReq a0 a1 s) := by
  unfold execInReq
  with_reducible repeat' first | assumption | apply keepsX_next | apply keeps_cryBus

theorem keeps_execKatEnd {r s : State} {a0 a1} (h : Keeps r s) : KeepsX r (execKatEnd a0 a1 s) := by
  unfold execKatEnd
  with_reducible repeat' first
    | assumption | apply keepsX_next | intro _ | apply keeps_updUnit | apply keeps_cryEvt | apply keeps_if

theorem keeps_execCryCntClr {r s : State} {a0} (h : Keeps r s) : KeepsX r (execCryCntClr a0 s) := by
  unfold execCryCntClr
  with_reducible repeat' first | assumption | apply keepsX_next | apply keeps_cryBus

theorem keeps_updPkv {r s : State} {a1} (h : Keeps r s) : Keeps r (updPkv s a1) := h

theorem keeps_effPkvStart {r s : State} (h : Keeps r s) : KeepsO r (effPkvStart s) := by
  unfold effPkvStart
  with_reducible repeat' first
    | assumption | exact keepsO_none | apply keepsO_some | intro _ | apply keeps_updPkv | apply keeps_fence | apply keepsO_if

theorem keeps_pkvEnd {r s : State} (h : Keeps r s) : Keeps r (pkvEnd s) := by
  unfold pkvEnd
  try dsimp only
  with_reducible repeat' first | assumption | apply keeps_updPkv | apply keeps_sigDone | apply keeps_pkvTake | split

theorem keeps_pkvWrite {r s : State} {a0 a1} (h : Keeps r s) : KeepsO r (pkvWrite a0 a1 s) := by
  unfold pkvWrite
  with_reducible repeat' first
    | assumption | exact keepsO_none | apply keepsO_some | intro _ | apply keeps_effPkvStart | apply keeps_updPkv
    | apply keepsO_if | split

theorem keeps_execPkvStart {r s : State} {a0} (h : Keeps r s) : KeepsX r (execPkvStart a0 s) := by
  unfold execPkvStart
  with_reducible repeat' first | assumption | apply keepsX_next | intro _ _ | apply keeps_pkvWrite | apply keeps_busWrite

theorem keeps_execPkvDone {r s : State} (h : Keeps r s) : KeepsX r (execPkvDone s) := by
  unfold execPkvDone
  with_reducible repeat' first | assumption | apply keepsX_next | apply keeps_pkvEnd

theorem keeps_updDli {r s : State} {a1} (h : Keeps r s) : Keeps r (updDli s a1) := h

theorem keeps_dliWrite {r s : State} {a0 a1} (h : Keeps r s) : KeepsO r (dliWrite a0 a1 s) := by
  unfold dliWrite
  with_reducible repeat' first
    | assumption | apply keepsO_some | intro _ | apply keeps_updDli | simp only [keeps_mk, keeps_fold]
    | apply keepsO_map | split

theorem keeps_execDaliFrame {r s : State} {a0 a1 a2} (h : Keeps r s) : KeepsX r (execDaliFrame a0 a1 a2 s) := by
  unfold execDaliFrame
  with_reducible repeat' first | assumption | apply keepsX_next | intro _ | apply keeps_updDli | apply keeps_if

theorem keeps_execSend {r s : State} {a0 a1} (h : Keeps r s) : KeepsX r (execSend a0 a1 s) := by
  unfold execSend
  with_reducible repeat' first | assumption | apply keepsX_next | intro _ _ | apply keeps_dliWrite | apply keeps_busWrite

theorem keeps_execDliTxc {r s : State} {a0 a1} (h : Keeps r s) : KeepsX r (execDliTxc a0 a1 s) := by
  unfold execDliTxc
  with_reducible repeat' first | assumption | apply keepsX_next | intro _ _ | apply keeps_dliWrite | apply keeps_busWrite

theorem keeps_execSettleExpiry {r s : State} (h : Keeps r s) : KeepsX r (execSettleExpiry s) := by
  unfold execSettleExpiry
  with_reducible repeat' first | assumption | apply keepsX_next | intro _ | apply keeps_updDli | apply keeps_if

theorem keeps_execBackwardFrameStart {r s : State} (h : Keeps r s) : KeepsX r (execBackwardFrameStart s) := by
  unfold execBackwardFrameStart
  with_reducible repeat' first | assumption | apply keepsX_next | intro _ | apply keeps_updDli | apply keeps_if

theorem keeps_execNobf {r s : State} (h : Keeps r s) : KeepsX r (execNobf s) := by
  unfold execNobf
  with_reducible repeat' first | assumption | apply keepsX_next | intro _ | apply keeps_updDli | apply keeps_if

theorem keeps_execTxdone {r s : State} (h : Keeps r s) : KeepsX r (execTxdone s) := by
  unfold execTxdone
  with_reducible repeat' first | assumption | apply keepsX_next | intro _ | apply keeps_updDli | apply keeps_if

theorem keeps_execColl {r s : State} (h : Keeps r s) : KeepsX r (execColl s) := by
  unfold execColl
  with_reducible repeat' first | assumption | apply keepsX_next | intro _ | apply keeps_updDli | apply keeps_if

theorem keeps_execBusfail {r s : State} {a0} (h : Keeps r s) : KeepsX r (execBusfail s a0) := by
  unfold execBusfail
  with_reducible repeat' first | assumption | apply keepsX_next | intro _ | apply keeps_updDli | apply keeps_if

theorem keeps_updSpis {r s : State} {a1} (h : Keeps r s) : Keeps r (updSpis s a1) := h

theorem keeps_spisWrite {r s : State} {a0 a1 a2} (h : Keeps r s) : KeepsO r (spisWrite a0 a1 a2 s) := by
  unfold spisWrite
  with_reducible repeat' first | assumption | apply keepsO_some | apply keeps_updSpis | split

theorem keeps_spisRead {r s : State} {a0 a1} (h : Keeps r s) : KeepsP r (spisRead a0 a1 s) := by
  unfold spisRead
  with_reducible repeat' first
    | assumption | intro _ | apply keeps_updSpis | apply keeps_if | simp only [keepsP_mk] | split

theorem keeps_spisRead_2 {r s : State} {a0 a1} (h : Keeps r s) : Keeps r (spisRead a0 a1 s).2 := (keeps_spisRead h).keeps

theorem keeps_execSpisTohost {r s : State} {a0 a1} (h : Keeps r s) : KeepsX r (execSpisTohost a0 a1 s) := by
  unfold execSpisTohost
  with_reducible repeat' first | assumption | apply keepsX_next | intro _ _ | apply keeps_spisWrite | apply keeps_busWrite

theorem keeps_execFromhostRead {r s : State} {a0} (h : Keeps r s) : KeepsX r (execFromhostRead a0 s) := by
  unfold execFromhostRead
  with_reducible repeat' first | assumption | apply keepsX_next | intro _ _ | apply keeps_spisRead | apply keeps_busRead

theorem keeps_updUart {r s : State} {a1 a2} (h : Keeps r s) : Keeps r (updUart s a1 a2) := h

theorem keeps_uartWrite {r s : State} {a0 a1 a2} (h : Keeps r s) : KeepsO r (uartWrite a0 a1 a2 s) := by
  unfold uartWrite
  with_reducible repeat' first
    | assumption | exact keepsO_none | apply keepsO_some | intro _ | apply keeps_updUart | apply keepsO_if | split

theorem keeps_uartPop {r s : State} {a0} (h : Keeps r s) : KeepsP r (uartPop a0 s) := by
  unfold uartPop
  with_reducible repeat' first | assumption | apply keeps_updUart | simp only [keeps_mk, keeps_fold, keepsP_mk] | split

theorem keeps_uartRead {r s : State} {a0 a1} (h : Keeps r s) : KeepsP r (uartRead a0 a1 s) := by
  unfold uartRead
  with_reducible repeat' first | assumption | apply keeps_uartPop | simp only [keepsP_mk] | split

theorem keeps_uartRead_2 {r s : State} {a0 a1} (h : Keeps r s) : Keeps r (uartRead a0 a1 s).2 := (keeps_uartRead h).keeps

theorem keeps_execUartRxChar {r s : State} {a0 a1 a2 a3 a4} (h : Keeps r s) : KeepsX r (execUartRxChar a0 a1 a2 a3 a4 s) := by
  unfold execUartRxChar
  with_reducible repeat' first | assumption | apply keepsX_next | intro _ | apply keeps_updUart | apply keeps_if

theorem keeps_execUartTxChar {r s : State} {a0} (h : Keeps r s) : KeepsX r (execUartTxChar a0 s) := by
  unfold execUartTxChar
  with_reducible repeat' first | assumption | apply keepsX_next | intro _ | apply keeps_updUart | apply keeps_if

theorem keeps_execUartDataWrite {r s : State} {a0 a1 a2} (h : Keeps r s) : KeepsX r (execUartDataWrite a0 a1 a2 s) := by
  unfold execUartDataWrite
  with_reducible repeat' first | assumption | apply keepsX_next | intro _ _ | apply keeps_uartWrite | apply keeps_busWrite

theorem keeps_execUartDataRead {r s : State} {a0 a1} (h : Keeps r s) : KeepsX r (execUartDataRead a0 a1 s) := by
  unfold execUartDataRead
  with_reducible repeat' first | assumption | apply keepsX_next | intro _ _ | apply keeps_uartRead | apply keeps_busRead

theorem keeps_execCts {r s : State} {a0 a1} (h : Keeps r s) : KeepsX r (execCts a0 a1 s) := by
  unfold execCts
  with_reducible repeat' first | assumption | apply keepsX_next | intro _ | apply keeps_updUart | apply keeps_if

theorem keeps_updI2c {r s : State} {a1 a2} (h : Keeps r s) : Keeps r (updI2c s a1 a2) := h

theorem keeps_i2cWrite {r s : State} {a0 a1 a2} (h : Keeps r s) : KeepsO r (i2cWrite a0 a1 a2 s) := by
  unfold i2cWrite
  with_reducible repeat' first | assumption | apply keepsO_some | apply keeps_updI2c | split

theorem keeps_i2cPop {r s : State} {a0} (h : Keeps r s) : KeepsP r (i2cPop a0 s) := by
  unfold i2cPop
  with_reducible repeat' first | assumption | apply keeps_updI2c | simp only [keeps_mk, keeps_fold, keepsP_mk] | split

theorem keeps_i2cRead {r s : State} {a0 a1} (h : Keeps r s) : KeepsP r (i2cRead a0 a1 s) := by
  unfold i2cRead
  with_reducible repeat' first | assumption | apply keeps_i2cPop | simp only [keepsP_mk] | split

theorem keeps_i2cRead_2 {r s : State} {a0 a1} (h : Keeps r s) : Keeps r (i2cRead a0 a1 s).2 := (keeps_i2cRead h).keeps

theorem keeps_execGo {r s : State} {a0 a1 a2} (h : Keeps r s) : KeepsX r (execGo a0 a1 a2 s) := by
  unfold execGo
  with_reducible repeat' first | assumption | apply keepsX_next | intro _ _ | apply keeps_i2cWrite | apply keeps_busWrite

theorem keeps_execI2cDone {r s : State} {a0 a1 a2} (h : Keeps r s) : KeepsX r (execI2cDone a0 a1 a2 s) := by
  unfold execI2cDone
  with_reducible repeat' first | assumption | apply keepsX_next | intro _ | apply keeps_updI2c | apply keeps_if

theorem keeps_execI2cTimeout {r s : State} {a0} (h : Keeps r s) : KeepsX r (execI2cTimeout a0 s) := by
  unfold execI2cTimeout
  with_reducible repeat' first | assumption | apply keepsX_next | intro _ | apply keeps_updI2c | apply keeps_if

theorem keeps_execI2cDataAccess {r s : State} {a0 a1 a2} (h : Keeps r s) : KeepsX r (execI2cDataAccess a0 a1 a2 s) := by
  unfold execI2cDataAccess
  with_reducible repeat' first
    | assumption | apply keepsX_next | intro _ _ | apply keeps_i2cRead | apply keeps_i2cWrite | apply keeps_busRead
    | apply keeps_busWrite | split

theorem keeps_updRgy {r s : State} {a1} (h : Keeps r s) : Keeps r (updRgy s a1) := h

theorem keeps_rgyAdmit {r s : State} {a0 a1 a2} (h : Keeps r s) : KeepsP r (rgyAdmit a0 a1 a2 s) := by
  unfold rgyAdmit
  with_reducible repeat' first
    | assumption | intro _ | apply keeps_updRgy | apply keepsP_if | simp only [keepsP_mk] | split

theorem keeps_clampPower {r s : State} {a0} (h : Keeps r s) : Keeps r (clampPower a0 s) := by
  unfold clampPower
  with_reducible repeat' first | assumption | intro _ | apply keeps_updRgy | apply keeps_if

theorem keeps_charge {r s : State} {a0 a1} (h : Keeps r s) : Keeps r (charge a0 a1 s) := by
  unfold charge
  with_reducible repeat' first | assumption | apply keeps_updRgy

theorem keeps_effRgyCntClr {r s : State} {a0} (h : Keeps r s) : Keeps r (effRgyCntClr a0 s) := by
  unfold effRgyCntClr
  with_reducible repeat' first | assumption | intro _ | apply keeps_updRgy | apply keeps_if

theorem keeps_rgyWrite {r s : State} {a0 a1 a2} (h : Keeps r s) : KeepsO r (rgyWrite a0 a1 a2 s) := by
  unfold rgyWrite
  with_reducible repeat' first
    | assumption | exact keepsO_none | apply keepsO_some | intro _ | apply keeps_effRgyCntClr | apply keeps_updRgy
    | apply keepsO_if | split

theorem keeps_execBucketBoundary {r s : State} {a0} (h : Keeps r s) : KeepsX r (execBucketBoundary a0 s) := by
  unfold execBucketBoundary
  with_reducible repeat' first | assumption | apply keepsX_next | intro _ | apply keeps_updRgy | apply keeps_if

theorem keeps_execRgyCntClr {r s : State} {a0} (h : Keeps r s) : KeepsX r (execRgyCntClr a0 s) := by
  unfold execRgyCntClr
  with_reducible repeat' first | assumption | apply keepsX_next | intro _ _ | apply keeps_rgyWrite | apply keeps_busWrite

end Sys2Proof.Machine
end

