-- ==== Sys2Proof/Laws/KeepsRadio.lean ====
section
/-!
SUPPORT. KeepsRadio: every operation of the radio, Troax and the power states keeps the queue, the form of memory, the rollback floor and the OTP.
-/

namespace Sys2Proof.Machine

open Sys2Proof

theorem keeps_trxEvt {r s : State} {a0} (h : Keeps r s) : Keeps r (trxEvt a0 s) := by
  unfold trxEvt
  with_reducible repeat' first | assumption | apply keeps_updTrx

theorem keeps_rfFollow {r s : State} (h : Keeps r s) : Keeps r (rfFollow s) := by
  unfold rfFollow
  with_reducible repeat' first | assumption | intro _ | apply keeps_trxEvt | apply keeps_updClk | apply keeps_if

theorem keeps_radioEnd {r s : State} (h : Keeps r s) : Keeps r (radioEnd s) := by
  unfold radioEnd
  with_reducible repeat' first | assumption | apply keeps_rfFollow | apply keeps_chanApply

theorem keeps_completeDesc {r s : State} {a0 a1 a2 a3 a4 a5} (h : Keeps r s) : Keeps r (completeDesc a0 a1 a2 a3 a4 a5 s) := by
  unfold completeDesc
  with_reducible repeat' first
    | assumption | intro _ | apply keeps_trxEvt | apply keeps_updTrx | apply keeps_post | apply keeps_if
    | simp only [keeps_mk, keeps_fold] | split

theorem keeps_completeTx {r s : State} {a0 a1} (h : Keeps r s) : Keeps r (completeTx a0 a1 s) := by
  unfold completeTx
  with_reducible repeat' first | assumption | apply keeps_completeDesc | apply keeps_radioEnd | apply keeps_updTrx

theorem keeps_cutOff {r s : State} {a0} (h : Keeps r s) : Keeps r (cutOff a0 s) := by
  unfold cutOff
  with_reducible repeat' first | assumption | intro _ | apply keeps_charge | apply keeps_if | split

theorem keeps_askSeal {r s : State} {a0} (h : Keeps r s) : KeepsP r (askSeal a0 s) := by
  unfold askSeal
  with_reducible repeat' first
    | assumption | apply keeps_portRequest | apply keeps_updTrx | simp only [keepsP_mk]
    | refine keeps_snd (by assumption) ?_ | split

theorem keeps_atStage {r s : State} {a0 a1} (h : Keeps r s) : Keeps r (atStage a0 a1 s) := by
  unfold atStage
  with_reducible repeat' first | assumption | apply keeps_updTrx

theorem keeps_commitTx {r s : State} {a0 a1} (h : Keeps r s) : Keeps r (commitTx a0 a1 s) := by
  unfold commitTx
  with_reducible repeat' first
    | assumption | intro _ | apply keeps_atStage | apply keeps_askSeal | apply keeps_completeTx | apply keeps_clampPower
    | apply keeps_updTrx | apply keeps_if | refine keeps_snd (by assumption) ?_ | split

theorem keeps_carryOn {r s : State} {a0} (h : Keeps r s) : Keeps r (carryOn a0 s) := by
  unfold carryOn
  with_reducible repeat' first | assumption | intro _ | apply keeps_commitTx | apply keeps_atStage | apply keeps_if

theorem keeps_admitTx {r s : State} {a0} (h : Keeps r s) : Keeps r (admitTx a0 s) := by
  unfold admitTx
  try dsimp only
  with_reducible repeat' first
    | assumption | intro _ | apply keeps_carryOn | apply keeps_completeTx | apply keeps_trxEvt | apply keeps_rgyAdmit
    | apply keeps_updClk | apply keeps_if | refine keeps_snd (by assumption) ?_ | split

theorem keeps_sealTx {r s : State} {a0} (h : Keeps r s) : Keeps r (sealTx a0 s) := by
  unfold sealTx
  with_reducible repeat' first
    | assumption | intro _ | apply keeps_admitTx | apply keeps_atStage | apply keeps_askSeal | apply keeps_completeTx
    | apply keeps_if | refine keeps_snd (by assumption) ?_ | split

theorem keeps_sealBack {r s : State} {a0 a1 a2} (h : Keeps r s) : Keeps r (sealBack a0 a1 a2 s) := by
  unfold sealBack
  with_reducible repeat' first
    | assumption | intro _ | apply keeps_cutOff | apply keeps_completeTx | apply keeps_updCry | apply keeps_updTrx
    | apply keeps_if

theorem keeps_attempt {r s : State} {a0 a1 a2 a3 a4 a5} (h : Keeps r s) : Keeps r (attempt a0 a1 a2 a3 a4 a5 s) := by
  unfold attempt
  with_reducible repeat' first
    | assumption | intro _ | apply keeps_sealTx | apply keeps_completeDesc | apply keeps_radioEnd | apply keeps_fence
    | apply keeps_if | split

theorem keeps_takeDesc {r s : State} {a0 a1} (h : Keeps r s) : Keeps r (takeDesc a0 a1 s) := by
  unfold takeDesc
  extract_lets tries drop stop
  have hd : ∀ t, Keeps r t → Keeps r (drop t) := fun t g => by
    simp only [drop]
    split
    · exact keeps_updTrx g
    · exact g
  have hs : ∀ c t, Keeps r t → Keeps r (stop c t) := fun c t g => keeps_radioEnd (keeps_completeDesc (hd _ g))
  clear_value stop drop tries
  refine keeps_if (fun _ => hs _ _ h) fun _ => ?_
  generalize e : dmaRead Mid.trxDma a1 32 s = p
  obtain ⟨⟨c, l⟩, s1⟩ := p
  have g := keeps_snd e (keeps_dmaRead h)
  cases c <;> try exact hs _ _ g
  dsimp only
  refine keeps_if (fun _ => g) fun _ => keeps_if (fun _ => hs _ _ g) fun _ => ?_
  generalize f : dmaRead Mid.trxDma _ _ s1 = p
  obtain ⟨⟨c, l⟩, s2⟩ := p
  have g2 := keeps_snd f (keeps_dmaRead g)
  cases c <;> try exact hs _ _ g2
  exact keeps_attempt (hd _ g2)

theorem keeps_retryTx {r s : State} {a0} (h : Keeps r s) : Keeps r (retryTx a0 s) := by
  unfold retryTx
  with_reducible repeat' first | assumption | apply keeps_attempt | apply keeps_chanApply | apply keeps_updTrx

theorem keeps_txAttempt {r s : State} (h : Keeps r s) : Keeps r (txAttempt s) := by
  unfold txAttempt
  with_reducible repeat' first
    | assumption | intro _ | apply keeps_retryTx | apply keeps_takeDesc | apply keeps_admitTx | apply keeps_carryOn
    | apply keeps_completeTx | apply keeps_trxEvt | apply keeps_if | split

theorem keeps_assessed {r s : State} {a0 a1 a2} (h : Keeps r s) : Keeps r (assessed a0 a1 a2 s) := by
  unfold assessed
  with_reducible repeat' first
    | assumption | intro _ | apply keeps_commitTx | apply keeps_atStage | apply keeps_completeTx | apply keeps_trxEvt
    | apply keeps_updTrx | apply keeps_if

theorem keeps_execChannelAssessment {r s : State} {a0 a1 a2} (h : Keeps r s) : KeepsX r (execChannelAssessment a0 a1 s a2) := by
  unfold execChannelAssessment
  with_reducible repeat' first
    | assumption | apply keepsX_next | intro _ | apply keeps_assessed | apply keeps_if
    | simp only [keeps_mk, keeps_fold] | split

theorem keeps_execBackoffEnd {r s : State} (h : Keeps r s) : KeepsX r (execBackoffEnd s) := by
  unfold execBackoffEnd
  with_reducible repeat' first | assumption | apply keepsX_next | intro _ | apply keeps_admitTx | apply keeps_if | split

theorem keeps_execTimedLaunch {r s : State} (h : Keeps r s) : KeepsX r (execTimedLaunch s) := by
  unfold execTimedLaunch
  with_reducible repeat' first
    | assumption | apply keepsX_next | intro _ | apply keeps_commitTx | apply keeps_completeTx | apply keeps_trxEvt
    | apply keeps_updTrx | apply keeps_if | split

theorem keeps_execTxFrameEnd {r s : State} {a0 a1} (h : Keeps r s) : KeepsX r (execTxFrameEnd a0 s a1) := by
  unfold execTxFrameEnd
  with_reducible repeat' first
    | assumption | apply keepsX_next | intro _ | apply keeps_atStage | apply keeps_completeTx | apply keeps_charge
    | apply keeps_updTrx | apply keeps_if | split

theorem keeps_execAckWaitExpiry {r s : State} (h : Keeps r s) : KeepsX r (execAckWaitExpiry s) := by
  unfold execAckWaitExpiry
  with_reducible repeat' first
    | assumption | apply keepsX_next | intro _ | apply keeps_retryTx | apply keeps_atStage | apply keeps_completeTx
    | apply keeps_radioEnd | apply keeps_updTrx | apply keeps_if | split

theorem keeps_radioLoss {r s : State} (h : Keeps r s) : Keeps r (radioLoss s) := by
  unfold radioLoss
  try dsimp only
  with_reducible repeat' first
    | assumption | intro _ | apply keeps_cutOff | apply keeps_completeTx | apply keeps_trxEvt | apply keeps_updTrx
    | apply keeps_if | split

theorem keeps_effTrxFlush {r s : State} (h : Keeps r s) : Keeps r (effTrxFlush s) := by
  unfold effTrxFlush
  with_reducible repeat' first
    | assumption | intro _ _ | intro _ | apply keeps_completeDesc | apply keeps_radioEnd | apply keeps_updTrx | apply keeps_if
    | apply keeps_foldl

theorem keeps_effArmCtrl {r s : State} {a0 a1} (h : Keeps r s) : Keeps r (effArmCtrl a0 a1 s) := by
  unfold effArmCtrl
  with_reducible repeat' first | assumption | intro _ | apply keeps_launchSlot | apply keeps_updTrx | apply keeps_if

theorem keeps_countCrc {r s : State} (h : Keeps r s) : Keeps r (countCrc s) := by
  unfold countCrc
  with_reducible repeat' first | assumption | apply keeps_updTrx

theorem keeps_countFilt {r s : State} (h : Keeps r s) : Keeps r (countFilt s) := by
  unfold countFilt
  with_reducible repeat' first | assumption | apply keeps_updTrx

theorem keeps_countOk {r s : State} (h : Keeps r s) : Keeps r (countOk s) := by
  unfold countOk
  with_reducible repeat' first | assumption | apply keeps_updTrx

theorem keeps_askOpen {r s : State} {a0 a1 a2} (h : Keeps r s) : KeepsP r (askOpen a0 a1 a2 s) := by
  unfold askOpen
  with_reducible repeat' first | assumption | apply keeps_portRequest

theorem keeps_openBack {r s : State} {a0 a1} (h : Keeps r s) : KeepsP r (openBack a0 a1 s) := by
  unfold openBack
  with_reducible repeat' first
    | assumption | intro _ | apply keeps_updCry | apply keepsP_if | simp only [keepsP_mk]

theorem keeps_openBack_2 {r s : State} {a0 a1} (h : Keeps r s) : Keeps r (openBack a0 a1 s).2 := (keeps_openBack h).keeps

theorem keeps_syncPartner {r s : State} {a0 a1} (h : Keeps r s) : Keeps r (syncPartner a0 a1 s) := by
  unfold syncPartner
  with_reducible repeat' first | assumption | intro _ | apply keeps_ptUpdate | apply keeps_if | split

theorem keeps_rxPartner {r s : State} {a0} (h : Keeps r s) : Keeps r (rxPartner a0 s) := by
  unfold rxPartner
  with_reducible repeat' first
    | assumption | intro _ | apply keeps_syncPartner | apply keeps_askOpen | apply keeps_ptUpdate | apply keeps_updTrx
    | apply keeps_if | refine keeps_snd (by assumption) ?_ | split

theorem keeps_matchFail {r s : State} {a0 a1} (h : Keeps r s) : Keeps r (matchFail a0 a1 s) := by
  unfold matchFail
  with_reducible repeat' first | assumption | apply keeps_trxEvt | apply keeps_updTrx

theorem keeps_beginCheck {r s : State} {a0} (h : Keeps r s) : KeepsP r (beginCheck a0 s) := by
  unfold beginCheck
  with_reducible repeat' first
    | assumption | intro _ | apply keeps_askOpen | apply keepsP_if | simp only [keepsP_mk]
    | refine keeps_snd (by assumption) ?_ | split

theorem keeps_beginCheck_2 {r s : State} {a0} (h : Keeps r s) : Keeps r (beginCheck a0 s).2 := (keeps_beginCheck h).keeps

theorem keeps_matchNext {r s : State} (h : Keeps r s) : Keeps r (matchNext s) := by
  unfold matchNext
  with_reducible repeat' first | assumption | intro _ | apply keeps_beginCheck_2 | apply keeps_updTrx | apply keeps_if | split

theorem keeps_matchPass {r s : State} {a0 a1} (h : Keeps r s) : Keeps r (matchPass a0 a1 s) := by
  unfold matchPass
  with_reducible repeat' first
    | assumption | intro _ | apply keeps_fire | apply keeps_ptUpdate | apply keeps_updTrx | apply keeps_if

theorem keeps_matchEnd {r s : State} (h : Keeps r s) : Keeps r (matchEnd s) := by
  unfold matchEnd
  with_reducible repeat' first
    | assumption | apply keeps_matchPass | apply keeps_matchNext | apply keeps_matchFail | apply keeps_updTrx | split

theorem keeps_portBack_other {r s : State} {a0} (h : Keeps r s) : Keeps r (portBack.other a0 s) := by
  unfold portBack.other
  with_reducible repeat' first
    | assumption | intro _ | apply keeps_syncPartner | apply keeps_openBack_2 | apply keeps_updTrx | apply keeps_if | split

theorem keeps_portBack {r s : State} {a1} (h : Keeps r s) : Keeps r (portBack s a1) := by
  unfold portBack
  with_reducible repeat' first
    | assumption | intro _ | apply keeps_portBack_other | apply keeps_sealBack | apply keeps_if | split

theorem keeps_portReturn {r s : State} (h : Keeps r s) : Keeps r (portReturn s) := by
  unfold portReturn
  with_reducible repeat' first
    | assumption | intro _ _ | intro _ | apply keeps_portBack | apply keeps_updCry | apply keeps_foldl

theorem keeps_rxDesc {r s : State} (h : Keeps r s) : KeepsP r (rxDesc s) := by
  unfold rxDesc
  with_reducible repeat' first
    | assumption | apply keeps_trxEvt | apply keeps_dmaRead | simp only [keepsP_mk]
    | refine keeps_snd (by assumption) ?_ | split

theorem keeps_rxDesc_2 {r s : State} (h : Keeps r s) : Keeps r (rxDesc s).2 := (keeps_rxDesc h).keeps

theorem keeps_rxWrite {r s : State} {a0 a1 a2 a3 a4} (h : Keeps r s) : Keeps r (rxWrite a0 a1 a2 a3 a4 s) := by
  unfold rxWrite
  with_reducible repeat' first
    | assumption | intro _ | apply keeps_trxEvt | apply keeps_updTrx | apply keeps_dmaWrite_2 | apply keeps_if

theorem keeps_rxDeliver {r s : State} {a0 a1} (h : Keeps r s) : Keeps r (rxDeliver a0 a1 s) := by
  unfold rxDeliver
  with_reducible repeat' first
    | assumption | intro _ | apply keeps_rxWrite | apply keeps_rxDesc_2 | apply keeps_matchNext | apply keeps_rxPartner
    | apply keeps_countOk | apply keeps_countCrc | apply keeps_trxEvt | apply keeps_fence | apply keeps_updTrx | apply keeps_if
    | simp only [] | split

theorem keeps_rxJudge {r s : State} {a0} (h : Keeps r s) : Keeps r (rxJudge a0 s) := by
  unfold rxJudge
  with_reducible repeat' first
    | assumption | intro _ | apply keeps_rxDeliver | apply keeps_countOk | apply keeps_countFilt | apply keeps_countCrc
    | apply keeps_completeTx | apply keeps_if | split

theorem keeps_rxFrame {r s : State} {a0} (h : Keeps r s) : Keeps r (rxFrame a0 s) := by
  unfold rxFrame
  with_reducible repeat' first
    | assumption | intro _ | apply keeps_rxJudge | apply keeps_radioEnd | apply keeps_rfFollow | apply keeps_wake
    | apply keeps_updClk | apply keeps_updTrx | apply keeps_domDown | apply keeps_if

theorem keeps_deliverHeld {r s : State} (h : Keeps r s) : Keeps r (deliverHeld s) := by
  unfold deliverHeld
  with_reducible repeat' first | assumption | apply keeps_rxDeliver | apply keeps_updTrx | split

theorem keeps_execMatcherResult {r s : State} (h : Keeps r s) : KeepsX r (execMatcherResult s) := by
  unfold execMatcherResult
  with_reducible repeat' first | assumption | apply keepsX_next | apply keeps_portReturn | apply keeps_matchEnd

theorem keeps_execSfdDetected {r s : State} {a0 a1 a2} (h : Keeps r s) : KeepsX r (execSfdDetected a0 a1 s a2) := by
  unfold execSfdDetected
  with_reducible repeat' first | assumption | apply keepsX_next | intro _ | apply keeps_updTrx | apply keeps_if

theorem keeps_sniffOff {r s : State} (h : Keeps r s) : Keeps r (sniffOff s) := by
  unfold sniffOff
  with_reducible repeat' first
    | assumption | intro _ | apply keeps_rfFollow | apply keeps_updClk | apply keeps_domDown | apply keeps_if

theorem keeps_execSniff {r s : State} {a0} (h : Keeps r s) : KeepsX r (execSniff a0 s) := by
  unfold execSniff
  with_reducible repeat' first
    | assumption | apply keepsX_next | intro _ | apply keeps_sniffOff | apply keeps_rfFollow | apply keeps_trxEvt
    | apply keeps_updClk | apply keeps_updTrx | apply keeps_if | split

theorem keeps_tickSniff {r s : State} (h : Keeps r s) : Keeps r (tickSniff s) := by
  unfold tickSniff
  with_reducible repeat' first | assumption | intro _ | apply keeps_sniffOff | apply keeps_updTrx | apply keeps_if

theorem keeps_execSniffRfpllStart {r s : State} (h : Keeps r s) : KeepsX r (execSniffRfpllStart s) := by
  unfold execSniffRfpllStart
  with_reducible repeat' first
    | assumption | apply keepsX_next | intro _ | apply keeps_trxEvt | apply keeps_updClk | apply keeps_if

theorem keeps_execAckSend {r s : State} (h : Keeps r s) : KeepsX r (execAckSend s) := by
  unfold execAckSend
  with_reducible repeat' first
    | assumption | apply keepsX_next | intro _ | apply keeps_radioEnd | apply keeps_charge | apply keeps_clampPower
    | apply keeps_rgyAdmit | apply keeps_updTrx | apply keeps_post | apply keeps_if | refine keeps_snd (by assumption) ?_
    | split

theorem keeps_effTrxCtrl {r s : State} {a0} (h : Keeps r s) : Keeps r (effTrxCtrl a0 s) := by
  unfold effTrxCtrl
  with_reducible repeat' first | assumption | apply keeps_rfFollow | apply keeps_updClk | apply keeps_updTrx

theorem keeps_effTrxCntClr {r s : State} {a0} (h : Keeps r s) : Keeps r (effTrxCntClr a0 s) := by
  unfold effTrxCntClr
  with_reducible repeat' first | assumption | intro _ | apply keeps_updTrx | apply keeps_if

theorem keeps_ptWrite {r s : State} {a0 a1 a2} (h : Keeps r s) : Keeps r (ptWrite a0 a1 a2 s) := by
  unfold ptWrite
  with_reducible repeat' first | assumption | apply keeps_updTrx

theorem keeps_trxWriteMain {r s : State} {a0 a1} (h : Keeps r s) : KeepsO r (trxWriteMain a0 a1 s) := by
  unfold trxWriteMain
  with_reducible repeat' first
    | assumption | exact keepsO_none | apply keepsO_some | intro _ | apply keeps_effTrxCntClr | apply keeps_effTrxCtrl
    | apply keeps_effTrxFlush | apply keeps_radioEnd | apply keeps_rfFollow | apply keeps_updTrx | apply keepsO_if
    | apply keeps_if | split

theorem keeps_trxWrite {r s : State} {a0 a1} (h : Keeps r s) : KeepsO r (trxWrite a0 a1 s) := by
  unfold trxWrite
  with_reducible repeat' first
    | assumption | apply keepsO_some | intro _ | apply keeps_trxWriteMain | apply keeps_ptWrite | apply keeps_effArmCtrl
    | apply keeps_updTrx | apply keepsO_if | split

theorem keeps_trxRead {r s : State} {a0} (h : Keeps r s) : KeepsP r (trxRead a0 s) := by
  unfold trxRead
  with_reducible repeat' first | assumption | apply keeps_updTrx | simp only [keepsP_mk] | split

theorem keeps_trxRead_2 {r s : State} {a0} (h : Keeps r s) : Keeps r (trxRead a0 s).2 := (keeps_trxRead h).keeps

theorem keeps_trxBus {r s : State} {a0 a1 a2} (h : Keeps r s) : Keeps r (trxBus a0 a1 a2 s) := by
  unfold trxBus
  with_reducible repeat' first | assumption | intro _ _ | apply keeps_trxWrite | apply keeps_busWrite

theorem keeps_execTxqProd {r s : State} {a0 a1} (h : Keeps r s) : KeepsX r (execTxqProd a0 a1 s) := by
  unfold execTxqProd
  with_reducible repeat' first | assumption | apply keepsX_next | apply keeps_trxBus

theorem keeps_execLaunch {r s : State} {a0 a1 a2} (h : Keeps r s) : KeepsX r (execLaunch a0 a1 a2 s) := by
  unfold execLaunch
  with_reducible repeat' first | assumption | apply keepsX_next | apply keeps_trxBus

theorem keeps_execTrxFlush {r s : State} {a0} (h : Keeps r s) : KeepsX r (execTrxFlush a0 s) := by
  unfold execTrxFlush
  with_reducible repeat' first | assumption | apply keepsX_next | apply keeps_trxBus

theorem keeps_execPartnerEntryWrite {r s : State} {a0 a1 a2} (h : Keeps r s) : KeepsX r (execPartnerEntryWrite a0 a1 a2 s) := by
  unfold execPartnerEntryWrite
  with_reducible repeat' first | assumption | apply keepsX_next | apply keeps_trxBus

theorem keeps_execTrxCntClr {r s : State} {a0} (h : Keeps r s) : KeepsX r (execTrxCntClr a0 s) := by
  unfold execTrxCntClr
  with_reducible repeat' first | assumption | apply keepsX_next | apply keeps_trxBus

theorem keeps_execTrxTimeLo {r s : State} {a0} (h : Keeps r s) : KeepsX r (execTrxTimeLo a0 s) := by
  unfold execTrxTimeLo
  with_reducible repeat' first | assumption | apply keepsX_next | intro _ _ | apply keeps_trxRead | apply keeps_busRead

theorem keeps_execTrxZtimeLo {r s : State} {a0} (h : Keeps r s) : KeepsX r (execTrxZtimeLo a0 s) := by
  unfold execTrxZtimeLo
  with_reducible repeat' first | assumption | apply keepsX_next | intro _ _ | apply keeps_trxRead | apply keeps_busRead

theorem keeps_updZlk {r s : State} {a1} (h : Keeps r s) : Keeps r (updZlk s a1) := h

theorem keeps_zlkEvt {r s : State} {a0} (h : Keeps r s) : Keeps r (zlkEvt a0 s) := by
  unfold zlkEvt
  with_reducible repeat' first | assumption | apply keeps_updZlk

theorem keeps_zlkBad {r s : State} (h : Keeps r s) : Keeps r (zlkBad s) := by
  unfold zlkBad
  with_reducible repeat' first | assumption | apply keeps_zlkEvt | apply keeps_updZlk

theorem keeps_rvLatch {r s : State} (h : Keeps r s) : Keeps r (rvLatch s) := by
  unfold rvLatch
  with_reducible repeat' first | assumption | apply keeps_updZlk

theorem keeps_rvTake {r s : State} {a0 a1} (h : Keeps r s) : Keeps r (rvTake a0 a1 s) := by
  unfold rvTake
  with_reducible repeat' first
    | assumption | intro _ _ | intro _ | apply keeps_rvLatch | apply keeps_updZlk | apply keeps_published | apply keeps_if
    | apply keeps_foldl

theorem keeps_rvAge {r s : State} (h : Keeps r s) : Keeps r (rvAge s) := by
  unfold rvAge
  with_reducible repeat' first | assumption | apply keeps_rvLatch | apply keeps_updZlk

theorem keeps_zlkComplete {r s : State} {a0 a1} (h : Keeps r s) : Keeps r (zlkComplete a0 a1 s) := by
  unfold zlkComplete
  with_reducible repeat' first
    | assumption | intro _ | apply keeps_zlkEvt | apply keeps_updZlk | apply keeps_post | apply keeps_if
    | simp only [keeps_mk, keeps_fold]

theorem keeps_zlkCompleteAll {r s : State} {a0} (h : Keeps r s) : Keeps r (zlkCompleteAll a0 s) := by
  unfold zlkCompleteAll
  with_reducible repeat' first | assumption | intro _ _ | intro _ | apply keeps_zlkComplete | apply keeps_foldl

theorem keeps_attemptNow {r s : State} {α : Type} {m : Mid} {f : State → α × State} (hp : ∀ t, Keeps r t → KeepsP r (f t))
    (h : Keeps r s) : KeepsP r (attemptNow m f s) := by
  unfold attemptNow
  generalize e : f (updEng s _) = p
  obtain ⟨v, t⟩ := p
  have g : Keeps r t := keeps_snd e (hp _ h)
  dsimp only
  split
  · exact ⟨g⟩
  · exact ⟨keeps_joinWait h⟩

/-- What an attempt answers keeps the state. -/
theorem keeps_tried {r s t : State} {m : Mid} {a n : Nat} {o} (e : attemptNow m (dmaRead m a n) s = (o, t)) (h : Keeps r s) :
    Keeps r t := keeps_snd e (keeps_attemptNow (fun _ g => keeps_dmaRead g) h)

theorem keeps_zlkDreqN {r : State} (n : Nat) : ∀ {s : State}, Keeps r s → Keeps r (zlkDreqN n s).2 := by
  induction n with
  | zero => exact fun h => h
  | succ n ih =>
    intro s h
    unfold zlkDreqN
    split
    · exact keeps_tried ‹_› h
    · exact ih (keeps_zlkComplete (keeps_tried ‹_› h))
    · exact keeps_tried ‹_› h

theorem keeps_zlkDreq_2 {r s : State} (h : Keeps r s) : Keeps r (zlkDreq s).2 := keeps_zlkDreqN _ h

theorem keeps_zlkLeave {r s : State} {a0} (h : Keeps r s) : Keeps r (zlkLeave a0 s) := by
  unfold zlkLeave
  with_reducible repeat' first
    | assumption | intro _ | apply keeps_zlkCompleteAll | apply keeps_rvLatch | apply keeps_updZlk | apply keeps_if

theorem keeps_zlkDup {r s : State} (h : Keeps r s) : Keeps r (zlkDup s) := by
  unfold zlkDup
  with_reducible repeat' first | assumption | apply keeps_zlkLeave | apply keeps_zlkEvt | apply keeps_updZlk

theorem keeps_effZlkCtrl {r s : State} {a0} (h : Keeps r s) : KeepsO r (effZlkCtrl a0 s) := by
  unfold effZlkCtrl
  with_reducible repeat' first
    | assumption | exact keepsO_none | apply keepsO_some | intro _ | apply keeps_zlkLeave | apply keeps_rvLatch
    | apply keeps_updZlk | apply keepsO_if

theorem keeps_execZlkEnable {r s : State} {a0 a1} (h : Keeps r s) : KeepsX r (execZlkEnable a0 a1 s) := by
  unfold execZlkEnable
  with_reducible repeat' first | assumption | apply keepsX_next | intro _ _ | apply keeps_effZlkCtrl | apply keeps_busWrite

theorem keeps_execZlkDisable {r s : State} {a0 a1} (h : Keeps r s) : KeepsX r (execZlkDisable a0 a1 s) := by
  unfold execZlkDisable
  with_reducible repeat' first | assumption | apply keepsX_next | intro _ _ | apply keeps_effZlkCtrl | apply keeps_busWrite

theorem keeps_execForm {r s : State} (h : Keeps r s) : KeepsX r (execForm s) := by
  unfold execForm
  with_reducible repeat' first
    | assumption | apply keepsX_next | intro _ | apply keeps_rvLatch | apply keeps_zlkEvt | apply keeps_updZlk
    | apply keeps_fence | apply keeps_if

theorem keeps_sendBurst {r s : State} {a0} (h : Keeps r s) : Keeps r (sendBurst a0 s) := by
  unfold sendBurst
  with_reducible repeat' first | assumption | apply keeps_updZlk

theorem keeps_zlkColl {r s : State} {a0} (h : Keeps r s) : Keeps r (zlkColl a0 s) := by
  unfold zlkColl
  with_reducible repeat' first | assumption | intro _ | apply keeps_zlkEvt | apply keeps_updZlk | apply keeps_if

theorem keeps_leaderCycle {r s : State} (h : Keeps r s) : Keeps r (leaderCycle s) := by
  unfold leaderCycle
  with_reducible repeat' first
    | assumption | intro _ | apply keeps_sendBurst | apply keeps_zlkDreq_2 | apply keeps_rvLatch | apply keeps_zlkEvt
    | apply keeps_updZlk | apply keeps_if

theorem keeps_execCycleStart {r s : State} {a0} (h : Keeps r s) : KeepsX r (execCycleStart s a0) := by
  unfold execCycleStart
  with_reducible repeat' first
    | assumption | apply keepsX_next | intro _ | apply keeps_leaderCycle | apply keeps_zlkColl | apply keeps_rvAge
    | apply keeps_updZlk | apply keeps_if

theorem keeps_followTime {r s : State} {a0 a1} (h : Keeps r s) : Keeps r (followTime a0 a1 s) := by
  unfold followTime
  with_reducible repeat' first | assumption | apply keeps_updZlk

theorem keeps_takeLayout {r s : State} {a0} (h : Keeps r s) : Keeps r (takeLayout a0 s) := by
  unfold takeLayout
  with_reducible repeat' first
    | assumption | intro _ | apply keeps_rvLatch | apply keeps_zlkEvt | apply keeps_updZlk | apply keeps_if

theorem keeps_execBeacon {r s : State} {a0 a1} (h : Keeps r s) : KeepsX r (execBeacon a0 a1 s) := by
  unfold execBeacon
  try dsimp only
  with_reducible repeat' first
    | assumption | apply keepsX_next | intro _ | apply keeps_takeLayout | apply keeps_followTime | apply keeps_zlkDup
    | apply keeps_zlkLeave | apply keeps_zlkBad | apply keeps_zlkEvt | apply keeps_updZlk | apply keeps_if | split

theorem keeps_execLeaderLost {r s : State} (h : Keeps r s) : KeepsX r (execLeaderLost s) := by
  unfold execLeaderLost
  with_reducible repeat' first
    | assumption | apply keepsX_next | intro _ | apply keeps_zlkLeave | apply keeps_zlkEvt | apply keeps_if

theorem keeps_execRollLatch {r s : State} {a0} (h : Keeps r s) : KeepsX r (execRollLatch a0 s) := by
  unfold execRollLatch
  with_reducible repeat' first
    | assumption | apply keepsX_next | intro _ | apply keeps_zlkColl | apply keeps_zlkDup | apply keeps_zlkDreq_2
    | apply keeps_rvTake | apply keeps_updZlk | apply keeps_if

theorem keeps_execRoll {r s : State} {a0 a1 a2} (h : Keeps r s) : KeepsX r (execRoll a0 a1 a2 s) := by
  unfold execRoll
  with_reducible repeat' first
    | assumption | apply keepsX_next | intro _ | apply keeps_zlkDup | apply keeps_rvTake | apply keeps_zlkBad
    | apply keeps_updZlk | apply keeps_fire | apply keeps_if | split

theorem keeps_execMemberDrop {r s : State} {a0} (h : Keeps r s) : KeepsX r (execMemberDrop a0 s) := by
  unfold execMemberDrop
  with_reducible repeat' first | assumption | apply keepsX_next | intro _ | apply keeps_updZlk | apply keeps_if

theorem keeps_execRvStale {r s : State} {a0} (h : Keeps r s) : KeepsX r (execRvStale a0 s) := by
  unfold execRvStale
  with_reducible repeat' first | assumption | apply keepsX_next | apply keeps_updZlk

theorem keeps_execJoinSlot {r s : State} {a0 a1} (h : Keeps r s) : KeepsX r (execJoinSlot a0 s a1) := by
  unfold execJoinSlot
  with_reducible repeat' first
    | assumption | apply keepsX_next | intro _ | apply keeps_zlkColl | apply keeps_sendBurst | apply keeps_updZlk
    | apply keeps_if

theorem keeps_execJoin {r s : State} {a0} (h : Keeps r s) : KeepsX r (execJoin a0 s) := by
  unfold execJoin
  with_reducible repeat' first
    | assumption | apply keepsX_next | intro _ | apply keeps_zlkBad | apply keeps_updZlk | apply keeps_if

theorem keeps_execDataWindow {r s : State} {a0} (h : Keeps r s) : KeepsX r (execDataWindow a0 s) := by
  unfold execDataWindow
  refine keepsX_next (keeps_if (fun _ => h) fun _ => ?_)
  extract_lets z
  have hz : Keeps r z := h
  clear_value z
  split
  · have g := keeps_tried ‹_› hz
    dsimp only
    refine keeps_if (fun _ => g) fun _ => keeps_if (fun _ => keeps_zlkComplete g) fun _ => ?_
    refine keeps_if (fun _ => keeps_zlkComplete g) fun _ => ?_
    split
    · have g2 := keeps_tried ‹_› g
      exact keeps_zlkComplete (keeps_zlkColl (keeps_sendBurst g2))
    · exact keeps_zlkComplete (keeps_tried ‹_› g)
    · exact keeps_tried ‹_› g
  · exact keeps_zlkComplete (keeps_tried ‹_› hz)
  · exact keeps_tried ‹_› hz

theorem keeps_zlkDeliver {r s : State} {a0 a1} (h : Keeps r s) : Keeps r (zlkDeliver a0 a1 s) := by
  unfold zlkDeliver
  try dsimp only
  with_reducible repeat' first
    | assumption | intro _ | apply keeps_zlkEvt | apply keeps_updZlk | apply keeps_dmaWrite | apply keeps_dmaWrite_2
    | apply keeps_dmaRead | apply keeps_if | refine keeps_snd (by assumption) ?_ | split

theorem keeps_dataBurst {r s : State} {a0 a1} (h : Keeps r s) : Keeps r (dataBurst a0 a1 s) := by
  unfold dataBurst
  with_reducible repeat' first | assumption | intro _ | apply keeps_zlkDeliver | apply keeps_zlkBad | apply keeps_if

theorem keeps_effZlkScn {r s : State} {a0} (h : Keeps r s) : KeepsO r (effZlkScn a0 s) := by
  unfold effZlkScn
  with_reducible repeat' first
    | assumption | exact keepsO_none | apply keepsO_some | intro _ | apply keeps_updZlk | apply keeps_zlkQueue
    | apply keepsO_if | apply keeps_if

theorem keeps_effZlkFlush {r s : State} (h : Keeps r s) : Keeps r (effZlkFlush s) := by
  unfold effZlkFlush
  with_reducible repeat' first | assumption | apply keeps_zlkCompleteAll | apply keeps_updZlk

theorem keeps_effZlkCntClr {r s : State} {a0} (h : Keeps r s) : Keeps r (effZlkCntClr a0 s) := by
  unfold effZlkCntClr
  with_reducible repeat' first | assumption | intro _ | apply keeps_updZlk | apply keeps_if

theorem keeps_effRv {r s : State} {a0 a1} (h : Keeps r s) : Keeps r (effRv a0 a1 s) := by
  unfold effRv
  with_reducible repeat' first | assumption | apply keeps_rvLatch | apply keeps_updZlk

theorem keeps_zlkWrite {r s : State} {a0 a1} (h : Keeps r s) : KeepsO r (zlkWrite a0 a1 s) := by
  unfold zlkWrite
  with_reducible repeat' first
    | assumption | exact keepsO_none | apply keepsO_some | intro _ | apply keeps_effRv | apply keeps_effZlkCntClr
    | apply keeps_effZlkFlush | apply keeps_effZlkScn | apply keeps_effZlkCtrl | apply keeps_updZlk | apply keepsO_if
    | apply keeps_if | split

theorem keeps_zlkRead {r s : State} {a0} (h : Keeps r s) : KeepsP r (zlkRead a0 s) := by
  unfold zlkRead
  with_reducible repeat' first | assumption | apply keeps_updZlk | simp only [keepsP_mk] | split

theorem keeps_zlkRead_2 {r s : State} {a0} (h : Keeps r s) : Keeps r (zlkRead a0 s).2 := (keeps_zlkRead h).keeps

theorem keeps_zlkBus {r s : State} {a0 a1 a2} (h : Keeps r s) : Keeps r (zlkBus a0 a1 a2 s) := by
  unfold zlkBus
  with_reducible repeat' first | assumption | intro _ _ | apply keeps_zlkWrite | apply keeps_busWrite

theorem keeps_execQueue {r s : State} {a0 a1} (h : Keeps r s) : KeepsX r (execQueue a0 a1 s) := by
  unfold execQueue
  with_reducible repeat' first | assumption | apply keepsX_next | apply keeps_zlkBus

theorem keeps_execZlkTxqProd {r s : State} {a0 a1} (h : Keeps r s) : KeepsX r (execZlkTxqProd a0 a1 s) := by
  unfold execZlkTxqProd
  with_reducible repeat' first | assumption | apply keepsX_next | apply keeps_zlkBus

theorem keeps_execZlkFlush {r s : State} {a0} (h : Keeps r s) : KeepsX r (execZlkFlush a0 s) := by
  unfold execZlkFlush
  with_reducible repeat' first | assumption | apply keepsX_next | apply keeps_zlkBus

theorem keeps_execZlkCntClr {r s : State} {a0} (h : Keeps r s) : KeepsX r (execZlkCntClr a0 s) := by
  unfold execZlkCntClr
  with_reducible repeat' first | assumption | apply keepsX_next | apply keeps_zlkBus

theorem keeps_execZlkZtLo {r s : State} {a0} (h : Keeps r s) : KeepsX r (execZlkZtLo a0 s) := by
  unfold execZlkZtLo
  with_reducible repeat' first | assumption | apply keepsX_next | intro _ _ | apply keeps_zlkRead | apply keeps_busRead

theorem keeps_radioDrop {r s : State} (h : Keeps r s) : Keeps r (radioDrop s) := by
  unfold radioDrop
  with_reducible repeat' first
    | assumption | intro _ | apply keeps_cutOff | apply keeps_updClk | apply keeps_updTrx | apply keeps_if | split

theorem keeps_cryptoDrop {r s : State} (h : Keeps r s) : Keeps r (cryptoDrop s) := h

theorem keeps_retire {r s : State} {a0 a1} (h : Keeps r s) : Keeps r (retire a0 a1 s) := by
  unfold retire
  with_reducible repeat' first
    | assumption | intro _ | apply keeps_cryptoDrop | apply keeps_radioDrop | apply keeps_domDown | apply keeps_if
    | simp only [keeps_mk] | apply keeps_lose | split

theorem keeps_setDomOn {r s : State} {a0 a1} (h : Keeps r s) : Keeps r (setDomOn a0 a1 s) := by
  unfold setDomOn
  with_reducible repeat' first | assumption | apply keeps_updPwr

theorem keeps_rfBack {r s : State} {a0} (h : Keeps r s) : Keeps r (rfBack a0 s) := by
  unfold rfBack
  with_reducible repeat' first | assumption | intro _ | apply keeps_rfFollow | apply keeps_if

theorem keeps_domFollow {r s : State} {a0 a2} (h : Keeps r s) : Keeps r (domFollow a0 s a2) := by
  unfold domFollow
  with_reducible repeat' first
    | assumption | intro _ | apply keeps_rfBack | apply keeps_setDomOn | apply keeps_retire | apply keeps_domUp
    | apply keeps_if

theorem keeps_effDomOn {r s : State} {a0} (h : Keeps r s) : KeepsO r (effDomOn a0 s) := by
  unfold effDomOn
  with_reducible repeat' first
    | assumption | exact keepsO_none | apply keepsO_some | intro _ _ | intro _ | apply keeps_domFollow | apply keepsO_if
    | apply keeps_foldl

theorem keeps_armReq {r s : State} {a0 a1 a2} (h : Keeps r s) : Keeps r (armReq a0 a1 a2 s) := by
  unfold armReq
  with_reducible repeat' first | assumption | apply keeps_updPwr

theorem keeps_effPwrReq {r s : State} {a0 a1} (h : Keeps r s) : KeepsO r (effPwrReq a0 a1 s) := by
  unfold effPwrReq
  with_reducible repeat' first
    | assumption | exact keepsO_none | apply keepsO_some | intro _ | apply keeps_armReq | apply keeps_startExit
    | apply keeps_updPwr | apply keeps_updClk | apply keepsO_if | split

theorem keeps_pwrReq {r s : State} {a0 a1} (h : Keeps r s) : KeepsX r (pwrReq a0 a1 s) := by
  unfold pwrReq
  with_reducible repeat' first | assumption | apply keepsX_next | intro _ _ | apply keeps_effPwrReq | apply keeps_busWrite

theorem keeps_execPwrReqRunFast {r s : State} {a0} (h : Keeps r s) : KeepsX r (execPwrReqRunFast a0 s) := by
  unfold execPwrReqRunFast
  with_reducible repeat' first | assumption | apply keeps_pwrReq

theorem keeps_execPwrReqRun {r s : State} {a0} (h : Keeps r s) : KeepsX r (execPwrReqRun a0 s) := by
  unfold execPwrReqRun
  with_reducible repeat' first | assumption | apply keeps_pwrReq

theorem keeps_execPwrReqDoze {r s : State} {a0} (h : Keeps r s) : KeepsX r (execPwrReqDoze a0 s) := by
  unfold execPwrReqDoze
  with_reducible repeat' first | assumption | apply keeps_pwrReq

theorem keeps_execPwrReqNap {r s : State} {a0} (h : Keeps r s) : KeepsX r (execPwrReqNap a0 s) := by
  unfold execPwrReqNap
  with_reducible repeat' first | assumption | apply keeps_pwrReq

theorem keeps_execPwrReqSlumber {r s : State} {a0 a1} (h : Keeps r s) : KeepsX r (execPwrReqSlumber a0 a1 s) := by
  unfold execPwrReqSlumber
  with_reducible repeat' first | assumption | apply keeps_pwrReq

theorem keeps_execForwardBiasSettled {r s : State} (h : Keeps r s) : KeepsX r (execForwardBiasSettled s) := by
  unfold execForwardBiasSettled
  with_reducible repeat' first
    | assumption | apply keepsX_next | intro _ | apply keeps_fastDrop | apply keeps_updPwr | apply keeps_updClk
    | apply keeps_if

theorem keeps_refuse {r s : State} {a0} (h : Keeps r s) : Keeps r (refuse a0 s) := by
  unfold refuse
  with_reducible repeat' first | assumption | apply keeps_updPwr | split

theorem keeps_latchPads {r s : State} (h : Keeps r s) : Keeps r (latchPads s) := h

theorem keeps_cutPorts {r s : State} (h : Keeps r s) : Keeps r (cutPorts s) := h

theorem keeps_startEntry {r s : State} {a0} (h : Keeps r s) : Keeps r (startEntry a0 s) := by
  unfold startEntry
  with_reducible repeat' first
    | assumption | apply keeps_cutPorts | apply keeps_latchPads | apply keeps_updPwr | apply keeps_updClk | split

theorem keeps_execRequestInstant {r s : State} (h : Keeps r s) : KeepsX r (execRequestInstant s) := by
  unfold execRequestInstant
  with_reducible repeat' first
    | assumption | apply keepsX_next | intro _ | apply keeps_startEntry | apply keeps_refuse | apply keeps_bistAbort
    | apply keeps_if | split

theorem keeps_hostDown {r s : State} (h : Keeps r s) : Keeps r (hostDown s) := by
  unfold hostDown
  with_reducible repeat' first | assumption | apply keeps_updPwr | apply keeps_domDown

theorem keeps_groomDown {r s : State} (h : Keeps r s) : Keeps r (groomDown s) := by
  unfold groomDown
  with_reducible repeat' first | assumption | apply keeps_updPwr | apply keeps_domDown

theorem keeps_flashDown {r s : State} (h : Keeps r s) : Keeps r (flashDown s) := by
  unfold flashDown
  with_reducible repeat' first | assumption | apply keeps_setDomOn | apply keeps_retire

theorem keeps_sramRest {r s : State} {a1} (h : Keeps r s) : Keeps r (sramRest s a1) := by
  unfold sramRest
  with_reducible repeat' first | assumption | intro _ | apply keeps_setDomOn | apply keeps_retire | apply keeps_if

theorem keeps_enterNap {r s : State} (h : Keeps r s) : Keeps r (enterNap s) := by
  unfold enterNap
  with_reducible repeat' first
    | assumption | intro _ _ | intro _ | apply keeps_sramRest | apply keeps_flashDown | apply keeps_hostDown
    | apply keeps_updPwr | apply keeps_updClk | apply keeps_foldl

theorem keeps_captureSleep {r s : State} (h : Keeps r s) : Keeps r (captureSleep s) := by
  unfold captureSleep
  with_reducible repeat' first | assumption | apply keeps_updPwr

theorem keeps_galleryDown {r s : State} (h : Keeps r s) : Keeps r (galleryDown s) := by
  unfold galleryDown
  with_reducible repeat' first | assumption | simp only [keeps_mk] | apply keeps_clear

theorem keeps_dropFifos {r s : State} (h : Keeps r s) : Keeps r (dropFifos s) := h

theorem keeps_clocksDown {r s : State} (h : Keeps r s) : Keeps r (clocksDown s) := by
  unfold clocksDown
  with_reducible repeat' first | assumption | apply keeps_updClk

theorem keeps_buckAt {r s : State} {a0} (h : Keeps r s) : Keeps r (buckAt a0 s) := h

theorem keeps_enterSlumber {r s : State} (h : Keeps r s) : Keeps r (enterSlumber s) := by
  unfold enterSlumber
  with_reducible repeat' first
    | assumption | intro _ _ | intro _ | apply keeps_buckAt | apply keeps_clocksDown | apply keeps_dropFifos
    | apply keeps_galleryDown | apply keeps_captureSleep | apply keeps_sramRest | apply keeps_flashDown | apply keeps_groomDown
    | apply keeps_hostDown | apply keeps_retire | apply keeps_zlkLeave | apply keeps_updPwr | apply keeps_domDown
    | apply keeps_if | apply keeps_foldl

theorem keeps_execEntryComplete {r s : State} (h : Keeps r s) : KeepsX r (execEntryComplete s) := by
  unfold execEntryComplete
  with_reducible repeat' first | assumption | apply keepsX_next | apply keeps_enterSlumber | apply keeps_enterNap | split

theorem keeps_execWakeEvent {r s : State} {a0} (h : Keeps r s) : KeepsX r (execWakeEvent a0 s) := by
  unfold execWakeEvent
  with_reducible repeat' first | assumption | apply keepsX_next | intro _ | apply keeps_wake | apply keeps_if

theorem keeps_execTimer {r s : State} (h : Keeps r s) : KeepsX r (execTimer s) := by
  unfold execTimer
  with_reducible repeat' first | assumption | apply keepsX_next | intro _ | apply keeps_wake | apply keeps_if

theorem keeps_domReturn {r s : State} {a1} (h : Keeps r s) : Keeps r (domReturn s a1) := by
  unfold domReturn
  with_reducible repeat' first | assumption | intro _ | apply keeps_domUp | apply keeps_if

theorem keeps_hostUp {r s : State} (h : Keeps r s) : Keeps r (hostUp s) := by
  unfold hostUp
  with_reducible repeat' first
    | assumption | intro _ | apply keeps_domReturn | apply keeps_setDomOn | apply keeps_updPwr | apply keeps_domUp
    | apply keeps_if

theorem keeps_groomUp {r s : State} (h : Keeps r s) : Keeps r (groomUp s) := by
  unfold groomUp
  with_reducible repeat' first | assumption | intro _ | apply keeps_updPwr | apply keeps_domUp | apply keeps_if

theorem keeps_woke {r s : State} {a0} (h : Keeps r s) : Keeps r (woke a0 s) := by
  unfold woke
  with_reducible repeat' first | assumption | apply keeps_updPwr

theorem keeps_exitNap {r s : State} (h : Keeps r s) : Keeps r (exitNap s) := by
  unfold exitNap
  with_reducible repeat' first
    | assumption | intro _ _ | intro _ | apply keeps_woke | apply keeps_hostUp | apply keeps_domReturn | apply keeps_foldl

theorem keeps_exitSlumber {r s : State} {a0} (h : Keeps r s) : Keeps r (exitSlumber a0 s) := by
  unfold exitSlumber
  with_reducible repeat' first
    | assumption | intro _ _ | intro _ | apply keeps_woke | apply keeps_groomUp | apply keeps_hostUp | apply keeps_domReturn
    | apply keeps_buckAt | apply keeps_zlkLeave | apply keeps_deliverHeld | apply keeps_rfFollow | apply keeps_updPwr
    | apply keeps_engineRun | apply keeps_domUp | apply keeps_if | simp only [keeps_mk, keeps_fold]
    | apply keeps_foldl

theorem keeps_execExitComplete {r s : State} (h : Keeps r s) : KeepsX r (execExitComplete s) := by
  unfold execExitComplete
  with_reducible repeat' first
    | assumption | apply keepsX_next | intro _ | apply keeps_exitSlumber | apply keeps_exitNap | apply keeps_if | split

theorem keeps_execLoftSniff {r s : State} (h : Keeps r s) : KeepsX r (execLoftSniff s) := by
  unfold execLoftSniff
  with_reducible repeat' first
    | assumption | apply keepsX_next | intro _ | apply keeps_trxEvt | apply keeps_updClk | apply keeps_domUp | apply keeps_if

theorem keeps_effPwrCntClr {r s : State} {a0} (h : Keeps r s) : Keeps r (effPwrCntClr a0 s) := by
  unfold effPwrCntClr
  with_reducible repeat' first | assumption | intro _ | apply keeps_updPwr | apply keeps_if

theorem keeps_pwrWrite {r s : State} {a0 a1 a2} (h : Keeps r s) : KeepsO r (pwrWrite a0 a1 a2 s) := by
  unfold pwrWrite
  with_reducible repeat' first
    | assumption | apply keepsO_some | apply keeps_effPwrCntClr | apply keeps_effPwrReq | apply keeps_effDomOn
    | apply keeps_updPwr | split

theorem keeps_execPwrDomOn {r s : State} {a0 a1} (h : Keeps r s) : KeepsX r (execPwrDomOn a0 a1 s) := by
  unfold execPwrDomOn
  with_reducible repeat' first | assumption | apply keepsX_next | intro _ _ | apply keeps_effDomOn | apply keeps_busWrite

theorem keeps_execPwrCntClr {r s : State} {a0} (h : Keeps r s) : KeepsX r (execPwrCntClr a0 s) := by
  unfold execPwrCntClr
  with_reducible repeat' first
    | assumption | apply keepsO_some | apply keepsX_next | intro _ _ | apply keeps_effPwrCntClr | apply keeps_busWrite

end Sys2Proof.Machine
end

