-- ==== Sys2Proof/Laws/KeepsDevice.lean ====
section
/-!
SUPPORT. KeepsDevice: every operation of resets, start-up, self-test, registers and time keeps the queue, the form of memory, the rollback floor and the OTP.
-/

namespace Sys2Proof.Machine

open Sys2Proof

theorem keeps_hurt {r s : State} {l : List (Nat × Nat)} (h : Keeps r s) : Keeps r (hurt l s) :=
  keeps_foldl h fun t _ g => keeps_writeN (x := t) g

theorem keeps_recordCause {r s : State} {a0} (h : Keeps r s) : Keeps r (recordCause a0 s) := h

theorem wf_clearOwn (m : Mem) (h : m.wf = true) : (clearOwn m).wf = true := Mem.wf_clear _ _ _ (Mem.wf_clear _ _ _ h)

theorem wf_losePower (m : Mem) (h : m.wf = true) : (losePower m).wf = true := by
  refine Mem.wf_clear _ _ _ ?_
  generalize idx 8 = l
  induction l generalizing m with
  | nil => exact h
  | cons k t ih => exact ih _ (Mem.wf_lose _ _ h)

/-- A reset keeps the queue, memory's form and the OTP. -/
theorem keeps_resetDevice {r s : State} {c : Nat} (h : Keeps r s) : Keeps r (resetDevice c s) :=
  have g := keeps_hurt (l := hurtAtReset s) h
  ⟨KeepsIn.pending g, fun w => wf_clearOwn _ (KeepsIn.mem g w), KeepsIn.floor g, KeepsIn.otp g⟩

theorem keeps_resetPower {r s : State} (h : Keeps r s) : Keeps r (resetPower s) :=
  have g := keeps_hurt (l := hurtAtReset s) h
  ⟨KeepsIn.pending g, fun w => wf_losePower _ (wf_clearOwn _ (KeepsIn.mem g w)), KeepsIn.floor g, KeepsIn.otp g⟩

theorem keeps_execPor {r s : State} (h : Keeps r s) : KeepsX r (execPor s) := by
  unfold execPor
  with_reducible repeat' first | assumption | apply keepsX_next | apply keeps_resetPower

theorem keeps_execPin {r s : State} (h : Keeps r s) : KeepsX r (execPin s) := by
  unfold execPin
  with_reducible repeat' first | assumption | apply keepsX_next | apply keeps_resetDevice

theorem keeps_execBrown {r s : State} (h : Keeps r s) : KeepsX r (execBrown s) := by
  unfold execBrown
  with_reducible repeat' first | assumption | apply keepsX_next | apply keeps_resetDevice

theorem keeps_execDbgReset {r s : State} (h : Keeps r s) : KeepsX r (execDbgReset s) := by
  unfold execDbgReset
  with_reducible repeat' first | assumption | apply keepsX_next | apply keeps_resetDevice

theorem keeps_execCoastLimit {r s : State} (h : Keeps r s) : KeepsX r (execCoastLimit s) := by
  unfold execCoastLimit
  with_reducible repeat' first | assumption | apply keepsX_next | intro _ | apply keeps_resetDevice | apply keeps_if

theorem keeps_effRstReq {r s : State} {a0} (h : Keeps r s) : Keeps r (effRstReq a0 s) := by
  unfold effRstReq
  with_reducible repeat' first | assumption | intro _ | apply keeps_resetDevice | apply keeps_if

theorem keeps_execResetRelease {r s : State} {a0} (h : Keeps r s) : KeepsX r (execResetRelease a0 s) := by
  unfold execResetRelease
  with_reducible repeat' first
    | assumption | apply keepsX_next | intro _ | apply keeps_updClk | apply keeps_if
    | simp only [keeps_mk, keeps_fold]

theorem keeps_execXtalStartRetry {r s : State} (h : Keeps r s) : KeepsX r (execXtalStartRetry s) := by
  unfold execXtalStartRetry
  with_reducible repeat' first | assumption | apply keepsX_next | intro _ | apply keeps_updClk | apply keeps_if

theorem keeps_updWdt {r s : State} {a1 a2} (h : Keeps r s) : Keeps r (updWdt s a1 a2) := h

theorem keeps_effWdtCtrl {r s : State} {a0 a1} (h : Keeps r s) : Keeps r (effWdtCtrl a0 a1 s) := by
  unfold effWdtCtrl
  with_reducible repeat' first | assumption | apply keeps_updWdt

theorem keeps_effKick {r s : State} {a0 a1} (h : Keeps r s) : Keeps r (effKick a0 a1 s) := by
  unfold effKick
  with_reducible repeat' first | assumption | apply keeps_updWdt

theorem keeps_wdtWrite {r s : State} {a0 a1} (h : Keeps r s) : Keeps r (wdtWrite a0 a1 s) := by
  unfold wdtWrite
  with_reducible repeat' first | assumption | apply keeps_effKick | apply keeps_effWdtCtrl | apply keeps_updWdt | split

theorem keeps_execWdtExpiry {r s : State} {a0} (h : Keeps r s) : KeepsX r (execWdtExpiry a0 s) := by
  unfold execWdtExpiry
  with_reducible repeat' first | assumption | apply keepsX_next | intro _ | apply keeps_resetDevice | apply keeps_if

theorem keeps_execWdtWarn {r s : State} {a0} (h : Keeps r s) : KeepsX r (execWdtWarn a0 s) := by
  unfold execWdtWarn
  with_reducible repeat' first | assumption | apply keepsX_next | intro _ | apply keeps_updWdt | apply keeps_if

theorem keeps_execKick {r s : State} {a0 a1 a2} (h : Keeps r s) : KeepsX r (execKick a0 a1 a2 s) := by
  unfold execKick
  with_reducible repeat' first
    | assumption | apply keepsO_some | apply keepsX_next | intro _ _ | apply keeps_wdtWrite | apply keeps_busWrite

theorem keeps_updBoot {r s : State} {f : Boot → Boot}
    (hb : ∀ b, b.floor ≤ (f b).floor ∧ ∀ k : Fin 4, (b.otp[k]).grows (f b).otp[k]) (h : Keeps r s) : Keeps r (updBoot s f) :=
  ⟨KeepsIn.pending h, KeepsIn.mem h, Nat.le_trans (KeepsIn.floor h) (hb s.boot).1,
    fun k => OtpKey.grows_trans (KeepsIn.otp h k) ((hb s.boot).2 k)⟩

theorem keeps_programMark {r s : State} {a0 a1 a2} (h : Keeps r s) : Keeps r (programMark a0 a1 a2 s) := by
  unfold programMark
  with_reducible repeat' first | assumption | simp only [keeps_mk] | apply keeps_writeN

theorem keeps_snapBank {r s : State} {a1} (h : Keeps r s) : Keeps r (snapBank s a1) := by
  unfold snapBank
  with_reducible repeat' first | assumption | refine keeps_updBoot (fun _ => ⟨Nat.le_refl _, fun _ => OtpKey.grows_refl _⟩) ?_

theorem keeps_snapBanks {r s : State} (h : Keeps r s) : Keeps r (snapBanks s) := by
  unfold snapBanks
  with_reducible repeat' first | assumption | apply keeps_snapBank

theorem keeps_setFwCode {r s : State} {a0 a1} (h : Keeps r s) : Keeps r (setFwCode a0 a1 s) := by
  unfold setFwCode
  with_reducible repeat' first | assumption | refine keeps_updBoot (fun _ => ⟨Nat.le_refl _, fun _ => OtpKey.grows_refl _⟩) ?_

theorem keeps_logEvent {r s : State} {a0 a1 a2 a3} (h : Keeps r s) : Keeps r (logEvent a0 a1 a2 a3 s) := by
  unfold logEvent
  with_reducible repeat' first | assumption | refine keeps_updBoot (fun _ => ⟨Nat.le_refl _, fun _ => OtpKey.grows_refl _⟩) ?_

theorem keeps_bootNone {r s : State} {a0} (h : Keeps r s) : Keeps r (bootNone a0 s) := by
  unfold bootNone
  with_reducible repeat' first
    | assumption | apply keeps_logEvent | apply keeps_snapBanks
    | refine keeps_updBoot (fun _ => ⟨Nat.le_refl _, fun _ => OtpKey.grows_refl _⟩) ?_
    | simp only [keeps_mk, keeps_fold]

theorem keeps_bootWith {r s : State} {a0 a1} (h : Keeps r s) : Keeps r (bootWith a0 a1 s) := by
  unfold bootWith
  with_reducible repeat' first
    | assumption | apply keeps_snapBanks | refine keeps_updBoot (fun _ => ⟨Nat.le_refl _, fun _ => OtpKey.grows_refl _⟩) ?_
    | apply keeps_updCfg

theorem keeps_nextAttempt {r s : State} {a1} (h : Keeps r s) : Keeps r (nextAttempt s a1) := by
  unfold nextAttempt
  with_reducible repeat' first | assumption | apply keeps_programMark | split

theorem keeps_rejectSpent {r s : State} {a1} (h : Keeps r s) : Keeps r (rejectSpent s a1) := by
  unfold rejectSpent
  with_reducible repeat' first | assumption | apply keeps_logEvent | apply keeps_programMark

theorem keeps_imageFail {r s : State} {a0} (h : Keeps r s) : Keeps r (imageFail a0 s) := by
  unfold imageFail
  with_reducible repeat' first
    | assumption | intro _ | apply keeps_logEvent | apply keeps_programMark
    | refine keeps_updBoot (fun _ => ⟨Nat.le_refl _, fun _ => OtpKey.grows_refl _⟩) ?_ | apply keeps_resetDevice
    | apply keeps_if

theorem keeps_markFail {r s : State} {a0} (h : Keeps r s) : Keeps r (markFail a0 s) := by
  unfold markFail
  with_reducible repeat' first | assumption | apply keeps_imageFail | apply keeps_bootWith

theorem keeps_bankChoice {r s : State} {a0} (h : Keeps r s) : Keeps r (bankChoice a0 s) := by
  unfold bankChoice
  try dsimp only
  with_reducible repeat' first
    | assumption | intro _ | apply keeps_markFail | apply keeps_rejectSpent | apply keeps_nextAttempt | apply keeps_bootWith
    | apply keeps_bootNone | apply keeps_setFwCode | apply keeps_if | split

theorem keeps_bootLoadEnd {r s : State} {a0} (h : Keeps r s) : Keeps r (bootLoadEnd a0 s) := by
  unfold bootLoadEnd
  with_reducible repeat' first
    | assumption | intro _ | apply keeps_imageFail
    | refine keeps_updBoot (fun _ => ⟨Nat.le_refl _, fun _ => OtpKey.grows_refl _⟩) ?_ | apply keeps_updCfg | apply keeps_if

theorem keeps_groomStart {r s : State} {a0} (h : Keeps r s) : Keeps r (groomStart a0 s) := by
  unfold groomStart
  with_reducible repeat' first | assumption | intro _ | apply keeps_updPwr | apply keeps_domUp | apply keeps_if

theorem keeps_releaseFloor {r s : State} {v : Nat} (h : Keeps r s) :
    Keeps r (updBoot s (fun t => { t with floor := max t.floor v })) :=
  keeps_updBoot (fun _ => ⟨Nat.le_max_left _ _, fun _ => OtpKey.grows_refl _⟩) h

theorem keeps_release {r s : State} (h : Keeps r s) : Keeps r (release s) := by
  unfold release
  with_reducible repeat' first
    | assumption | intro _ | apply keeps_releaseFloor | apply keeps_groomStart | apply keeps_logEvent | apply keeps_snapBanks
    | refine keeps_updBoot (fun _ => ⟨Nat.le_refl _, fun _ => OtpKey.grows_refl _⟩) ?_ | apply keeps_updWdt
    | apply keeps_updPwr | apply keeps_if

theorem keeps_fwFinish {r s : State} {a0 a1 a2} (h : Keeps r s) : Keeps r (fwFinish a0 a1 a2 s) := by
  unfold fwFinish
  with_reducible repeat' first
    | assumption | intro _ | apply keeps_release | apply keeps_imageFail | apply keeps_setFwCode
    | refine keeps_updBoot (fun _ => ⟨Nat.le_refl _, fun _ => OtpKey.grows_refl _⟩) ?_ | apply keeps_if

theorem keeps_execFwCheckEnd {r s : State} (h : Keeps r s) : KeepsX r (execFwCheckEnd s) := by
  unfold execFwCheckEnd
  with_reducible repeat' first
    | assumption | apply keepsX_next | intro _ | apply keeps_fwFinish
    | refine keeps_updBoot (fun _ => ⟨Nat.le_refl _, fun _ => OtpKey.grows_refl _⟩) ?_ | apply keeps_if | split

theorem keeps_effFwchk {r s : State} {a0} (h : Keeps r s) : Keeps r (effFwchk a0 s) := by
  unfold effFwchk
  with_reducible repeat' first
    | assumption | intro _ | refine keeps_updBoot (fun _ => ⟨Nat.le_refl _, fun _ => OtpKey.grows_refl _⟩) ?_ | apply keeps_if
    | split

theorem keeps_flashEnd {r s : State} {a0} (h : Keeps r s) : Keeps r (flashEnd a0 s) := by
  unfold flashEnd
  with_reducible repeat' first | assumption | refine keeps_updBoot (fun _ => ⟨Nat.le_refl _, fun _ => OtpKey.grows_refl _⟩) ?_

theorem keeps_effFlCmd {r s : State} {a0 a1} (h : Keeps r s) : KeepsO r (effFlCmd a0 a1 s) := by
  unfold effFlCmd
  with_reducible repeat' first
    | assumption | exact keepsO_none | apply keepsO_some | intro _ | apply keeps_flashEnd
    | refine keeps_updBoot (fun _ => ⟨Nat.le_refl _, fun _ => OtpKey.grows_refl _⟩) ?_ | apply keeps_fence | apply keepsO_if
    | split

theorem wf_eraseRanges (l : List (Nat × Nat)) (m : Mem) (h : m.wf = true) : (eraseRanges l m).wf = true := by
  unfold eraseRanges
  induction l generalizing m with
  | nil => exact h
  | cons k t ih => exact ih _ (Mem.wf_clear _ _ _ h)

theorem keeps_erase {r x : State} {l : List (Nat × Nat)} (h : Keeps r x) :
    KeepsIn r x.pending (eraseRanges l x.mem) x.boot.otp x.boot.floor :=
  ⟨KeepsIn.pending h, fun w => wf_eraseRanges _ _ (KeepsIn.mem h w), KeepsIn.floor h, KeepsIn.otp h⟩

theorem keeps_flashFinish {r s : State} {a0} (h : Keeps r s) : Keeps r (flashFinish a0 s) := by
  unfold flashFinish
  with_reducible repeat' first
    | assumption | intro _ | apply keeps_flashEnd | apply keeps_hurt | apply keeps_if
    | simp only [keeps_mk] | apply keeps_writeN | apply keeps_erase | split

theorem keeps_execFlashDone {r s : State} {a0} (h : Keeps r s) : KeepsX r (execFlashDone a0 s) := by
  unfold execFlashDone
  with_reducible repeat' first | assumption | apply keepsX_next | apply keeps_flashFinish

theorem keeps_svcRet {r s : State} {a0 a1} (h : Keeps r s) : Keeps r (svcRet a0 a1 s) := by
  unfold svcRet
  with_reducible repeat' first | assumption | refine keeps_updBoot (fun _ => ⟨Nat.le_refl _, fun _ => OtpKey.grows_refl _⟩) ?_

theorem keeps_svc {r s : State} {a0 a1} (hp : ∀ t, Keeps r t → Keeps r (a1 t)) (h : Keeps r s) : KeepsX r (svc a0 a1 s) := by
  unfold svc
  with_reducible repeat' first | assumption | apply keepsX_next | intro _ | apply hp | apply keeps_if

theorem keeps_svcTrial {r s : State} {a0 a1} (h : Keeps r s) : Keeps r (svcTrial a0 a1 s) := by
  unfold svcTrial
  with_reducible repeat' first
    | assumption | intro _ | apply keeps_svcRet | apply keeps_logEvent | apply keeps_setFwCode | apply keeps_snapBanks
    | apply keeps_programMark | apply keeps_resetDevice | apply keeps_if

theorem keeps_advanceFloor {r s : State} {v : Nat} {ok : Bool} (h : Keeps r s) : Keeps r (advanceFloor v ok s) := by
  have g (f n : Nat) (hn : s.boot.floor ≤ f) : Keeps r { s with free := n, boot := { s.boot with floor := f } } :=
    ⟨KeepsIn.pending h, KeepsIn.mem h, Nat.le_trans (KeepsIn.floor h) hn, KeepsIn.otp h⟩
  unfold advanceFloor
  simp only
  repeat' split
  · exact h
  · exact g v s.free (by omega)
  · exact g _ _ (Nat.le_add_right _ _)

theorem keeps_svcCommit {r s : State} {a0} (h : Keeps r s) : Keeps r (svcCommit a0 s) := by
  unfold svcCommit
  with_reducible repeat' first
    | assumption | intro _ | apply keeps_advanceFloor | apply keeps_svcRet | apply keeps_flashFinish | apply keeps_logEvent
    | apply keeps_snapBanks | apply keeps_programMark
    | refine keeps_updBoot (fun _ => ⟨Nat.le_refl _, fun _ => OtpKey.grows_refl _⟩) ?_ | apply keeps_if

theorem keeps_svcFallback {r s : State} {a0 a1} (h : Keeps r s) : Keeps r (svcFallback a0 a1 s) := by
  unfold svcFallback
  with_reducible repeat' first
    | assumption | intro _ | apply keeps_svcRet | apply keeps_flashFinish | apply keeps_logEvent | apply keeps_programMark
    | apply keeps_resetDevice | apply keeps_if

theorem otp_upd {v : Vector OtpKey 4} {k : Fin 4} {f : OtpKey → OtpKey} (hf : (v[k]).grows (f v[k])) (j : Fin 4) :
    (v[j]).grows (upd v k f)[j] := by
  unfold upd
  by_cases e : k = j
  · subst e
    simpa using hf
  · have : k.val ≠ j.val := fun x => e (Fin.ext x)
    simp [Vector.getElem_set, this, OtpKey.grows_refl]

theorem keeps_updOtp {r s : State} {k : Fin 4} {f : OtpKey → OtpKey} (hf : (s.boot.otp[k]).grows (f s.boot.otp[k]))
    (h : Keeps r s) : Keeps r (updOtp s k f) :=
  ⟨KeepsIn.pending h, KeepsIn.mem h, KeepsIn.floor h, fun j => OtpKey.grows_trans (KeepsIn.otp h j) (otp_upd hf j)⟩

theorem captureErr_boot (s : State) (m : Mid) (a : W32) (k : Kind) (c : RespCode) (b : Bool) :
    (captureErr s m a k c b).boot = s.boot := rfl

theorem captureDeny_boot (s : State) (m : Mid) (t : Target) (a : W32) (k : Kind) : (captureDeny s m t a k).boot = s.boot := by
  unfold captureDeny
  split <;> rfl

theorem grant_boot (t : Target) (m : Mid) (s : State) : (grant t m s).boot = s.boot := by
  unfold grant
  dsimp only
  repeat' first | rfl | split

theorem pieceErr_boot (m : Mid) (k : Kind) (a : Nat) (b : Bool) (s : State) : (pieceErr m k a b s).2.boot = s.boot :=
  captureErr_boot _ _ _ _ _ _

theorem dmaPiece_boot (m : Mid) (k : Kind) (a n : Nat) (d : List Byte) (s : State) :
    (dmaPiece m k a n d s).2.boot = s.boot := by
  unfold dmaPiece
  dsimp only
  repeat' first
    | rfl | exact (pieceErr_boot _ _ _ _ _).trans (grant_boot _ _ _) | exact grant_boot _ _ _
    | exact captureDeny_boot _ _ _ _ _ | split

theorem dmaReadL_boot (m : Mid) (l : List (Nat × Nat)) (s : State) : (dmaReadL m l s).2.boot = s.boot := by
  induction l generalizing s with
  | nil => rfl
  | cons x t ih =>
    obtain ⟨a, n⟩ := x
    have g := dmaPiece_boot m .read a n [] s
    simp only [dmaReadL]
    split
    · rename_i e
      rw [e] at g
      exact (ih _).trans g
    · rename_i e
      rw [e] at g
      exact g

theorem keeps_svcKeyProgram {r s : State} {slot addr : W32} {verifies : Bool} (h : Keeps r s) :
    Keeps r (svcKeyProgram slot addr verifies s) := by
  unfold svcKeyProgram
  split
  · rename_i hk
    simp only
    split
    · exact keeps_svcRet h
    · rename_i hn
      have g : KeepsP r (dmaRead .hostS addr.toNat 32 s) := keeps_dmaRead h
      have gb : (dmaRead .hostS addr.toNat 32 s).2.boot = s.boot := dmaReadL_boot _ _ _
      have hn : s.boot.otp[slot.toNat].revoke = false ∧ s.boot.otp[slot.toNat].active = false ∧
          s.boot.otp[slot.toNat].blank = true := by
        revert hn
        generalize s.boot.otp[slot.toNat] = k
        unfold otpNum
        cases k.revoke <;> cases k.active <;> cases k.blank <;> simp
      split
      · rename_i s1 e
        rw [e] at g gb
        have gb : s1.boot = s.boot := gb
        split
        · refine keeps_svcRet (keeps_updOtp ?_ g.keeps)
          refine ⟨fun _ => rfl, fun x => x, fun x => ?_⟩
          simp [gb, hn] at x
        · refine keeps_svcRet (keeps_updOtp (s := { s1 with free := s1.free + 32 }) ?_ g.keeps)
          refine ⟨fun x => x, fun x => x, fun x => ?_⟩
          simp [gb, hn] at x
      · rename_i s1 e
        rw [e] at g
        exact keeps_svcRet g.keeps
      · rename_i s1 _ e
        rw [e] at g
        exact keeps_svcRet g.keeps
  · exact keeps_svcRet h

theorem keeps_svcKeyRevoke {r s : State} {slot : W32} (h : Keeps r s) : Keeps r (svcKeyRevoke slot s) := by
  unfold svcKeyRevoke
  split
  · split
    · exact keeps_svcRet h
    · exact keeps_svcRet (keeps_updOtp ⟨fun x => x, fun _ => rfl, fun x => ⟨x, rfl⟩⟩ h)
  · exact keeps_svcRet h

theorem keeps_execBootTrial {r s : State} {a0 a1 a2} (h : Keeps r s) : KeepsX r (execBootTrial a0 a1 a2 s) := by
  unfold execBootTrial
  with_reducible repeat' first | assumption | intro _ _ | apply keeps_svcTrial | apply keeps_svc

theorem keeps_execBootCommit {r s : State} {a0 a1} (h : Keeps r s) : KeepsX r (execBootCommit a0 a1 s) := by
  unfold execBootCommit
  with_reducible repeat' first | assumption | intro _ _ | apply keeps_svcCommit | apply keeps_svc

theorem keeps_execBootFallback {r s : State} {a0 a1 a2} (h : Keeps r s) : KeepsX r (execBootFallback a0 a1 a2 s) := by
  unfold execBootFallback
  with_reducible repeat' first | assumption | intro _ _ | apply keeps_svcFallback | apply keeps_svc

theorem keeps_execKeyRevoke {r s : State} {a0 a1} (h : Keeps r s) : KeepsX r (execKeyRevoke a0 a1 s) := by
  unfold execKeyRevoke
  with_reducible repeat' first | assumption | intro _ _ | apply keeps_svcKeyRevoke | apply keeps_svc

theorem keeps_effBootGroom {r s : State} {a0} (h : Keeps r s) : Keeps r (effBootGroom a0 s) := by
  unfold effBootGroom
  with_reducible repeat' first
    | assumption | intro _ | apply keeps_groomStart
    | refine keeps_updBoot (fun _ => ⟨Nat.le_refl _, fun _ => OtpKey.grows_refl _⟩) ?_ | apply keeps_if

theorem keeps_bootWrite {r s : State} {a0 a1 a2} (h : Keeps r s) : KeepsO r (bootWrite a0 a1 a2 s) := by
  unfold bootWrite
  with_reducible repeat' first
    | assumption | exact keepsO_none | apply keepsO_some | intro _ | apply keeps_effBootGroom | apply keeps_effFlCmd
    | apply keeps_effFwchk | refine keeps_updBoot (fun _ => ⟨Nat.le_refl _, fun _ => OtpKey.grows_refl _⟩) ?_
    | apply keeps_effRstReq | apply keepsO_if | split

theorem keeps_bootBus {r s : State} {a0 a1 a2} (h : Keeps r s) : KeepsX r (bootBus a0 a1 a2 s) := by
  unfold bootBus
  with_reducible repeat' first | assumption | apply keepsX_next | intro _ _ | apply keeps_bootWrite | apply keeps_busWrite

theorem keeps_execBootRstReq {r s : State} {a0 a1} (h : Keeps r s) : KeepsX r (execBootRstReq a0 a1 s) := by
  unfold execBootRstReq
  with_reducible repeat' first | assumption | apply keeps_bootBus

theorem keeps_execHeaderCheck {r s : State} {a0 a1} (h : Keeps r s) : KeepsX r (execHeaderCheck a0 a1 s) := by
  unfold execHeaderCheck
  with_reducible repeat' first | assumption | apply keeps_bootBus

theorem keeps_execFullCheck {r s : State} {a0 a1} (h : Keeps r s) : KeepsX r (execFullCheck a0 a1 s) := by
  unfold execFullCheck
  with_reducible repeat' first | assumption | apply keeps_bootBus

theorem keeps_execFwConfirm {r s : State} {a0 a1} (h : Keeps r s) : KeepsX r (execFwConfirm a0 a1 s) := by
  unfold execFwConfirm
  with_reducible repeat' first | assumption | apply keeps_bootBus

theorem keeps_execProgram {r s : State} {a0} (h : Keeps r s) : KeepsX r (execProgram a0 s) := by
  unfold execProgram
  with_reducible repeat' first | assumption | apply keeps_bootBus

theorem keeps_execErase {r s : State} {a0} (h : Keeps r s) : KeepsX r (execErase a0 s) := by
  unfold execErase
  with_reducible repeat' first | assumption | apply keeps_bootBus

theorem keeps_execBootGroom {r s : State} {a0 a1} (h : Keeps r s) : KeepsX r (execBootGroom a0 a1 s) := by
  unfold execBootGroom
  with_reducible repeat' first | assumption | apply keeps_bootBus

theorem keeps_updBist {r s : State} {a1} (h : Keeps r s) : Keeps r (updBist s a1) := h

theorem keeps_recordFails {r s : State} {a0 a1} (h : Keeps r s) : Keeps r (recordFails a0 a1 s) := by
  unfold recordFails
  with_reducible repeat' first | assumption | intro _ _ | intro _ | apply keeps_recordFail | apply keeps_foldl

theorem wf_zeroSram (m : Mem) (h : m.wf = true) : (zeroSram m).wf = true := by
  unfold zeroSram
  generalize idx 8 = l
  induction l generalizing m with
  | nil => exact h
  | cons k t ih => exact ih _ (Mem.wf_zeroBank _ _ h)

theorem keeps_zeroSram {r x : State} (h : Keeps r x) :
    KeepsIn r x.pending (zeroSram x.mem) x.boot.otp x.boot.floor :=
  ⟨KeepsIn.pending h, fun w => wf_zeroSram _ (KeepsIn.mem h w), KeepsIn.floor h, KeepsIn.otp h⟩

theorem keeps_execBistPhase1End {r s : State} {a0} (h : Keeps r s) : KeepsX r (execBistPhase1End a0 s) := by
  unfold execBistPhase1End
  with_reducible repeat' first
    | assumption | apply keepsX_next | intro _ | apply keeps_recordFails | apply keeps_updBist
    | refine keeps_updBoot (fun _ => ⟨Nat.le_refl _, fun _ => OtpKey.grows_refl _⟩) ?_ | apply keeps_markBlocks
    | apply keeps_updPwr | apply keeps_if | simp only [keeps_mk] | apply keeps_zeroSram

theorem keeps_execPowerUpBistEnd {r s : State} {a0 a1 a2} (h : Keeps r s) : KeepsX r (execPowerUpBistEnd a0 a1 s a2) := by
  unfold execPowerUpBistEnd
  with_reducible repeat' first
    | assumption | apply keepsX_next | intro _ | apply keeps_recordFails | apply keeps_updBist | apply keeps_bankChoice
    | apply keeps_markBlocks | apply keeps_if

theorem keeps_bistWake {r s : State} {a0} (h : Keeps r s) : Keeps r (bistWake a0 s) := by
  unfold bistWake
  with_reducible repeat' first | assumption | intro _ | apply keeps_domDemand | apply keeps_if | split

theorem keeps_bistStart {r s : State} {a0} (h : Keeps r s) : Keeps r (bistStart a0 s) := by
  unfold bistStart
  with_reducible repeat' first | assumption | apply keeps_bistWake | apply keeps_updBist | apply keeps_cutGates

theorem keeps_effBistCmd {r s : State} {a0 a1} (h : Keeps r s) : KeepsO r (effBistCmd a0 a1 s) := by
  unfold effBistCmd
  with_reducible repeat' first
    | assumption | exact keepsO_none | apply keepsO_some | intro _ | apply keeps_bistStart | apply keeps_updBist
    | apply keeps_bistAbort | apply keepsO_if | split

theorem keeps_saveUnit {r s : State} {a0 a1} (h : Keeps r s) : Keeps r (saveUnit a0 a1 s) := by
  unfold saveUnit
  with_reducible repeat' first | assumption | simp only [keeps_mk] | apply keeps_writeN

theorem keeps_hurtStall {r s : State} {a0} (h : Keeps r s) : Keeps r (hurtStall a0 s) := by
  unfold hurtStall
  with_reducible repeat' first
    | assumption | intro _ _ | intro _ | apply keeps_stallTake | apply keeps_if | simp only [keeps_mk, keeps_fold]
    | apply keeps_foldl

theorem keeps_hurtOperands {r s : State} (h : Keeps r s) : Keeps r (hurtOperands s) := by
  unfold hurtOperands
  with_reducible repeat' first
    | assumption | intro _ _ | intro _ | apply keeps_updPkv | simp only [keeps_mk, keeps_fold] | apply keeps_foldl

theorem keeps_hurtUnit {r s : State} {a0 a1} (h : Keeps r s) : Keeps r (hurtUnit a0 a1 s) := by
  unfold hurtUnit
  with_reducible repeat' first
    | assumption | intro _ _ | intro _ | apply keeps_hurtOperands | apply keeps_hurtStall | apply keeps_hurt | apply keeps_if
    | apply keeps_foldl

theorem keeps_setRun {r s : State} {a0} (h : Keeps r s) : Keeps r (setRun a0 s) := by
  unfold setRun
  with_reducible repeat' first | assumption | apply keeps_updBist

theorem keeps_unitDone {r s : State} {a0 a1} (h : Keeps r s) : Keeps r (unitDone a0 a1 s) := by
  unfold unitDone
  with_reducible repeat' first | assumption | apply keeps_setRun | apply keeps_hurtUnit | apply keeps_recordFail | split

theorem keeps_execSlice {r s : State} {a0} (h : Keeps r s) : KeepsX r (execSlice a0 s) := by
  unfold execSlice
  with_reducible repeat' first
    | assumption | apply keepsX_next | intro _ _ | intro _ | apply keeps_unitDone | apply keeps_setRun | apply keeps_saveUnit
    | apply keeps_bistWake | apply keeps_if | apply keeps_foldl | split

theorem keeps_execBistDone {r s : State} (h : Keeps r s) : KeepsX r (execBistDone s) := by
  unfold execBistDone
  with_reducible repeat' first | assumption | apply keepsX_next | apply keeps_bistEnd | split

theorem keeps_bistWrite {r s : State} {a0 a1 a2} (h : Keeps r s) : KeepsO r (bistWrite a0 a1 a2 s) := by
  unfold bistWrite
  with_reducible repeat' first
    | assumption | exact keepsO_none | apply keepsO_some | intro _ | apply keeps_effBistCmd | apply keeps_updBist
    | apply keepsO_if | split

theorem keeps_execBistGo {r s : State} {a0 a1} (h : Keeps r s) : KeepsX r (execBistGo a0 a1 s) := by
  unfold execBistGo
  with_reducible repeat' first | assumption | apply keepsX_next | intro _ _ | apply keeps_bistWrite | apply keeps_busWrite

theorem keeps_execBistStop {r s : State} {a0} (h : Keeps r s) : KeepsX r (execBistStop a0 s) := by
  unfold execBistStop
  with_reducible repeat' first | assumption | apply keepsX_next | intro _ _ | apply keeps_bistWrite | apply keeps_busWrite

theorem keeps_execPwmPeriodStart {r s : State} {a0} (h : Keeps r s) : KeepsX r (execPwmPeriodStart a0 s) := by
  unfold execPwmPeriodStart
  with_reducible repeat' first | assumption | apply keepsX_next | intro _ | apply keeps_updStl | apply keeps_if

theorem keeps_execOcTrip {r s : State} {a0 a1} (h : Keeps r s) : KeepsX r (execOcTrip a0 s a1) := by
  unfold execOcTrip
  with_reducible repeat' first | assumption | apply keepsX_next | intro _ | apply keeps_updStl | apply keeps_if

theorem keeps_execRetry {r s : State} {a0} (h : Keeps r s) : KeepsX r (execRetry a0 s) := by
  unfold execRetry
  with_reducible repeat' first
    | assumption | apply keepsX_next | intro _ | apply keeps_fence | apply keeps_updStl | apply keeps_if

theorem keeps_execRetryUsedReset {r s : State} {a0} (h : Keeps r s) : KeepsX r (execRetryUsedReset a0 s) := by
  unfold execRetryUsedReset
  with_reducible repeat' first | assumption | apply keepsX_next | intro _ | apply keeps_updStl | apply keeps_if

theorem keeps_execFaultClr {r s : State} {a0 a1 a2} (h : Keeps r s) : KeepsX r (execFaultClr a0 a1 a2 s) := by
  unfold execFaultClr
  with_reducible repeat' first | assumption | apply keepsX_next | apply keeps_stallCmd

theorem keeps_execOcCntClr {r s : State} {a0 a1} (h : Keeps r s) : KeepsX r (execOcCntClr a0 a1 s) := by
  unfold execOcCntClr
  with_reducible repeat' first | assumption | apply keepsX_next | apply keeps_stallCmd

theorem keeps_updGal {r s : State} {a1} (h : Keeps r s) : Keeps r (updGal s a1) := h

theorem keeps_writeRecord {r s : State} (h : Keeps r s) : Keeps r (writeRecord s) := by
  unfold writeRecord
  try dsimp only
  with_reducible repeat' first
    | assumption | intro _ _ | intro _ | apply keeps_updGal | apply keeps_dmaWrite | apply keeps_foldl
    | refine keeps_snd (by assumption) ?_ | split

theorem keeps_clearSeen {r s : State} (h : Keeps r s) : Keeps r (clearSeen s) := by
  unfold clearSeen
  with_reducible repeat' first | assumption | simp only [keeps_mk, keeps_fold]

theorem keeps_galRecord {r s : State} (h : Keeps r s) : Keeps r (galRecord s) := by
  unfold galRecord
  try dsimp only
  with_reducible repeat' first | assumption | apply keeps_clearSeen | apply keeps_writeRecord | apply keeps_updGal

theorem keeps_execGalleryRecord {r s : State} (h : Keeps r s) : KeepsX r (execGalleryRecord s) := by
  unfold execGalleryRecord
  with_reducible repeat' first
    | assumption | apply keepsX_next | intro _ | apply keeps_galRecord | apply keeps_updGal | apply keeps_if

theorem keeps_execCaptureEnd {r s : State} (h : Keeps r s) : KeepsX r (execCaptureEnd s) := by
  unfold execCaptureEnd
  with_reducible repeat' first | assumption | apply keepsX_next | intro _ | apply keeps_updGal | apply keeps_if

theorem keeps_effGalCtrl {r s : State} {a0} (h : Keeps r s) : KeepsO r (effGalCtrl a0 s) := by
  unfold effGalCtrl
  try dsimp only
  with_reducible repeat' first
    | assumption | exact keepsO_none | apply keepsO_some | intro _ | apply keeps_clearSeen | apply keeps_updGal
    | apply keepsO_if

theorem keeps_effGalCmd {r s : State} {a0} (h : Keeps r s) : Keeps r (effGalCmd a0 s) := by
  unfold effGalCmd
  with_reducible repeat' first | assumption | intro _ | apply keeps_updGal | apply keeps_if

theorem keeps_galWrite {r s : State} {a0 a1} (h : Keeps r s) : KeepsO r (galWrite a0 a1 s) := by
  unfold galWrite
  with_reducible repeat' first
    | assumption | exact keepsO_none | apply keepsO_some | intro _ | apply keeps_effGalCmd | apply keeps_effGalCtrl
    | apply keeps_updGal | apply keepsO_if | apply keepsO_dite

theorem keeps_execGalleryArm {r s : State} {a0 a1} (h : Keeps r s) : KeepsX r (execGalleryArm a0 a1 s) := by
  unfold execGalleryArm
  with_reducible repeat' first | assumption | apply keepsX_next | intro _ _ | apply keeps_galWrite | apply keeps_busWrite

theorem keeps_execForce {r s : State} {a0} (h : Keeps r s) : KeepsX r (execForce a0 s) := by
  unfold execForce
  with_reducible repeat' first | assumption | apply keepsX_next | intro _ _ | apply keeps_galWrite | apply keeps_busWrite

theorem keeps_execGalStop {r s : State} {a0} (h : Keeps r s) : KeepsX r (execGalStop a0 s) := by
  unfold execGalStop
  with_reducible repeat' first | assumption | apply keepsX_next | intro _ _ | apply keeps_galWrite | apply keeps_busWrite

theorem keeps_updPio {r s : State} {a1} (h : Keeps r s) : Keeps r (updPio s a1) := h

theorem keeps_effHoldrel {r s : State} {a0} (h : Keeps r s) : Keeps r (effHoldrel a0 s) := by
  unfold effHoldrel
  with_reducible repeat' first | assumption | intro _ | apply keeps_updPio | apply keeps_if

theorem keeps_effFsel {r s : State} {a0 a1} (h : Keeps r s) : KeepsO r (effFsel a0 a1 s) := by
  unfold effFsel
  with_reducible repeat' first
    | assumption | exact keepsO_none | apply keepsO_some | intro _ | apply keeps_updPio | apply keepsO_if

theorem keeps_pioWrite {r s : State} {a0 a1} (h : Keeps r s) : KeepsO r (pioWrite a0 a1 s) := by
  unfold pioWrite
  with_reducible repeat' first
    | assumption | apply keepsO_some | intro _ | apply keeps_effFsel | apply keeps_effHoldrel | apply keeps_updPio
    | apply keepsO_if | apply keeps_if | split

theorem keeps_pioRead {r s : State} {a0} (h : Keeps r s) : KeepsP r (pioRead a0 s) := by
  unfold pioRead
  with_reducible repeat' first | assumption | simp only [keeps_mk, keeps_fold, keepsP_mk] | split

theorem keeps_pioRead_2 {r s : State} {a0} (h : Keeps r s) : Keeps r (pioRead a0 s).2 := (keeps_pioRead h).keeps

theorem keeps_setNode {r s : State} {a0 a1} (h : Keeps r s) : Keeps r (setNode a0 a1 s) := by
  unfold setNode
  with_reducible repeat' first | assumption | intro _ | apply keeps_if | simp only [keeps_mk, keeps_fold]

theorem keeps_execQualifiedEdge {r s : State} {a0 a1} (h : Keeps r s) : KeepsX r (execQualifiedEdge a0 a1 s) := by
  unfold execQualifiedEdge
  with_reducible repeat' first
    | assumption | apply keepsX_next | intro _ | apply keeps_setNode | apply keeps_updPio | apply keeps_fire | apply keeps_wake
    | apply keeps_if

theorem keeps_execSlumberEdge {r s : State} {a0 a1} (h : Keeps r s) : KeepsX r (execSlumberEdge a0 a1 s) := by
  unfold execSlumberEdge
  with_reducible repeat' first
    | assumption | apply keepsX_next | intro _ | apply keeps_setNode | apply keeps_updPio | apply keeps_wake | apply keeps_if

theorem keeps_execMaskedWrite {r s : State} {a0 a1 a2 a3} (h : Keeps r s) : KeepsX r (execMaskedWrite a0 a1 a2 a3 s) := by
  unfold execMaskedWrite
  with_reducible repeat' first | assumption | apply keepsX_next | intro _ _ | apply keeps_pioWrite | apply keeps_busWrite

theorem keeps_execHoldrel {r s : State} {a0 a1} (h : Keeps r s) : KeepsX r (execHoldrel a0 a1 s) := by
  unfold execHoldrel
  with_reducible repeat' first | assumption | apply keepsX_next | intro _ _ | apply keeps_pioWrite | apply keeps_busWrite

theorem keeps_execMap {r s : State} {a0} (h : Keeps r s) : KeepsX r (execMap a0 s) := by
  unfold execMap
  with_reducible repeat' first | assumption | apply keepsX_next | intro _ _ | apply keeps_pioWrite | apply keeps_busWrite

theorem keeps_updSup {r s : State} {a1} (h : Keeps r s) : Keeps r (updSup s a1) := h

theorem keeps_ungate {r s : State} (h : Keeps r s) : Keeps r (ungate s) := h

theorem keeps_execVgdUndervoltage {r s : State} (h : Keeps r s) : KeepsX r (execVgdUndervoltage s) := by
  unfold execVgdUndervoltage
  with_reducible repeat' first
    | assumption | apply keepsX_next | intro _ | apply keeps_updSup | apply keeps_cutGates | apply keeps_if

theorem keeps_execVgdRelease {r s : State} (h : Keeps r s) : KeepsX r (execVgdRelease s) := by
  unfold execVgdRelease
  with_reducible repeat' first
    | assumption | apply keepsX_next | intro _ | apply keeps_ungate | apply keeps_updSup | apply keeps_if

theorem keeps_execThermalCut {r s : State} (h : Keeps r s) : KeepsX r (execThermalCut s) := by
  unfold execThermalCut
  with_reducible repeat' first
    | assumption | apply keepsX_next | intro _ | apply keeps_updSup | apply keeps_cutGates | apply keeps_if

theorem keeps_execThermalCutRelease {r s : State} (h : Keeps r s) : KeepsX r (execThermalCutRelease s) := by
  unfold execThermalCutRelease
  with_reducible repeat' first
    | assumption | apply keepsX_next | intro _ | apply keeps_ungate | apply keeps_updSup | apply keeps_if

theorem keeps_supWrite {r s : State} {a0 a1} (h : Keeps r s) : Keeps r (supWrite a0 a1 s) := by
  unfold supWrite
  with_reducible repeat' first | assumption | intro _ | apply keeps_updSup | apply keeps_if | split

theorem keeps_execSupCntClr {r s : State} {a0} (h : Keeps r s) : KeepsX r (execSupCntClr a0 s) := by
  unfold execSupCntClr
  with_reducible repeat' first
    | assumption | apply keepsO_some | apply keepsX_next | intro _ _ | apply keeps_supWrite | apply keeps_busWrite

theorem keeps_clkWrite {r s : State} {a0 a1} (h : Keeps r s) : KeepsO r (clkWrite a0 a1 s) := by
  unfold clkWrite
  with_reducible repeat' first
    | assumption | apply keepsO_some | intro _ | apply keeps_effSlkD | apply keeps_effSlkE | apply keeps_effClkCntClr
    | apply keeps_effSlkCfg | apply keeps_effRfCfg | apply keeps_effSysCfg | apply keeps_effBypass | apply keeps_updClk
    | apply keepsO_dite | apply keeps_if | split

theorem keeps_sysWrite {r s : State} {a0 a1} (h : Keeps r s) : KeepsO r (sysWrite a0 a1 s) := by
  unfold sysWrite
  with_reducible repeat' first
    | assumption | apply keepsO_some | intro _ | apply keeps_clkWrite | apply keeps_supWrite | apply keeps_wdtWrite
    | apply keeps_yardWrite | apply keepsO_if

theorem keeps_regWrite {r s : State} {a0 a1 a2 a3} (h : Keeps r s) : KeepsP r (regWrite a0 a1 a2 a3 s) := by
  unfold regWrite
  with_reducible repeat' first
    | assumption | intro _ _ | apply keeps_sysWrite | apply keeps_pioWrite | apply keeps_galWrite | apply keeps_bistWrite
    | apply keeps_bootWrite | apply keeps_pwrWrite | apply keeps_zlkWrite | apply keeps_trxWrite | apply keeps_rgyWrite
    | apply keeps_i2cWrite | apply keeps_uartWrite | apply keeps_spisWrite | apply keeps_dliWrite | apply keeps_pkvWrite
    | apply keeps_cryWrite | apply keeps_cfgWrite | apply keeps_lpeWrite | apply keeps_pdkWrite | apply keeps_stallWrite
    | apply keeps_echoWrite | apply keeps_snsWrite | apply keeps_irqWrite | apply keeps_actWrite | apply keeps_accepted
    | simp only [keepsP_mk] | split

theorem keeps_regRead {r s : State} {a0 a1 a2} (h : Keeps r s) : KeepsP r (regRead a0 a1 a2 s) := by
  unfold regRead
  with_reducible repeat' first
    | assumption | apply keeps_pioRead_2 | apply keeps_zlkRead_2 | apply keeps_trxRead_2 | apply keeps_i2cRead_2
    | apply keeps_uartRead_2 | apply keeps_spisRead_2 | apply keeps_lpeRead | apply keeps_irqRead_2
    | simp only [keepsP_mk] | split

theorem keeps_performWrite {r s : State} {a0 a1 a2 a3 a4} (h : Keeps r s) : KeepsP r (performWrite a0 a1 a2 a3 a4 s) := by
  unfold performWrite
  with_reducible repeat' first
    | assumption | intro _ | apply keeps_regWrite | apply keepsP_if | simp only [keeps_mk, keepsP_mk]
    | apply keeps_writeN

theorem keeps_performRead {r s : State} {a0 a1 a2 a3} (h : Keeps r s) : KeepsP r (performRead a0 a1 a2 a3 s) := by
  unfold performRead
  with_reducible repeat' first
    | assumption | intro _ | apply keeps_regRead | apply keepsP_if | simp only [keepsP_mk]

theorem keeps_perform {r s : State} {a0 a1 a2 a3 a4} (h : Keeps r s) : KeepsP r (perform a0 a1 a2 a3 a4 s) := by
  unfold perform
  with_reducible repeat' first
    | assumption | apply keeps_performRead | apply keeps_performWrite | simp only [keepsP_mk]
    | refine keeps_snd (by assumption) ?_ | split

theorem keeps_perform_2 {r s : State} {a0 a1 a2 a3 a4} (h : Keeps r s) :
    Keeps r (perform a0 a1 a2 a3 a4 s).2 := (keeps_perform h).keeps

theorem keeps_transact {r s : State} {a0 a1 a2 a3 a4} (h : Keeps r s) : Keeps r (transact a0 a1 a2 a3 a4 s) := by
  unfold transact
  with_reducible repeat' first | assumption | intro _ _ | apply keeps_perform | apply keeps_access

theorem keeps_execRegisterWrite {r s : State} {a0 a1 a2 a3} (h : Keeps r s) : KeepsX r (execRegisterWrite a0 a1 a2 a3 s) := by
  unfold execRegisterWrite
  with_reducible repeat' first | assumption | apply keepsX_next | apply keeps_transact

theorem keeps_ldStore {r s : State} {a0} (h : Keeps r s) : KeepsP r (ldStore a0 s) := by
  unfold ldStore
  with_reducible repeat' first
    | assumption | intro _ | apply keeps_performWrite | apply keeps_stickAt | apply keeps_grant | apply keeps_issue
    | apply keeps_captureErr | apply keeps_captureDeny | apply keepsP_if | simp only [keepsP_mk]
    | refine keeps_snd (by assumption) ?_ | split

theorem keeps_ldStores {r s : State} {l : List LdStore} {n : Nat} (h : Keeps r s) : KeepsP r (ldStores l n s) := by
  induction l generalizing s n with
  | nil => exact ⟨h⟩
  | cons x t ih =>
    unfold ldStores
    split
    · have g := keeps_snd ‹_› (keeps_ldStore h)
      exact keepsP_if (fun _ => ⟨g⟩) fun _ => ih g
    · exact ⟨keeps_snd ‹_› (keeps_ldStore h)⟩

theorem keeps_applyWords {r s : State} {a n k p : Nat} {x : Sect} {b : List Byte} (h : Keeps r s) :
    KeepsP r (applyWords a x n k p b s) := by
  induction n generalizing s k p b with
  | zero => exact ⟨h⟩
  | succ n ih =>
    unfold applyWords
    split
    · have g := keeps_snd ‹_› (keeps_cfgRead h)
      refine keepsP_if (fun _ => ⟨g⟩) fun _ => ?_
      split
      · have g2 := keeps_snd ‹_› (keeps_ldStores g)
        exact keepsP_if (fun _ => ⟨g2⟩) fun _ => ih g2
      · exact ⟨keeps_snd ‹_› (keeps_ldStores g)⟩
    · exact ⟨keeps_snd ‹_› (keeps_cfgRead h)⟩

theorem keeps_applyHeader {r s : State} {a0} (h : Keeps r s) : Keeps r (applyHeader a0 s) := by
  unfold applyHeader
  with_reducible repeat' first | assumption | intro _ | apply keeps_updZlk | apply keeps_updCfg | apply keeps_if

theorem keeps_applySect {r s : State} {l : LoadRun} {x : Sect} (h : Keeps r s) : KeepsP r (applySect l x s) := by
  unfold applySect
  split
  · have g := keeps_snd ‹_› (keeps_applyWords h)
    exact keepsP_if (fun _ => ⟨g⟩) fun _ => ⟨g⟩
  · exact keeps_applyWords h

theorem keeps_pdkFailed {r s : State} {a0 a1} (h : Keeps r s) : Keeps r (pdkFailed a0 a1 s) := by
  unfold pdkFailed
  with_reducible repeat' first | assumption | apply keeps_updPdk

theorem keeps_pdkVerified {r s : State} {a0} (h : Keeps r s) : Keeps r (pdkVerified a0 s) := by
  unfold pdkVerified
  with_reducible repeat' first | assumption | apply keeps_updPdk

theorem keeps_loadWaits {r s : State} {a0 a1 a2 a3} (h : Keeps r s) : Keeps r (loadWaits a0 a1 a2 a3 s) := by
  unfold loadWaits
  with_reducible repeat' first | assumption | apply keeps_updCfg | apply keeps_joinWait | apply keeps_updEng | split

theorem keeps_ownedEnd {r s : State} {a0 a1 a2 a3} (h : Keeps r s) : KeepsP r (ownedEnd a0 a1 a2 a3 s) := by
  unfold ownedEnd
  with_reducible repeat' first
    | assumption | intro _ | apply keeps_pdkVerified | apply keeps_pdkFailed | apply keeps_updPdk | apply keepsP_if
    | simp only [keepsP_mk]

theorem keeps_ownedEnd_2 {r s : State} {a0 a1 a2 a3} (h : Keeps r s) :
    Keeps r (ownedEnd a0 a1 a2 a3 s).2 := (keeps_ownedEnd h).keeps

theorem keeps_sharedEnd {r s : State} {a0 a1 a2} (h : Keeps r s) : KeepsP r (sharedEnd a0 a1 a2 s) := by
  unfold sharedEnd
  with_reducible repeat' first
    | assumption | intro _ | apply keeps_applyHeader | apply keeps_updRgy | apply keepsP_if
    | simp only [keepsP_mk]

theorem keeps_sharedEnd_2 {r s : State} {a0 a1 a2} (h : Keeps r s) :
    Keeps r (sharedEnd a0 a1 a2 s).2 := (keeps_sharedEnd h).keeps

theorem keeps_applyBase {r s : State} {t : List Sect} {l : LoadRun} (h : Keeps r s) : KeepsP r (applyBase t l s) := by
  induction t generalizing s l with
  | nil => exact ⟨h⟩
  | cons x t ih =>
    unfold applyBase
    refine keepsP_if (fun _ => ih (keeps_updPdk h)) fun _ => keepsP_if (fun _ => ih h) fun _ => ?_
    split
    · exact ⟨keeps_loadWaits (keeps_snd ‹_› (keeps_applySect h))⟩
    · have g := keeps_snd ‹_› (keeps_applySect h)
      exact keepsP_if (fun _ => ih (keeps_ownedEnd_2 g)) fun _ => keepsP_if (fun _ => ⟨g⟩) fun _ => ih (keeps_sharedEnd_2 g)

theorem keeps_autoLive {r s : State} {a0} (h : Keeps r s) : Keeps r (autoLive a0 s) := by
  unfold autoLive
  with_reducible repeat' first | assumption | intro _ _ | intro _ | apply keeps_effUnpark | apply keeps_if | apply keeps_foldl

theorem keeps_rgyLock {r s : State} (h : Keeps r s) : Keeps r (rgyLock s) := by
  unfold rgyLock
  with_reducible repeat' first | assumption | apply keeps_updRgy

theorem keeps_endBase {r s : State} {a0 a1} (h : Keeps r s) : Keeps r (endBase a0 a1 s) := by
  unfold endBase
  with_reducible repeat' first | assumption | apply keeps_rgyLock | apply keeps_bootLoadEnd | apply keeps_endLoad

theorem keeps_baseApply {r s : State} {l : LoadRun} (h : Keeps r s) : Keeps r (baseApply l s) := by
  unfold baseApply
  split
  · have g := keeps_snd ‹_› (keeps_applyBase h)
    exact keeps_bootLoadEnd (keeps_autoLive (keeps_endLoad (keeps_rgyLock (keeps_updCfg g))))
  · exact keeps_endBase (keeps_snd ‹_› (keeps_applyBase h))
  · exact keeps_snd ‹_› (keeps_applyBase h)

theorem keeps_applyPartial {r s : State} {t : List Sect} {l : LoadRun} (h : Keeps r s) : KeepsP r (applyPartial t l s) := by
  induction t generalizing s l with
  | nil => exact ⟨h⟩
  | cons x t ih =>
    unfold applyPartial
    split
    · exact ⟨keeps_loadWaits (keeps_snd ‹_› (keeps_applySect h))⟩
    · exact ih (keeps_snd ‹_› (keeps_applySect h))
    · exact ⟨keeps_snd ‹_› (keeps_applySect h)⟩

theorem keeps_endPartial {r s : State} {a0 a1 a2} (h : Keeps r s) : Keeps r (endPartial a0 a1 a2 s) := by
  unfold endPartial
  with_reducible repeat' first
    | assumption | intro _ | apply keeps_pdkVerified | apply keeps_pdkFailed | apply keeps_endLoad | apply keeps_if

theorem keeps_loadEnd {r s : State} (h : Keeps r s) : Keeps r (loadEnd s) := by
  unfold loadEnd
  split
  · exact h
  · split
    · exact keeps_readSource h
    · refine keeps_if (fun _ => keeps_baseApply h) fun _ => ?_
      split
      · exact keeps_endPartial (keeps_snd ‹_› (keeps_applyPartial h))
      · exact keeps_snd ‹_› (keeps_applyPartial h)
    · exact keeps_if (fun _ => keeps_endBase h) fun _ => keeps_endPartial h
    · exact h

theorem keeps_resume {r s : State} {x : Txn} (h : Keeps r s) : Keeps r (resume s x) := by
  unfold resume
  split
  · exact h
  · refine keeps_if (fun _ => keeps_respond h) fun _ => ?_
    dsimp only
    refine keeps_if (fun _ => keeps_respond (keeps_grant h)) fun _ => ?_
    split
    all_goals exact keeps_respond (keeps_snd ‹_› (keeps_perform (keeps_grant h)))

theorem keeps_refuseTxn {r s : State} {a0 a2} (h : Keeps r s) : Keeps r (refuseTxn a0 s a2) := by
  unfold refuseTxn
  with_reducible repeat' first | assumption | apply keeps_captureErr | simp only [keeps_mk, keeps_fold]

theorem keeps_runEvent {r s : State} {c : Instr} (h : Keeps r s) : Keeps r (runEvent c s) := by
  unfold runEvent
  split
  · exact keeps_loadEnd h
  · exact keeps_acceptJob h
  · exact keeps_portReturn (keeps_endJob h)
  · exact keeps_postCpl h
  · exact keeps_txAttempt (keeps_portReturn h)
  · exact keeps_rxFrame h
  · exact keeps_dataBurst h
  · exact keeps_svcKeyProgram h
  · exact h

theorem keeps_runTask {r s : State} {k : Task} (h : Keeps r s) : Keeps r (runTask k s) := by
  unfold runTask
  split
  · exact keeps_runEvent h
  · exact keeps_deliverHeld h
  · exact keeps_taskEffect h

theorem keeps_rerun {r s : State} {i : Nat} {q : Option (Domain × Bool)} {k : Task} {got : List Resp} (h : Keeps r s) :
    Keeps r (rerun i q k got s) :=
  keeps_updEng (keeps_engineRun (fun _ g => keeps_runTask g) (keeps_updEng h))

theorem keeps_goOn {r s : State} {i : Nat} {q : Option (Domain × Bool)} {x : Txn} (h : Keeps r s) :
    Keeps r (goOn q i x s) := by
  unfold goOn
  split
  · refine keeps_noteSpis ?_
    split
    · exact keeps_refuseTxn h
    · exact keeps_resume h
  · exact keeps_if (fun _ => keeps_rerun (keeps_resume (x := x) h)) fun _ => keeps_rerun h

theorem keeps_serveTxn {r s : State} {a0 a1} (h : Keeps r s) : Keeps r (serveTxn a0 a1 s) := by
  unfold serveTxn
  with_reducible repeat' first | assumption | apply keeps_goOn | simp only [keeps_mk, keeps_fold] | split

theorem keeps_issueOne {r s : State} {x : Txn} (h : Keeps r s) : Keeps r (issueOne s x) := by
  unfold issueOne
  refine keeps_if (fun _ => h) fun _ => ?_
  split
  · exact keeps_noteSpis (keeps_transact h)
  · exact keeps_engineRun (fun _ g => keeps_runTask g) h

theorem keeps_issuePort {r s : State} (h : Keeps r s) : Keeps r (issuePort s) := by
  unfold issuePort
  with_reducible repeat' first
    | assumption | intro _ _ | intro _ | apply keeps_issueOne | simp only [keeps_mk, keeps_fold] | apply keeps_foldl

theorem keeps_cycle {r s : State} (h : Keeps r s) : Keeps r (cycle s) := by
  unfold cycle
  with_reducible repeat' first
    | assumption | intro _ _ | intro _ | apply keeps_issuePort | apply keeps_serveTxn | apply keeps_foldl

theorem keeps_cycles {r : State} (n : Nat) : ∀ {s : State}, Keeps r s → Keeps r (cycles n s) := by
  induction n with
  | zero => exact fun h => h
  | succ n ih => exact fun h => keeps_if (fun _ => h) fun _ => ih (keeps_cycle h)

theorem keeps_settle {r s : State} (h : Keeps r s) : Keeps r (settle s) := keeps_cycles _ h

theorem keeps_execDemand {r s : State} {a0} (h : Keeps r s) : KeepsX r (execDemand a0 s) := by
  unfold execDemand
  with_reducible repeat' first
    | assumption | apply keepsX_next | intro _ | apply keeps_settle | apply keeps_rfBack | apply keeps_domDemand
    | apply keeps_if

theorem keeps_leaveOff {r s : State} {a1} (h : Keeps r s) : Keeps r (leaveOff s a1) := h

theorem keeps_refuseAll {r s : State} {a0} (h : Keeps r s) : Keeps r (refuseAll a0 s) := by
  unfold refuseAll
  with_reducible repeat' first
    | assumption | intro _ _ | intro _ | apply keeps_settle | apply keeps_serveTxn | apply keeps_foldl

theorem keeps_execDomFail {r s : State} {a0} (h : Keeps r s) : KeepsX r (execDomFail a0 s) := by
  unfold execDomFail
  with_reducible repeat' first
    | assumption | apply keepsX_next | intro _ | apply keeps_refuseAll | apply keeps_leaveOff | apply keeps_resetDevice
    | apply keeps_if

theorem keeps_execYardTimeout {r s : State} {a0} (h : Keeps r s) : KeepsX r (execYardTimeout a0 s) := by
  unfold execYardTimeout
  with_reducible repeat' first
    | assumption | apply keepsX_next | intro _ | apply keeps_settle | apply keeps_serveTxn | apply keeps_perform_2
    | apply keeps_if | simp only [keeps_mk, keeps_fold] | split

theorem keeps_engineEvent {r s : State} {c : Instr} (h : Keeps r s) : Keeps r (engineEvent c s) :=
  keeps_settle (keeps_engine (fun _ g => keeps_runEvent g) h)

theorem keeps_execLoadEnd {r s : State} (h : Keeps r s) : KeepsX r (execLoadEnd s) := by
  unfold execLoadEnd
  with_reducible repeat' first | assumption | apply keepsX_next | apply keeps_engineEvent

theorem keeps_execJobAccept {r s : State} {a0} (h : Keeps r s) : KeepsX r (execJobAccept a0 s) := by
  unfold execJobAccept
  with_reducible repeat' first | assumption | apply keepsX_next | apply keeps_engineEvent

theorem keeps_execJobDispatch {r s : State} {a0} (h : Keeps r s) : KeepsX r (execJobDispatch a0 s) := by
  unfold execJobDispatch
  with_reducible repeat' first | assumption | apply keepsX_next | apply keeps_portReturn | apply keeps_dispatch

theorem keeps_execJobEnd {r s : State} {a0} (h : Keeps r s) : KeepsX r (execJobEnd a0 s) := by
  unfold execJobEnd
  with_reducible repeat' first | assumption | apply keepsX_next | apply keeps_engineEvent

theorem keeps_execCompletionPost {r s : State} (h : Keeps r s) : KeepsX r (execCompletionPost s) := by
  unfold execCompletionPost
  with_reducible repeat' first | assumption | apply keepsX_next | apply keeps_engineEvent

theorem keeps_execTxAttempt {r s : State} (h : Keeps r s) : KeepsX r (execTxAttempt s) := by
  unfold execTxAttempt
  with_reducible repeat' first | assumption | apply keepsX_next | apply keeps_engineEvent

theorem keeps_execRxFrame {r s : State} {a0} (h : Keeps r s) : KeepsX r (execRxFrame a0 s) := by
  unfold execRxFrame
  with_reducible repeat' first | assumption | apply keepsX_next | apply keeps_engineEvent

theorem keeps_execDataBurst {r s : State} {a0 a1} (h : Keeps r s) : KeepsX r (execDataBurst a0 a1 s) := by
  unfold execDataBurst
  with_reducible repeat' first | assumption | apply keepsX_next | apply keeps_engineEvent

theorem keeps_execKeyProgram {r s : State} {a0 a1 a2 a3} (h : Keeps r s) : KeepsX r (execKeyProgram a0 a1 a2 a3 s) := by
  unfold execKeyProgram
  with_reducible repeat' first | assumption | intro _ _ | apply keeps_engineEvent | apply keeps_svc

theorem keeps_shiftOut {r s : State} {a0} (h : Keeps r s) : Keeps r (shiftOut a0 s) := by
  unfold shiftOut
  with_reducible repeat' first | assumption | apply keeps_updSpis

theorem keeps_shiftOpen {r s : State} {a0} (h : Keeps r s) : Keeps r (shiftOpen a0 s) := by
  unfold shiftOpen
  with_reducible repeat' first | assumption | apply keeps_shiftOut | simp only [keeps_mk, keeps_fold]

theorem keeps_spisAccess {r s : State} {a0 a1 a2} (h : Keeps r s) : Keeps r (spisAccess a0 a1 a2 s) := by
  unfold spisAccess
  with_reducible repeat' first | assumption | apply keeps_transact | apply keeps_noteSpis

theorem keeps_spisStore {r : State} (l : List (List Byte)) :
    ∀ {a : Nat} {s : State}, Keeps r s → Keeps r (spisStore a l s) := by
  induction l with
  | nil => exact fun h => h
  | cons w t ih => exact fun h => keeps_if (fun _ => ih (keeps_shiftOpen (keeps_spisAccess h))) fun _ => h

theorem keeps_spisLoad {r : State} (l : List Bool) :
    ∀ {a : Nat} {s : State}, Keeps r s → Keeps r (spisLoad a l s) := by
  induction l with
  | nil => exact fun h => h
  | cons w t ih => exact fun h => keeps_if (fun _ => h) fun _ => ih (keeps_shiftOut (keeps_updSpis (keeps_spisAccess h)))

theorem keeps_spisRun {r s : State} {a0 a1} (h : Keeps r s) : Keeps r (spisRun a0 a1 s) := by
  unfold spisRun
  with_reducible repeat' first
    | assumption | intro _ | apply keeps_spisLoad | apply keeps_spisStore | apply keeps_shiftOpen | apply keeps_shiftOut
    | apply keeps_updSpis | apply keeps_if | split

theorem keeps_execWrite {r s : State} {a0 a1} (h : Keeps r s) : KeepsX r (execWrite a0 a1 s) := by
  unfold execWrite
  with_reducible repeat' first | assumption | apply keepsX_next | apply keeps_spisRun

theorem keeps_execRead {r s : State} {a0 a1} (h : Keeps r s) : KeepsX r (execRead a0 a1 s) := by
  unfold execRead
  with_reducible repeat' first | assumption | apply keepsX_next | apply keeps_spisRun

theorem keeps_execStatus {r s : State} {a0} (h : Keeps r s) : KeepsX r (execStatus a0 s) := by
  unfold execStatus
  with_reducible repeat' first | assumption | apply keepsX_next | apply keeps_spisRun

theorem keeps_rfLost {r s : State} {a0 a1 a2} (h : Keeps r s) : Keeps r (rfLost a0 a1 a2 s) := by
  unfold rfLost
  with_reducible repeat' first | assumption | intro _ | apply keeps_radioLoss | apply keeps_if

theorem keeps_execLossOfLock {r s : State} {a0} (h : Keeps r s) : KeepsX r (execLossOfLock a0 s) := by
  unfold execLossOfLock
  with_reducible repeat' first | assumption | apply keepsX_next | apply keeps_rfLost | apply keeps_lossLock

theorem keeps_execLossOfReference {r s : State} {a0} (h : Keeps r s) : KeepsX r (execLossOfReference a0 s) := by
  unfold execLossOfReference
  with_reducible repeat' first | assumption | apply keepsX_next | apply keeps_rfLost | apply keeps_lossRef

theorem keeps_tickYard {r s : State} (h : Keeps r s) : Keeps r (tickYard s) := h

theorem keeps_tickLoft {r s : State} (h : Keeps r s) : Keeps r (tickLoft s) := by
  unfold tickLoft
  with_reducible repeat' first
    | assumption | intro _ _ | intro _ | apply keeps_updWdt | apply keeps_updPwr | apply keeps_if | apply keeps_foldl

theorem keeps_ltHalf {r s : State} {n : Nat} (h : Keeps r s) : Keeps r { s with ltHalf := n } := h

theorem keeps_time {r s : State} {n : Nat} (h : Keeps r s) : Keeps r { s with time := n } := h

theorem keeps_tick {r s : State} (h : Keeps r s) : Keeps r (tick s) := by
  unfold tick
  refine keeps_time (keeps_if (fun _ => keeps_tickLoft (keeps_ltHalf ?_)) fun _ => keeps_ltHalf ?_)
  all_goals exact keeps_if (fun _ => keeps_settle (keeps_tickSniff (keeps_tickYard h))) fun _ => h

end Sys2Proof.Machine
end

