-- ==== Sys2Proof/Laws/Reset.lean ====
section
/-!
SUPPORT. Reset: what a reset other than a power-on reset leaves, said once (R374, R375).
-/

namespace Sys2Proof.Machine

open Sys2Proof

theorem hurt_frame (l : List (Nat × Nat)) (s : State) : ∃ M F, hurt l s = { s with mem := M, free := F } := by
  unfold hurt
  induction l generalizing s with
  | nil => exact ⟨_, _, rfl⟩
  | cons x t ih =>
    obtain ⟨M, F, e⟩ := ih { s with mem := s.mem.writeN x.1 (freeBytes s.free x.2), free := s.free + x.2 }
    exact ⟨M, F, e⟩

/-- A reset is the state after reset, but for what the LOFT domain keeps, what lies outside, memory and the free values. -/
theorem resetDevice_frame (c : Nat) (s : State) : ∃ M F, resetDevice c s =
    recordCause c { keepLoft (keepOutside State.reset s) s with mem := M, free := F } := by
  obtain ⟨M, F, e⟩ := hurt_frame (hurtAtReset s) s
  refine ⟨clearOwn M, F, ?_⟩
  unfold resetDevice
  rw [e]
  rfl

/-- The boot controller's registers that a reset keeps, and the cause it records (R374, R375, R396). -/
theorem resetDevice_boot (c : Nat) (s : State) :
    (resetDevice c s).boot.lastRst = c ∧ (resetDevice c s).boot.sticky = s.boot.sticky ||| (1#10 <<< c) ∧
    (resetDevice c s).boot.lastFail = s.boot.lastFail ∧ (resetDevice c s).boot.skip = s.boot.skip ∧
    (resetDevice c s).boot.otp = s.boot.otp ∧ (resetDevice c s).boot.floor = s.boot.floor ∧
    (resetDevice c s).boot.hist = s.boot.hist ∧ (resetDevice c s).boot.histCnt = s.boot.histCnt := by
  obtain ⟨M, F, e⟩ := resetDevice_frame c s
  rw [e]
  exact ⟨rfl, rfl, rfl, rfl, rfl, rfl, rfl, rfl⟩

/-- An image failure of the boot ROM is a reset with cause SW_FALLBACK (R389). -/
theorem imageFail_frame (code : Nat) (s : State) : (imageFail code s).boot.lastRst = 8 ∧
    (imageFail code s).boot.lastFail = code ∧
    (imageFail code s).boot.skip = s.boot.skip ||| (1#2 <<< (bankIdx s.boot.bank).val) := by
  have p : ∀ x : State, (if s.boot.trial = true then programMark s.boot.bank 0x28 6 x else x).boot = x.boot := by
    intro x
    cases s.boot.trial
    · rfl
    · simp only [if_true, programMark]
  let u := updBoot s (fun t => { t with skip := t.skip ||| (1#2 <<< (bankIdx s.boot.bank).val), lastFail := code })
  let v := if s.boot.trial = true then programMark s.boot.bank 0x28 6 u else u
  have e : imageFail code s = resetDevice 8 (logEvent 6 s.boot.bank 6 code v) := rfl
  have hv : v.boot = u.boot := p u
  rw [e]
  clear_value v
  obtain ⟨h1, _, h2, h3, _⟩ := resetDevice_boot 8 (logEvent 6 s.boot.bank 6 code v)
  refine ⟨h1, h2.trans ?_, h3.trans ?_⟩
  · exact (congrArg Boot.lastFail hv).trans rfl
  · exact (congrArg Boot.skip hv).trans rfl

end Sys2Proof.Machine
end

