-- ==== Sys2Proof/Laws/Troax.lean ====
section
/-!
SUPPORT. Troax: what the completion of the Troax link's TX descriptors can change, and what leaving a zone does (R258, R269).
-/

namespace Sys2Proof.Machine

open Sys2Proof

/-- What completing TX descriptors of the Troax link may change: words 1 to 3 of the descriptors in memory, the ring's place and its event. -/
def completes (s t : State) : Prop := ∃ M P A Y F q w e, t = { s with
  mem := M, pwr := P, act := A, yard := Y, free := F, zlk := { s.zlk with txqCons := q, txWait := w, evt := e } } ∧
  (s.mem.wf = true → M.wf = true ∧ ∀ a, (∀ k : Fin 8, a < s.zlk.txqBase.toNat + 16 * k.val + 4 ∨ s.zlk.txqBase.toNat + 16 * k.val + 16 ≤ a) →
    M.read a = s.mem.read a)

theorem completes_refl (s : State) : completes s s := ⟨_, _, _, _, _, _, _, _, rfl, fun h => ⟨h, fun _ _ => rfl⟩⟩

theorem completes_trans {s t u : State} (h : completes s t) (g : completes t u) : completes s u := by
  obtain ⟨M, P, A, Y, F, q, w, e, rfl, k⟩ := h
  obtain ⟨M', P', A', Y', F', q', w', e', rfl, k'⟩ := g
  refine ⟨M', P', A', Y', F', q', w', e', rfl, fun h => ?_⟩
  obtain ⟨a1, a2⟩ := k h
  obtain ⟨b1, b2⟩ := k' a1
  exact ⟨b1, fun a ha => (b2 a ha).trans (a2 a ha)⟩

/-- A store within a descriptor's words 1 to 3. -/
theorem completes_stores {lo hi : Nat} {s t : State} (k : Fin 8) (h : stores lo hi s t)
    (l : s.zlk.txqBase.toNat + 16 * k.val + 4 ≤ lo ∧ hi ≤ s.zlk.txqBase.toNat + 16 * k.val + 16) : completes s t ∧ t.zlk = s.zlk := by
  obtain ⟨⟨M, P, A, Y, rfl⟩, h⟩ := h
  exact ⟨⟨M, P, A, Y, _, _, _, _, rfl, fun w => ⟨(h w).1, fun a ha => (h w).2 a (by have := ha k; omega)⟩⟩, rfl⟩

/-- One descriptor completes: from the state before its words are written. -/
theorem zlkComplete_core (code : Nat) (w3 : List Byte) (lw : w3.length = 4) (s s0 : State) (c0 : completes s s0)
    (z0 : s0.zlk = s.zlk) (k : Fin 8) :
    let u := zlkEvt 1 (updZlk (post (.setBit .zlkDma (s.zlk.txqBase.toNat + 16 * k.val + 4) 31 false)
      (post (.store .zlkDma (s.zlk.txqBase.toNat + 16 * k.val + 8) (leBytes 4 (code * 2 ^ 28 + s0.zlk.txWait) ++ w3)) s0))
      (fun z => { z with txqCons := (z.txqCons + 1) % 16, txWait := 0 }))
    completes s u ∧ u.zlk.txqCons = (s.zlk.txqCons + 1) % 16 ∧ u.zlk.evt = withBit s.zlk.evt 1 true ∧ u.zlk.txWait = 0 := by
  have q1 := post_store .zlkDma (s.zlk.txqBase.toNat + 16 * k.val + 8) (leBytes 4 (code * 2 ^ 28 + s0.zlk.txWait) ++ w3) s0
  rw [show (leBytes 4 (code * 2 ^ 28 + s0.zlk.txWait) ++ w3).length = 8 by rw [List.length_append, lw]; rfl] at q1
  generalize post (.store .zlkDma (s.zlk.txqBase.toNat + 16 * k.val + 8) (leBytes 4 (code * 2 ^ 28 + s0.zlk.txWait) ++ w3)) s0 = s1 at *
  have q2 := post_setBit .zlkDma (s.zlk.txqBase.toNat + 16 * k.val + 4) 31 false s1
  generalize post (.setBit .zlkDma (s.zlk.txqBase.toNat + 16 * k.val + 4) 31 false) s1 = s2 at *
  obtain ⟨c1, z1⟩ := completes_stores k q1 (by rw [z0]; omega)
  obtain ⟨c2, z2⟩ := completes_stores k q2 (by rw [z1, z0]; omega)
  have z : s2.zlk = s.zlk := z2.trans (z1.trans z0)
  refine ⟨completes_trans (completes_trans (completes_trans c0 c1) c2) ⟨_, _, _, _, _, _, _, _, rfl, fun h => ⟨h, fun _ _ => rfl⟩⟩, ?_, ?_, rfl⟩
  · show (s2.zlk.txqCons + 1) % 16 = _
    rw [z]
  · show withBit s2.zlk.evt 1 true = _
    rw [z]

/-- Completing the head descriptor moves the ring on and raises TX_DONE (R269, R283). -/
theorem zlkComplete_frame (code : Nat) (sync : Option W32) (s : State) :
    completes s (zlkComplete code sync s) ∧ (zlkComplete code sync s).zlk.txqCons = (s.zlk.txqCons + 1) % 16 ∧
    (zlkComplete code sync s).zlk.evt = withBit s.zlk.evt 1 true ∧ (zlkComplete code sync s).zlk.txWait = 0 := by
  have hd : ∃ k : Fin 8, zlkHead s.zlk = s.zlk.txqBase.toNat + 16 * k.val := ⟨⟨s.zlk.txqCons % 8, by omega⟩, rfl⟩
  obtain ⟨k, hk⟩ := hd
  unfold zlkComplete
  rw [hk]
  cases sync with
  | none => exact zlkComplete_core code _ (by simp [freeBytes]) s { s with free := s.free + 4 } ⟨_, _, _, _, _, _, _, _, rfl, fun h => ⟨h, fun _ _ => rfl⟩⟩ rfl k
  | some v => exact zlkComplete_core code _ rfl s s (completes_refl s) rfl k

theorem bit_withBit1 (w : W32) : bit (withBit w 1 true) 1 = true := by
  rw [bit_withBit _ _ _ _ (by decide)]
  rfl

/-- Completing every queued descriptor empties the ring (R269, R279). -/
theorem zlkCompleteAll_frame (code : Nat) (s : State) :
    completes s (zlkCompleteAll code s) ∧ (zlkCompleteAll code s).zlk.txqCons % 16 = (s.zlk.txqCons + zlkQueued s.zlk) % 16 ∧
    (zlkQueued s.zlk ≠ 0 → bit (zlkCompleteAll code s).zlk.evt 1 = true) ∧ (zlkQueued s.zlk = 0 → zlkCompleteAll code s = s) := by
  unfold zlkCompleteAll
  have go : ∀ (n : Nat) (s : State), completes s ((List.range n).foldl (fun s _ => zlkComplete code none s) s) ∧
      ((List.range n).foldl (fun s _ => zlkComplete code none s) s).zlk.txqCons % 16 = (s.zlk.txqCons + n) % 16 ∧
      (n ≠ 0 → bit ((List.range n).foldl (fun s _ => zlkComplete code none s) s).zlk.evt 1 = true) := by
    intro n s
    induction n with
    | zero => exact ⟨completes_refl s, rfl, fun h => absurd rfl h⟩
    | succ n ih =>
      rw [List.range_succ, List.foldl_append]
      obtain ⟨a, b, c⟩ := ih
      obtain ⟨f1, f2, f3, _⟩ := zlkComplete_frame code none ((List.range n).foldl (fun s _ => zlkComplete code none s) s)
      refine ⟨completes_trans a f1, ?_, fun _ => ?_⟩
      · show (zlkComplete code none _).zlk.txqCons % 16 = _
        rw [f2]; omega
      · show bit (zlkComplete code none _).zlk.evt 1 = true
        rw [f3]; exact bit_withBit1 _
  obtain ⟨a, b, c⟩ := go (zlkQueued s.zlk) s
  exact ⟨a, b, c, fun h => by rw [h]; rfl⟩

theorem zlkQueued_cons (z : Zlk) : (z.txqCons + zlkQueued z) % 16 = z.txqProd % 16 := by unfold zlkQueued; omega

/-- Marking remote values stale changes nothing else (R265). -/
theorem rvLatch_frame (s : State) : ∃ V, rvLatch s = { s with zlk := { s.zlk with rv := V } } := ⟨_, rfl⟩

/-- A device that leaves its zone: its state, an empty zone, and its queue completed if it was joined (R258, R269). -/
theorem zlkLeave_frame (st : ZlkState) (s : State) : ∃ u V, completes s u ∧ zlkLeave st s = { u with zlk := { u.zlk with
      state := st, pmap := 0, vmap := 0, nextP := 0, nextV := 0, heard := 0, missed := 0, joinSent := false, joinOut := false, joinWait := 0
      grant := none, ownColl := 0, rolled := false, pubRef := false, rv := V } } ∧
    ((s.zlk.state = .follower ∨ s.zlk.state = .leader) → u.zlk.txqCons % 16 = s.zlk.txqProd % 16) ∧
    (s.zlk.state ≠ .follower → s.zlk.state ≠ .leader → u = s) := by
  unfold zlkLeave
  dsimp only
  obtain ⟨V, e⟩ := rvLatch_frame (updZlk (if s.zlk.state = .follower || s.zlk.state = .leader then zlkCompleteAll 2 s else s) (fun z => { z with
    state := st, pmap := 0, vmap := 0, nextP := 0, nextV := 0, heard := 0, missed := 0, joinSent := false, joinOut := false, joinWait := 0
    grant := none, ownColl := 0, rolled := false, pubRef := false }))
  refine ⟨if s.zlk.state = .follower || s.zlk.state = .leader then zlkCompleteAll 2 s else s, V, ?_, e, fun h => ?_, fun h g => ?_⟩
  · split
    · exact (zlkCompleteAll_frame 2 s).1
    · exact completes_refl s
  · rw [if_pos (by simpa using h)]
    exact (zlkCompleteAll_frame 2 s).2.1.trans (zlkQueued_cons _)
  · exact if_neg (by simp [h, g])

end Sys2Proof.Machine
end

