-- ==== Sys2Proof/WellFormed.lean ====
section
/-!
DEFINITION. WellFormed: what the outside world can bring with a command. A command that is not well formed spells no event that
the spec describes: an octet string longer than a burst, a reference set of the wrong size, a failing block of another phase.
-/

namespace Sys2Proof

/-- Thirty-two conversions of each reference (R102). -/
def wfCal (c : CalRun) : Bool := c.zero.length = 32 && c.plus.length = 32 && c.minus.length = 32

/-- An octet string of a burst or frame, of a bounded length. -/
def octets (lo hi : Nat) (l : List Byte) : Bool := lo ≤ l.length && l.length ≤ hi

/-- The blocks of phase 1 of power-up BIST (R408). -/
def wfPhase1 : BitVec 64 := 0x0000000000FF0407

/-- The blocks of phases 2 and 3 (R408). -/
def wfLater : BitVec 64 := 0xFFFFFFFF000003F8

/-- Whether a command spells an event or an access that the spec describes. -/
def Instr.wf : Instr → Bool
  | .laneRdy _ r0 r1 => wfCal r0 && wfCal r1
  | .rxFrame f => f.psdu.length ≤ 2047 && f.phr.toNat % 2048 = f.psdu.length
  | .channelAssessment _ _ draw => draw < 256
  | .beacon l _ => octets 1 255 l
  | .roll _ l _ => octets 1 255 l
  | .join l => octets 1 255 l
  | .dataBurst l _ => octets 1 255 l
  | .i2cDone _ _ l => l.length ≤ 256
  | .uartRxChar _ _ _ fe brk => !brk || fe
  | .sleepClockMeasurement c => c != 0
  | .bistPhase1End l => l.all (fun f => wfPhase1.getLsbD f.block.val) && (l.map BistFail.block).Nodup
  | .powerUpBistEnd l _ _ => l.all (fun f => wfLater.getLsbD f.block.val) && (l.map BistFail.block).Nodup
  | .one _ g => g.toNat < 25
  | .write l _ => l != []
  | .read l _ => l != []
  | .status l => l != []
  | .auxConversion _ vexc => vexc != 0
  | .registerWrite _ _ _ _ | .yardTimeout _ | .yerrValidClear _ _ | .cntClr _ | .peakClr _ | .irqClaim _ _
  | .irqComplete _ _ _ | .toHost _ | .toGroom _ | .trgFire _ _ | .trgLock _ | .trgDropCntClr _ | .park _ _ _
  | .load _ _ | .unpark _ _ | .abort _ _ | .loadBase _ | .confirm _ _ | .waitSwv | .loadEnd | .parkingStart _
  | .stallFreeze _ | .holdExp _ | .unparkingStart _ | .adcResult _ _ _ | .calReference _ _ _ | .vrefBad | .vrefReturn
  | .startUpCalibration _ _ | .adlCfg _ _ _ | .auxCfg _ _ | .pirSample _ _ | .pirHoldEnd _ | .settleEnd _
  | .pirEnable _ _ _ | .pirSat _ | .pirSatClear _ | .dayResult _ _ | .tempMeasurement _ | .lpeTick | .stallSample _
  | .stallCompute _ | .stallUpdate _ | .lpePostMask _ _ | .stlSpWrite _ _ _ | .stallEnable _ _ _
  | .stallDisable _ _ _ | .lpeTabData _ _ | .lpeLoadPeakClr _ | .missCntClr _ _ _ | .clampCntClear _ _ _ _
  | .pwmPeriodStart _ | .ocTrip _ _ | .retry _ | .retryUsedReset _ | .faultClr _ _ _ | .ocCntClr _ _ | .echoStart _ _ _
  | .echoStop _ _ _ | .echoEnd _ | .galleryRecord | .captureEnd | .galleryArm _ _ | .force _ | .galStop _
  | .txqProd _ _ | .launch _ _ _ | .txAttempt | .backoffEnd | .timedLaunch | .txFrameEnd _ _ | .ackWaitExpiry
  | .trxFlush _ | .matcherResult | .ackSend | .sniff _ | .partnerEntryWrite _ _ _ | .trxCntClr _ | .trxTimeLo _
  | .trxZtimeLo _ | .bucketBoundary _ | .rgyCntClr _ | .cryProd _ _ _ | .jobAccept _ | .jobDispatch _ | .jobAged _
  | .jobEnd _ | .completionPost | .cplCons _ _ | .cryFlush _ _ | .ksPol _ _ | .ksLoad _ | .ksClear _ | .outReq _ _
  | .inReq _ _ | .katEnd _ _ | .cryCntClr _ | .pkvStart _ | .pkvDone | .zlkEnable _ _ | .zlkDisable _ _ | .form
  | .cycleStart _ | .leaderLost | .rollLatch _ | .memberDrop _ | .rvStale _ | .joinSlot _ _ | .dataWindow _ | .queue _ _
  | .zlkTxqProd _ _ | .zlkFlush _ | .zlkCntClr _ | .zlkZtLo _ | .send _ _ | .dliTxc _ _ | .settleExpiry
  | .daliFrame _ _ _ | .backwardFrameStart | .nobf | .txdone | .coll | .busfail _ | .spisTohost _ _ | .fromhostRead _
  | .uartTxChar _ | .uartDataWrite _ _ _ | .uartDataRead _ _ | .go _ _ _ | .i2cTimeout _ | .i2cDataAccess _ _ _
  | .xtalOk | .xtalFail | .bandSearchEnd _ _ | .lock _ | .lossOfLock _ | .lossOfReference _ | .reacquire _
  | .rfpllResearch | .syspllFailed | .referenceSwitch _ _ | .coastLimit | .bypass _ | .xlfOk | .xlfFail
  | .clkCntClr _ | .cloadStep | .pwrReqRunFast _ | .forwardBiasSettled | .pwrReqRun _ | .pwrReqDoze _ | .pwrReqNap _
  | .pwrReqSlumber _ _ | .requestInstant | .entryComplete | .wakeEvent _ | .exitComplete | .timer | .demand _
  | .domFail _ | .pwrDomOn _ _ | .pwrCntClr _ | .loftSniff | .all _ | .violClear _ _ | .violCntClr _
  | .qualifiedEdge _ _ | .slumberEdge _ _ | .maskedWrite _ _ _ _ | .holdrel _ _ | .map _ | .por | .pin | .brown
  | .dbgReset | .bootRstReq _ _ | .wdtExpiry _ | .wdtWarn _ | .kick _ _ _ | .resetRelease _ | .headerCheck _ _
  | .fullCheck _ _ | .fwConfirm _ _ | .fwCheckEnd | .program _ | .erase _ | .flashDone _ | .bootTrial _ _ _
  | .bootCommit _ _ | .bootFallback _ _ _ | .keyProgram _ _ _ _ | .keyRevoke _ _ | .bootGroom _ _ | .bistGo _ _
  | .bistStop _ | .slice _ | .bistDone | .vgdUndervoltage | .vgdRelease | .thermalCut | .thermalCutRelease
  | .supCntClr _ | .cts _ _ | .sfdDetected _ _ _ | .sniffRfpllStart | .xtalStartRetry => true

end Sys2Proof
end

