-- ==== Sys2Proof/Tests/Slice0.lean ====
section
/-!
SUPPORT. Tests: the model on small states. First the checks of WellFormed, each with a term it refuses; then, for every statement of the
certificate, a state and operands that meet what it assumes (`test_hyp_<statement>`), at the boundary of a range where there is one;
then single steps with values worked out from the spec's rules.
-/

namespace Sys2Proof.Tests

open Sys2Proof Sys2Proof.Machine

/-! ## States -/

/-- A device out of reset: the clocks locked, the firmware released, VGD present. -/
def live : State :=
  { State.reset with
    clk := { State.reset.clk with xtalOk := true, xtalOn := true, sys := { State.reset.clk.sys with st := .locked } }
    boot := { State.reset.boot with inReset := false, started := true, bootRom := false, released := true }
    pwr := { State.reset.pwr with hostOn := true }
    sup := { State.reset.sup with vgdUv := false } }

/-- A state with one stall changed. -/
def onStall (n : Fin 32) (f : Stall → Stall) (s : State) : State := { s with stl := upd s.stl n f }

/-- A state with one paddock changed. -/
def onPdk (p : Fin 8) (f : Paddock → Paddock) (s : State) : State := { s with cfg := { s.cfg with pdk := upd s.cfg.pdk p f } }

/-- Paddock 7 LIVE, its last stall enabled and running. -/
def liveStall : State := onStall 31 (fun t => { t with en := true, run := true, frozen := false }) (onPdk 7 (fun q => { q with state := .live, empty := false }) live)

/-- What a step answers, for a test of some of it. -/
def after (c : Instr) (s : State) (f : State → Bool) : Bool := match step (s.push c) with | .next t => f t | _ => false

/-! ## Well-formed commands -/

theorem test_wf_cal : (Instr.laneRdy 0 ⟨[], [], []⟩ ⟨[], [], []⟩).wf = false := by decide
theorem test_wf_frame : (Instr.rxFrame ⟨false, 0, 3, [0, 0], 0, 0, 0, false⟩).wf = false := by decide
theorem test_wf_draw : (Instr.channelAssessment 0 true 256).wf = false := by decide
theorem test_wf_beacon : (Instr.beacon [] 0).wf = false := by decide
theorem test_wf_roll : (Instr.roll 0 [] 0).wf = false := by decide
theorem test_wf_join : (Instr.join []).wf = false := by decide
set_option maxRecDepth 4096 in
theorem test_wf_burst : (Instr.dataBurst (List.replicate 256 0) 0).wf = false := by decide
set_option maxRecDepth 4096 in
theorem test_wf_i2c : (Instr.i2cDone 0 .ok (List.replicate 257 0)).wf = false := by decide
theorem test_wf_uart : (Instr.uartRxChar 0 0 false false true).wf = false := by decide
theorem test_wf_slk : (Instr.sleepClockMeasurement 0).wf = false := by decide
theorem test_wf_phase1 : (Instr.bistPhase1End [⟨3, 0⟩]).wf = false := by decide
theorem test_wf_phase1_twice : (Instr.bistPhase1End [⟨0, 0⟩, ⟨0, 1⟩]).wf = false := by decide
theorem test_wf_later : (Instr.powerUpBistEnd [⟨0, 0⟩] 0 true).wf = false := by decide
theorem test_wf_one : (Instr.one .hostS 25).wf = false := by decide
theorem test_wf_write : (Instr.write [] []).wf = false := by decide
theorem test_wf_read : (Instr.read [] []).wf = false := by decide
theorem test_wf_status : (Instr.status []).wf = false := by decide
theorem test_wf_aux : (Instr.auxConversion 0 0).wf = false := by decide
theorem test_wf_good : (Instr.one .hostS 24).wf = true ∧ (Instr.rxFrame ⟨false, 0, 2, [0, 0], 0, 0, 0, false⟩).wf = true := by decide

/-- No row of the table gives its command any bits. -/
theorem test_decode_none : decodeTableWord 32 0 = none ∧ State.reset.withFetchWord 32 5 = State.reset := ⟨rfl, rfl⟩

/-! ## What the statements assume -/

theorem test_hyp_MemoryStore : memOk live ∧ decodeTarget 0x28003FFF = some .loft ∧ storable .loft = true ∧
    alignedTo 0x28003FFF .b8 = true ∧ stalled live .hostS = false ∧ stalled live .hostU = false ∧ verdict live .hostS (some .loft) 0x28003FFF .write = .go .loft ∧
    verdict live .hostU (some .galRam) 0x4012FFFC .write = .go .galRam ∧ decodeTarget 0x4012FFFC = some .galRam ∧ decodeTarget 0x28004000 = none := by
  unfold memOk; decide

theorem test_hyp_RefusedWrites :
    (decodeTarget 0x40014000 = none ∧ decodeTarget 0x40010FFC = some .act ∧ isMemory .act = false ∧ stalled live .hostS = false ∧
      verdict live .hostS (some .act) 0x40010FFC .write = .go .act) ∧
    gatePermits live .dbg .act 0x40010000 .write = false ∧ unusable live 4 = false ∧ stalled live .dbg = false := by decide

/-- A write of the host core to SRAM 0 that has waited for so many cycles. -/
def waiting (age : Nat) : Txn := { tag := 127, mid := .hostS, addr := 0x20000000, size := .b32, kind := .write, data := 1, age := age }

theorem test_hyp_YardErrors_timeout : let s (age : Nat) := { live with yard := { live.yard with waiting := [waiting age] } }
    (s 19661).yard.waiting.find? (fun y => y.tag = 127) = some (waiting 19661) ∧ (waiting 0).cont = none ∧ bit (s 0).yard.cfg 8 = true ∧ (waiting 0).mid ≠ .spis ∧
    decodeTarget (waiting 0).addr.toNat = some (.sram 0) ∧ isMemory (.sram 0) = true ∧ (s 0).yard.err = none ∧
    3072 * max (fld (s 0).yard.cfg 7 0) 16 ≤ 5 * (waiting 19661).age ∧ 5 * (waiting 19660).age < 3072 * max (fld (s 0).yard.cfg 7 0) 16 ∧
    bit ({ live.yard with cfg := 0x20 } : Yard).cfg 8 = false := by decide

theorem test_hyp_YardErrors_clears : reaches .hostS .sys 0x40000804 (put 1 31 ||| putB true 30) live = true ∧
    reaches .hostS .sys 0x40000810 1 live = true ∧ reaches .groom .sys 0x40000810 2 live = true := by decide

theorem test_hyp_IrqCommands :
    let s := { live with irq := { live.irq with edge := 1#64 <<< 45, enHost := 1#64 <<< 45, prio := .replicate 8 0x77777777 } }
    readReaches .hostS .irq (claimAddr .host) s = true ∧ bestSource s .host = some 45 ∧ bestSource live .host = none ∧
    reaches .hostS .irq (claimAddr .host) (put 63 0) live = true ∧ reaches .hostS .irq 0x40060050 1 live = true ∧
    reaches .groom .irq 0x40060050 2 live = true ∧
    { live.irq with claimed := live.irq.claimed.set 63 (some .host) }.claimed[63] = some .host := by decide

theorem test_hyp_UnclaimedCompletion : reaches .groom .irq (claimAddr .groom) (put 1 0) live = true ∧ live.irq.claimed[1] ≠ some .groom := by decide

theorem test_hyp_RouteCommands :
    let s := { live with trg := { live.trg with route := live.trg.route.set 31 (0x80000000 ||| put 0x3F 0) } }
    reaches .hostS .irq 0x40060300 1 live = true ∧ reaches .hostS .irq 0x40060308 0x80000000 live = true ∧
    reaches .hostS .irq 0x40060304 ((1#8 <<< 7).setWidth 32) s = true ∧ unusable s 5 = false ∧
    (∀ r : Fin 32, routeHits live 0x3F r = false) ∧ (idx 32).filter (routeHits s 0x3F) = [31] := by decide

theorem test_hyp_DroppedActions :
    let route := live.trg.route.set 31 (0x80000000 ||| put 3 16 ||| put 3 14 ||| put 0x3F 0)
    let s := { live with trg := { live.trg with route := route } }
    reaches .hostS .irq 0x40060304 ((1#8 <<< 7).setWidth 32) s = true ∧ unusable s 5 = false ∧
    (idx 32).filter (routeHits s 0x3F) = [31] ∧ fld s.trg.route[31] 17 16 = 3 ∧ bit s.trg.route[31] 14 = true ∧
    bit s.trg.route[31] 15 = true ∧ s.trx.arm[3].armed = false ∧ s.zlk.state ≠ .follower ∧ s.zlk.state ≠ .leader := by decide

/-- The same route with only one of its two actions, and a slot that is armed but in flight. -/
theorem test_hyp_DroppedActions_single :
    let route := (live.trg.route.set 31 (0x80000000 ||| put 1 14 ||| put 0x3F 0)).set 30 (0x80000000 ||| put 1 15 ||| put 0x38 0)
    let s := { live with trg := { live.trg with route := route }
                         trx := { live.trx with arm := upd live.trx.arm 0 (fun a => { a with armed := true, inflight := true }) } }
    reaches .hostS .irq 0x40060304 ((1#8 <<< 7).setWidth 32) s = true ∧ reaches .hostS .irq 0x40060304 ((1#8 <<< 0).setWidth 32) s = true ∧
    (idx 32).filter (routeHits s 0x3F) = [31] ∧ (idx 32).filter (routeHits s 0x38) = [30] ∧
    bit s.trg.route[31] 14 = true ∧ bit s.trg.route[31] 15 = false ∧ s.trx.arm[0].armed = true ∧ s.trx.arm[0].inflight = true ∧
    bit s.trg.route[30] 14 = false ∧ bit s.trg.route[30] 15 = true := by decide

theorem test_hyp_AccessTableCommands :
    let s := { live with act := { live.act with gate := upd live.act.gate 24 (fun q => { q with locked := true }) } }
    actWriter .hostS = true ∧ reaches .hostS .act 0x40010004 0x80000000 live = true ∧
    reaches .hostS .act 0x40010004 (put 1 30 ||| (BitVec.ofNat 5 24).setWidth 32) live = true ∧
    reaches .hostS .act (0x40010000 + (0x80 + 24 * 0x80 + 0x6C)) 0x80000000 s = true ∧ reaches .hostS .act 0x40010010 0x80000000 live = true ∧
    s.act.gate[24].locked = true ∧ stalled s .hostS = false ∧
    verdict s .hostS (some .act) (0x40010080 + 24 * 0x80 + 4 * 25) .write = .go .act := by decide

theorem test_hyp_PaddockCommands : pdkUnusable liveStall 7 = false ∧ underTest liveStall 39 = false ∧
    reaches .hostS .cfg 0x40040000 (putB true 8 ||| put 7 4 ||| 1) liveStall = true ∧ liveStall.cfg.pdk[7].state = .live ∧
    reaches .hostS .cfg 0x40040000 (put 7 4 ||| 3) (onPdk 7 (fun q => { q with state := .verified }) live) = true ∧
    (onPdk 7 (fun q => { q with empty := false }) live).cfg.pdk[7].state = .parked ∧
    reaches .hostS .cfg 0x40040000 (put 7 4 ||| 4) (onPdk 7 (fun q => { q with state := .loading }) live) = true := by decide

/-- A load of paddock 7 at a stage. -/
def aLoad (base : Bool) (st : LoadStage) : LoadRun := { base := base, pdk := 7, src := 0x080D0000, baseId := 0, ver := 0, sects := [], stage := st }
/-- A device with that load. -/
def loading (base : Bool) (st : LoadStage) : State := { live with cfg := { live.cfg with load := some (aLoad base st) } }

theorem test_hyp_LoadCommands : pdkUnusable live 7 = false ∧ underTest live 39 = false ∧ live.cfg.load = none ∧ live.cfg.pdk[7].state = .parked ∧
    reaches .hostS .cfg 0x40040000 (put 7 4 ||| 2) live = true ∧ live.cfg.baseUsed = false ∧ reaches .hostS .cfg 0x40040000 5 live = true ∧
    (let s := { loading true (.waitSwv 0 0) with boot := { live.boot with bootRom := true } }
     s.cfg.load = some (aLoad true (.waitSwv 0 0)) ∧ s.boot.bootRom = true ∧ reaches .hostS .cfg 0x40040000 (putB true 8 ||| 6) s = true) := by decide

theorem test_hyp_LoadEvents : yardIdle (loading true (.atStep10 0 0)) ∧ yardIdle (loading false (.checked 0x50 4)) ∧
    ((loading true (.atStep10 0 0)).cfg.load = some (aLoad true (.atStep10 0 0)) ∧
    (loading false (.checked 0x50 4)).cfg.load = some (aLoad false (.checked 0x50 4)) ∧ booting (loading true (.checked 0x21 0)) = false ∧
    booting { loading true (.checked 3 0) with boot := { live.boot with bootRom := true, released := false }, bist := { live.bist with tmap := 8 } } = true) := by
  unfold yardIdle; decide

/-- At a tick boundary. -/
def ticking (s : State) : State := { s with lpe := { s.lpe with tickDue := tickLen } }

theorem test_hyp_ParkingEvents :
    (let s := ticking (onPdk 7 (fun q => { q with state := .parking }) liveStall)
     s.cfg.pdk[7].begun = false ∧ tickNow s = true) ∧
    (let f (t : Stall → Stall) := onStall 31 t (onPdk 7 (fun q => { q with state := .parking, begun := true }) liveStall)
     pdkOf 31 = 7 ∧ (f id).cfg.pdk[7].begun = true ∧ (f id).stl[31].frozen = false ∧ dueNow (f (fun t => { t with due := some 0 })) 31 = true ∧
     dueNow (f id) 31 = false ∧ (f (fun t => { t with updT := some 0 })).stl[31].updT = some live.time ∧ (f (fun t => { t with run := false })).stl[31].run = false) ∧
    (let s := onPdk 7 (fun q => { q with state := .parked, hold := true, holdRun := true, heldCyc := 76800000 }) live
     s.cfg.pdk[7].state ≠ .live ∧ min (max s.cfg.holdLim 1) 500 * 153600 ≤ s.cfg.pdk[7].heldCyc) ∧
    (let s := ticking (onPdk 0 (fun q => { q with state := .unparking }) live)
     s.cfg.pdk[0].begun = false ∧ lanesReady s 0 = true ∧ lpeOn s = true ∧ tickNow s = true ∧ s.stl[0].active = false) := by decide

/-- Lane 15 converts. -/
def converting : State := { live with sns := { live.sns with ctrl := 0x1F, adlEn := 0x8000, adl := upd live.sns.adl 15 (fun a => { a with rdy := true }) } }

theorem test_hyp_CurrentConversions : laneOn converting (laneOf 31) = true ∧ averaged converting 31 = false ∧ bit converting.sns.ctrl 0 = true ∧
    (480 : Nat) % 512 = 32 * 15 ∧ averaged converting (slotStall 15 (converting.sns.adl[15].seq % 2 = 1)) = false := by decide

theorem test_hyp_SlowConversions : snsOn converting = true ∧ converting.sns.adlEn.getLsbD 15 = true ∧ unusable converting 39 = false ∧
    (upd converting.sns.adl 15 (fun a => { a with calRun := true }))[15].calRun = true ∧ unusable converting 44 = false ∧
    unusable converting 46 = false ∧ bit converting.sns.ctrl 3 = true ∧ bit converting.sns.ctrl 4 = true ∧ converting.pwr.tadj = false ∧ converting.sns.day[1].due = 0 ∧
    { converting.sns with auxIn := some 7 }.auxIn = some 7 := by decide

theorem test_hyp_SensingCommands : reaches .hostS .sns 0x40140004 0xFFFF live = true ∧ reaches .hostS .sns (0x40140100 + 15 * 0x10) 0x33 live = true ∧
    pdkBusy live 7 = false ∧ pdkBusy liveStall (lanePdk 15) = true ∧ reaches .hostS .sns (0x40140100 + 15 * 0x10) 0x33 liveStall = true ∧
    reaches .hostS .sns 0x40140400 0x3FF converting = true ∧ converting.sns.auxIn = none ∧
    reaches .hostS .sns (0x40140500 + 1 * 0x20) (withBit 0 0 true) converting = true ∧ bit converting.sns.ctrl 2 = true ∧
    bit converting.sns.pir[1].cfg 0 = false := by decide

/-- PIR channel 1 runs. -/
def seeing (f : Pir → Pir) : State := { converting with sns := { converting.sns with pir := upd converting.sns.pir 1 (fun q => f { q with cfg := q.cfg ||| 1 }) } }

theorem test_hyp_PirAndReference : snsOn converting = true ∧ converting.pwr.state ≠ .slumber ∧ pirOn (seeing id) 1 = true ∧
    pirOn (seeing (fun q => { q with settle := true, sat := true, det := true })) 1 = true ∧ (seeing id).sns.pir[1].settle = false ∧ (seeing id).sns.pir[1].sat = false ∧
    (let s := seeing (fun q => { q with det := true, quiet := 1 })
     s.sns.pir[1].det = true ∧ max (fld s.sns.pir[1].cfg 23 16 * 1000) 1 ≤ s.sns.pir[1].quiet) ∧
    (let s := seeing (fun q => { q with cfg := put 1 24, settle := true, setl := 1000 })
     s.sns.pir[1].settle = true ∧ fld s.sns.pir[1].cfg 29 24 * 1000 ≤ s.sns.pir[1].setl) ∧
    (let s := seeing (fun q => { q with low := true, thr := 8 })
     s.sns.pir[1].low = true ∧ s24 s.sns.pir[1].thr < (9 : Int).natAbs ∧ ¬ s24 s.sns.pir[1].thr < (8 : Int).natAbs) := by decide

theorem test_hyp_SamplingAndComputing : lpeOn liveStall = true ∧ liveStall.lpe.tickDue = 0 ∧ (ticking liveStall).lpe.tickDue ≠ 0 ∧ stallOn liveStall 31 = true ∧
    pdkState liveStall (pdkOf 31) = .live ∧ sampleNow liveStall 31 = true ∧ liveStall.stl[31].due = none ∧ inSchedule liveStall 31 = true ∧
    sampleNow (onStall 31 (fun t => { t with sampled := true }) liveStall) 31 = false ∧
    after (.stallSample 31) liveStall (fun t => t.stl[31].samp.isSome && stallOn t 31 && nextSample t 31) = true := by decide

/-- The result that a sample of the running stall gives. -/
def computed : State := match step (liveStall.push (.stallSample 31)) with
  | .next t => (match step (t.push (.stallCompute 31)) with | .next u => u | _ => t)
  | _ => liveStall

theorem test_hyp_StallUpdates :
    let due (f : Stall → Stall) (s : State) := onStall 31 (fun t => f { t with due := some 0 }) s
    stallOn liveStall 31 = true ∧ pdkState liveStall (pdkOf 31) = .live ∧ liveStall.stl[31].run = true ∧ liveStall.stl[31].pendC = none ∧
    dueNow liveStall 31 = false ∧ dueNow (due id liveStall) 31 = true ∧ (due id liveStall).stl[31].en = true ∧ (due id liveStall).stl[31].leaving = false ∧
    ((due id computed).stl[31].result.map (·.cause)) = some none ∧ (due id computed).stl[31].run = true ∧ dueNow (due id computed) 31 = true ∧
    (due id liveStall).stl[31].result = none ∧ satInc liveStall.stl[31].missRun 255 < liveStall.stl[31].missLimit ∧
    (let s := due (fun t => { t with missRun := 254, missLimit := 255 }) liveStall
     s.stl[31].missLimit ≤ satInc s.stl[31].missRun 255 ∧ s.stl[31].causes = 0) ∧
    (due (fun t => { t with en := false }) liveStall).stl[31].run = true ∧ (due (fun t => { t with leaving := true }) liveStall).stl[31].leaving = true := by decide

theorem test_hyp_StallCommands : pdkOpen .hostS liveStall (pdkOf 31) ∧
    (reaches .hostS (.stall 31) (stallAddr 31 0x10) 1 liveStall = true ∧ reaches .hostS (.stall 31) (stallAddr 31 0) (withBit 0 31 true) live = true ∧
    live.stl[31].en = false ∧ live.stl[31].active = false ∧ (onStall 31 (fun t => { t with active := true }) live).stl[31].active = true ∧
    reaches .hostS (.stall 31) (stallAddr 31 0) (withBit 0 31 false) liveStall = true ∧
    (liveStall.stl[31].naEn = bit 0 1 ∧ liveStall.stl[31].nbEn = bit 0 2) ∧
    reaches .hostS (.stall 31) (stallAddr 31 0x0C) (withBit 0x00010000 31 true) liveStall = true ∧ fld 0x00010000 23 16 ≠ 0 ∧
    reaches .hostS (.stall 31) (stallAddr 31 (0x128 + 3 * 0x40)) (withBit 0 29 true) liveStall = true) := by
  unfold pdkOpen; decide

theorem test_hyp_LoopBlockCommands :
    let s := onStall 31 (fun t => { t with lane := upd t.lane 0 (fun l => { l with ctrl := 0xC0000000, tab := 0x01000000 }) }) liveStall
    reaches .hostS .lpe 0x40100024 0xFFFFFFFF live = true ∧ reaches .hostS .lpe 0x40100034 1 live = true ∧ (tabPtr live.lpe).2 < 33 ∧
    tabClosed live (tabPtr live.lpe).1 = [] ∧ readReaches .hostS .lpe 0x40100034 live = true ∧ reaches .hostS .lpe 0x40100008 0x80000000 live = true ∧
    tabClosed s (7 * 64 + 1) = [31] := by decide

theorem test_hyp_OutputEvents :
    let s := onStall 31 (fun t => { t with out := put 1 30, gate := true }) (onPdk 7 (fun q => { q with lived := true }) liveStall)
    fld (outOf s.stl[31]) 31 30 = 1 ∧ drives s 31 = true ∧ domReady s .yard = true ∧ (periodBase s s.stl[31]).isSome = true ∧ s.stl[31].periodAt = none ∧
    bit (outOf s.stl[31]) 29 = false ∧ s.stl[31].gate = true ∧
    drives (onStall 31 (fun t => { t with out := put 2 30 }) s) 31 = true ∧
    (let range : Int := if slotRange s.sns.adl[laneOf 31] true then 100000 else 25000
     ((fld (protOf s.stl[31]) 29 24 : Nat) + 1) * range < 32 * 100001 * 64 ∧ 32 * 0 ≤ ((fld (protOf s.stl[31]) 29 24 : Nat) + 1) * range) ∧
    (let u := { s with time := 1000 }
     6144 * (fld (protOf u.stl[31]) 19 16 + 1) ≤ 1000 * (u.time - u.stl[31].rise)) ∧
    1000 * (s.time - s.stl[31].rise) < 6144 * (fld (protOf s.stl[31]) 19 16 + 1) ∧
    (let u := ticking (onStall 31 (fun t => { t with en := false, active := true, retryPend := true }) liveStall)
     u.stl[31].retryPend = true ∧ u.stl[31].waitCyc = 0 ∧ pdkState u (pdkOf 31) = .live ∧ stallOn u 31 = true ∧ tickNow u = true ∧ u.stl[31].due = none) ∧
    s.stl[31].en = true ∧ s.stl[31].active = false ∧ 10000 * 153600 ≤ (onStall 31 (fun t => { t with runCyc := 1536000000 }) s).stl[31].runCyc := by decide

theorem test_hyp_GuardCommands : pdkOpen .groom liveStall (pdkOf 31) ∧
    (reaches .groom (.stall 31) (stallAddr 31 0xD0) (withBit 0x1FE 30 true) liveStall = true ∧
    reaches .groom (.stall 31) (stallAddr 31 0xF8) 0x80000000 liveStall = true) := by
  unfold pdkOpen; decide

theorem test_hyp_EchoCommands :
    let s := { live with echo := upd live.echo 3 (fun e => { e with ctrl := 0x80000000 }) }
    reaches .hostS .echo (0x4010A000 + 3 * 0x40) (withBit 0 31 true) s = true ∧ bit live.echo[3].ctrl 31 = false ∧ bit s.echo[3].ctrl 31 = true ∧
    reaches .hostS .echo (0x4010A000 + 3 * 0x40) (withBit 0 31 false) s = true ∧ unusable s 41 = false ∧
    ({ s.echo[3] with done := true } : Echo).done = true := by decide

theorem test_hyp_GalleryCommands :
    let s := { liveStall with gal := { live.gal with ctrl := 0x80000101, triggered := true }, lpe := { live.lpe with tick := 300 } }
    reaches .hostS .gal 0x40110000 (withBit 8 31 true) live = true ∧ bit live.gal.ctrl 31 = false ∧ 1 ≤ fld (8 : W32) 3 0 ∧ fld (8 : W32) 3 0 ≤ 8 ∧
    reaches .hostS .gal 0x4011000C 1 live = true ∧ reaches .hostS .gal 0x4011000C 2 live = true ∧
    lpeOn s = true ∧ bit s.gal.ctrl 31 = true ∧ unusable s 42 = false ∧ s.gal.left ≠ some 0 ∧ recordTick s = some 300 ∧ s.gal.recAt ≠ some 300 ∧
    s.gal.skip < fld s.gal.ctrl 15 8 ∧ fld ({ s.gal with skip := 1 } : Gal).ctrl 15 8 ≤ 1 ∧ ({ s.gal with left := some 0 } : Gal).left = some 0 := by decide

/-- A radio that is on, under a profile of one sub-band of MODE 3 over the whole range, the RFPLL locked. -/
def onAirRules : State :=
  { live with
    rgy := { live.rgy with
      empty := false
      prof := [1, 0, 1, 0, 0, 0, 0, 0, 0, 0, 0, 0, 0, 0, 0, 0] ++ leBytes 4 779000000 ++ leBytes 4 960000000 ++ [3, 0, 0, 0] ++ List.replicate 20 0 }
    trx := { live.trx with ctrl := 0x8C000000 ||| put 3 29 }
    clk := { live.clk with carrier := carrierOf live.trx 0, rfPower := true, rf := { live.clk.rf with st := .locked } } }

theorem test_hyp_RadioCommands : reaches .hostS .trx 0x40200074 63 live = true ∧
    reaches .hostS .trx (0x40200000 + (0x094 + 8 * 3)) (0x80000000 ||| 0x20000000) live = true ∧ domReady live .radio = true ∧ unusable live 47 = false ∧
    underTest live 47 = false ∧ live.trx.arm[3].inflight = false ∧
    reaches .hostS .trx (0x40200000 + (0x800 + 0x20 * 63)) 0x8000FFFF live = true ∧ reaches .hostS .trx 0x4020011C 1 live = true ∧
    readReaches .hostU .trx 0x402000C0 live = true ∧ readReaches .hostU .trx 0x402000C8 live = true ∧ reaches .hostS .rgy 0x40210018 1 live = true ∧
    (let s := { live with pwr := { live.pwr with ltime := 0xFFFFFFFF } }
     bucketLen s.rgy (.sub 7) ≤ (s.pwr.ltime - s.rgy.subAt[7]).toNat ∧ bucketLen s.rgy (.hop 127) ≤ (s.pwr.ltime - s.rgy.hopAt[127]).toNat) ∧
    (live.pwr.ltime - bucketAt live.rgy (.sub 0)).toNat < bucketLen { onAirRules.rgy with prof := onAirRules.rgy.prof.set 28 1 } (.sub 0) := by
  decide

theorem test_hyp_RadioFlush : reaches .hostS .trx 0x4020007C 1 live = true ∧ live.trx.tx = none := by decide

/-- An attempt at a stage, of a NATIVE frame of 16 octets from SRAM. -/
def attempt (st : TxStage) (w1 : W32) : TxRun :=
  { src := .queue, addr := 0x20000100, w := #v[0x20000200, w1, 0, 0, 0, 0, 0, 0], buf := List.replicate 16 0, stage := st, tries := 8, busies := 0, wait := 0
    carrier := carrierOf live.trx 0, chan := 0, resv := none, preExt := 0, start := 0, key := none, sfd := none, sent := 0 }
/-- A radio with that attempt in hand. -/
def attempting (st : TxStage) (w1 : W32) : State := { onAirRules with trx := { onAirRules.trx with tx := some (attempt st w1) } }

theorem test_hyp_TransmitStages : (attempting .assess 0x80000010).trx.tx = some (attempt .assess 0x80000010) ∧
    (let s := { attempting .assess 0x80000010 with trx := { (attempting .assess 0x80000010).trx with time := 400 * 154 } }
     usCyc (ccaUs s.trx) ≤ sinceT s.trx 0 ∧ s.trx.ackDue = none ∧ fld s.trx.lbt 31 30 < 3 ∧ 0 < fld s.trx.lbt 5 3 ∧ fld s.trx.lbt 5 3 ≤ 7 ∧
     2 * (BitVec.ofNat 8 (fld s.trx.lbt 19 12)).toInt < (BitVec.ofNat 8 127).toInt ∧ s.clk.rf.st = .locked) ∧
    txBit (attempt .assess 0x80000010).w 27 = false ∧
    (let s := attempting .timed 0x80000010
     untilT s.trx (attempt .timed 0x80000010).start ≤ 0 ∧ s.clk.rf.st = .locked ∧ s.trx.rxOn = false ∧ txBit (attempt .timed 0x80000010).w 29 = false) ∧
    (let s := attempting .backoff 0xA0000010
     let x := attempt .backoff 0xA0000010
     usCyc x.wait ≤ sinceT s.trx x.since ∧ s.trx.ackDue = none ∧ radioOn s = true ∧ unusable s 49 = false ∧ unusable s 48 = false ∧
     (tune x.carrier s.clk).rf.st = .locked ∧ txTimed x.w = false ∧ txBit x.w 29 = true ∧
     (match admissionTest s false x.carrier (airUs s.trx (frameOctets s.trx (txSun x.w) (x.preExt + if txBit x.w 27 && txBit x.w 26 then octetsFor s.trx 256 else 0)
       (txDone x.w))) with | .ok _ => true | .error _ => false) = true) ∧
    (let s := attempting .ready 0xA0000010
     s.yard.waiting = [] ∧ s.yard.port = [] ∧ s.yard.eng = {} ∧ s.cry.ret = [] ∧ radioOn s = true ∧ s.trx.ackDue = none ∧ s.trx.rxOn = false ∧
     s.pwr.state ≠ .slumber ∧ s.clk.rf.st = .locked) ∧
    (attempt .onAir 0x90000010).sealing = none ∧ txBit (attempt .onAir 0x90000010).w 28 = true := by decide

/-- A device with a queued descriptor that the hardware cannot carry out: it asks for a SCENE seal of a frame that has none. -/
def invalid : State :=
  { onAirRules with
    trx := { onAirRules.trx with ctrl := 0x8C000000, txqBase := 0x20000100, txqProd := 1 }
    mem := live.mem.writeN 0x20000100 (leBytes 4 0x20000200 ++ leBytes 4 0x88000010) }

theorem test_hyp_TransmitEnds : (attempting .awaitAck 0x80000010).trx.tx = some (attempt .awaitAck 0x80000010) ∧
    txRetries (attempt .awaitAck 0x80000010).w < 8 ∧ 0 ≤ txRetries (attempt .awaitAck 0x80000010).w ∧
    usCyc (fld ({ onAirRules.trx with ack := 100 } : Trx).ack 15 0) ≤ sinceT { onAirRules.trx with ack := 100, time := 15360 } 0 ∧
    ({ onAirRules.trx with ackDue := some { sun := true, white := false, psdu := [], desc := none } } : Trx).ackDue.isSome = true ∧
    invalid.yard.waiting = [] ∧ invalid.yard.port = [] ∧ invalid.yard.eng = {} ∧ invalid.cry.ret = [] ∧
    invalid.trx.tx = none ∧ radioOn invalid = true ∧ invalid.trx.ackDue = none ∧ invalid.trx.rxOn = false ∧ invalid.pwr.state ≠ .slumber ∧
    trxEn invalid = true ∧ unusable invalid 49 = false ∧ nextDesc invalid.trx = some (.queue, 0x20000100) ∧
    (dmaRead .trxDma 0x20000100 32 invalid).1.1 = .okay ∧ invalid.pwr.tadj = false ∧ unusable invalid 50 = false ∧
    (let w := descWords (dmaRead .trxDma 0x20000100 32 invalid).1.2
     (dmaRead .trxDma (w[0]).toNat (txLen w) (dmaRead .trxDma 0x20000100 32 invalid).2).1.1 = .okay ∧
     txValid invalid.trx w (dmaRead .trxDma (w[0]).toNat (txLen w) (dmaRead .trxDma 0x20000100 32 invalid).2).1.2 = false) := by
  decide

/-- A SUNFSK frame of five octets: a data frame without addresses, and the FCS of its body. -/
def sunFrame (body fcs : List Byte) : RxAir :=
  { sun := true, sync := syncOf onAirRules.trx true, phr := 0x1005, psdu := body ++ fcs, sfd := 7, rssi := 0xC0, fofs := 0, sniffed := false }
/-- It, with a good FCS. -/
def goodFrame (body : List Byte) : RxAir := sunFrame body (fcsOf true (rxLong (sunFrame body [0, 0])) body)

theorem test_hyp_Reception : rxListens true (goodFrame [1, 0, 5]).sync onAirRules = true ∧ onAirRules.yard.waiting = [] ∧ onAirRules.yard.port = [] ∧
    onAirRules.yard.eng = {} ∧ onAirRules.pwr.state ≠ .slumber ∧ rxPhrOk (goodFrame [1, 0, 5]) = true ∧
    ((goodFrame [1, 0, 5]).phr.getLsbD 15) = false ∧ rxFcsOk (goodFrame [1, 0, 5]) = true ∧ rxFcsOk (sunFrame [1, 0, 5] [0, 0]) = false ∧
    bit onAirRules.trx.ctrl 25 = false ∧ rxIsAck onAirRules (goodFrame [1, 0, 5]) = false ∧
    rxPasses onAirRules.trx true (goodFrame [1, 0, 5]) = true ∧ rxPasses onAirRules.trx false (goodFrame [1, 0, 5]) = false ∧
    rxWantsAck onAirRules.trx (goodFrame [1, 0, 5]) = false ∧
    (rxDesc { onAirRules with trx := { onAirRules.trx with rxrBase := 0x20000000 } }).1 = none ∧
    (let s := { onAirRules with mem := live.mem.writeN 0x20000000 (leBytes 4 0x20001000 ++ leBytes 4 0x80000800), trx := { onAirRules.trx with rxrBase := 0x20000000, ctrl := 0xFC000000 } }
     (rxDesc s).1 = some (0x20000000, 0x20001000, 0x80000800) ∧ rxListens true (goodFrame [1, 0, 5]).sync s = true ∧
     rxPasses s.trx (bit s.trx.ctrl 28) (goodFrame [1, 0, 5]) = true ∧ answered (.rxFrame (goodFrame [1, 0, 5])) s = true) := by decide +kernel

/-- A secured frame of partner 5, payload of two octets, sealed at LEVEL 2 under the key of slot 31. -/
def secured : List Byte := sealFrame (List.replicate 16 7) 9 [0x0A, 0, 1, 0, 2, 0, 5, 0, 0, 0, 0, 0, 0x02, 1, 2]
/-- The key slot that verifies it. -/
def expressKey : KeySlot := { pol := 0x01FF0F00, valid := true, key := List.replicate 16 7 }
/-- A radio whose matcher works on that frame for slot 7, with the partner known. -/
def matching (known : Bool) : State :=
  { onAirRules with
    cry := { live.cry with ks := live.cry.ks.set 31 expressKey }
    trx := { onAirRules.trx with
      matching := [{ slot := 7, frame := goodFrame [1, 0, 5], psdu := secured, check := .good [1, 2] }]
      ptCfg := 0
      matcher := upd onAirRules.trx.matcher 7 (fun x => { x with ctrl := put 31 16 })
      pt := if known then upd onAirRules.trx.pt 63 (fun e => { e with valid := true, addr := 5 }) else onAirRules.trx.pt } }

theorem test_hyp_SniffAndMatcher :
    (let s := { onAirRules with trx := { onAirRules.trx with ctrl := 0xAC000000 } }
     sniffDue s = true ∧ radioOn s = true ∧ trxEn s = true ∧ bit s.trx.ctrl 29 = true ∧ bit s.trx.ctrl 30 = false ∧ s.trx.rxOn = false ∧ s.trx.ackDue = none ∧
     s.trx.tx = none ∧ s.trx.sniffing = false ∧ s.pwr.state ≠ .slumber ∧ trxState s = 0 ∧ carrierOk (carrierOf s.trx (fld s.trx.chan 15 0)) = true ∧
     sniffIn { s with trx := { s.trx with time := 15360000 - 15360 } } ≤ usCyc 100) ∧
    (matching true).cry.ret = [] ∧ ((matching true).trx.matching.map (·.check)) = [.good [1, 2]] ∧ unusable (matching true) 50 = false ∧
    ptFind (matching false).trx (BitVec.ofNat 16 (natSrc secured)) = none ∧ ptFind (matching true).trx (BitVec.ofNat 16 (natSrc secured)) = some 63 ∧
    natFcnt secured = 9 ∧ (matching true).trx.pt[63].fcnt.toNat < natFcnt secured ∧ bit (matching true).trx.ptCfg 6 = false ∧
    (let k : AckRun := { sun := true, white := false, psdu := List.replicate 7 0, desc := none }
     let s := { onAirRules with trx := { onAirRules.trx with ackDue := some k, time := 153600 } }
     s.trx.ackDue = some k ∧ radioOn s = true ∧ ackAfter s.trx k ≤ sinceT s.trx k.since ∧ s.clk.rf.st = .locked ∧ unusable s 49 = false ∧
     (match admissionTest (updTrx s (fun t => { t with ackDue := none, rxOn := false })) true (carrierOf s.trx (fld s.trx.chan 15 0))
       (airUs s.trx (frameOctets s.trx true 0 7)) with | .ok _ => true | .error _ => false) = true) := by decide +kernel

/-- The cipher engine with a ring of class 3 of two entries in SRAM, and one descriptor, a SHA-256 of four octets. -/
def engine : State :=
  { live with
    mem := live.mem.writeN 0x20000000 (leBytes 4 0x08000000 ++ leBytes 4 0x20000100 ++ leBytes 4 0x20000200 ++ leBytes 4 4 ++ List.replicate 16 0)
    cry := { live.cry with ring := upd live.cry.ring 3 (fun r => { r with base := 0x20000000, size := 1, prod := 1, writer := [.hostU] }) } }
/-- The job of that descriptor. -/
def hashJob : Job :=
  { tag := 0, cls := 3, seq := 0, w := descWords (engine.mem.readN 0x20000000 32), user := .mid .hostU, aged := false, accept := 0, key := [], headT := some 0 }
/-- The engine with that job waiting, and with it in the hash core. -/
def queueing : State := { engine with cry := { engine.cry with jobs := [hashJob], age := 1 } }
/-- See `queueing`. -/
def hashing : State := { engine with cry := { engine.cry with unit := upd engine.cry.unit 4 (fun u => { u with run := some hashJob }) } }

theorem test_hyp_EngineCommands :
    let t := { live with cry := { live.cry with unit := upd live.cry.unit 4 (fun u => { u with st := .testing }) } }
    reaches .hostU .cry (0x40300000 + (0x028 + 0x10 * 3)) 1 engine = true ∧
    engine.cry.ring[3].writer.length ≤ ringAvail engine.cry.ring[3].size (fld 1 8 0) engine.cry.ring[3].cons ∧
    reaches .hostS .cry (0x40300000 + 0x07C) 0 live = true ∧ reaches .hostS .cry (0x40300000 + 0x060) (put 15 0) live = true ∧
    underTest live 55 = false ∧ reaches .hostS .cry (0x40300000 + (0x080 + 4 * 4)) 0x80000000 live = true ∧ live.cry.unit[4].st = .inSvc ∧
    reaches .hostS .cry (0x40300000 + (0x080 + 4 * 4)) 0x40000000 live = true ∧ t.cry.unit[4].st = .testing ∧
    (upd live.cry.unit 4 (fun u => { u with st := .failed }))[4].st = .failed ∧ reaches .hostS .cry (0x40300000 + 0x0A8) 1 live = true := by decide

theorem test_hyp_KeysAndVerify : reaches .hostU .cry (0x40300000 + 0x104) 0 live = true ∧ reaches .hostU .cry (0x40300000 + 0x108) 1 live = true ∧
    reaches .hostU .cry (0x40300000 + 0x108) 2 live = true ∧
    (let s := { live with cry := { live.cry with ksSel := 31, ks := live.cry.ks.set 31 { pol := 0x01000000 } } }
     s.cry.ksSel = (31 : Fin 32).val ∧ bit s.cry.ks[31].pol 31 = false ∧ s.cry.ks[31].valid = false ∧ reaches .hostS .cry (0x40300000 + 0x104) 1 s = true ∧
     keyLen (fld s.cry.ks[31].pol 26 24) ≠ 0 ∧ reaches .hostS .cry (0x40300000 + 0x108) 1 s = true ∧ reaches .hostS .cry (0x40300000 + 0x108) 2 s = true) ∧
    reaches .hostS .pkv 0x40310000 1 live = true ∧ pkvHeld live.pkv = false ∧ live.pkv.owner = .none ∧
    pkvHeld { live.pkv with owner := .firmware } = true ∧ pkvHeld { live.pkv with owner := .cfg } = false ∧ live.cfg.load = none := by decide

theorem test_hyp_JobStart : yardIdle engine ∧ (nextTag engine.cry = some 0 ∧ cryOn engine = true ∧ engine.cry.ring[3].size ≠ 0 ∧
    ringAvail engine.cry.ring[3].size engine.cry.ring[3].prod engine.cry.ring[3].cons ≠ 0 ∧
    (dmaRead .cryDma (engine.cry.ring[3].base.toNat + 32 * (engine.cry.ring[3].cons % 2 ^ engine.cry.ring[3].size)) 32 (fence engine)).1.1 = .okay ∧
    jobCheck 3 hashJob.w = 0 ∧ jobCheck 3 (.replicate 8 0) ≠ 0 ∧ queueing.cry.ret = [] ∧ cryOn queueing = true ∧
    noUnit queueing.cry (isHx 4) = false ∧ queueing.cry.unit[4].st = .inSvc ∧ queueing.cry.stall = false ∧ queueing.cry.unit[4].run = none ∧
    queueing.cry.unit[4].susp = none ∧ firstFree queueing.time queueing.cry 4 = true ∧ bestJob queueing.cry (isHx 4) = some hashJob ∧
    slotCheck queueing.cry hashJob.user hashJob.w = 0 ∧ slotCheck queueing.cry hashJob.user (hashJob.w.set 0 0x04000000) ≠ 0 ∧ hashJob.user ≠ .trx ∧
    queueing.cry.age ≠ 0 ∧ hashJob ∈ queueing.cry.jobs ∧ 2 ≤ hashJob.cls.val ∧ hashJob.headT = some 0 ∧
    queueing.cry.age * 12288 < 5 * (({ queueing with time := 2458 } : State).time - 0)) := by
  unfold yardIdle; decide

theorem test_hyp_JobFinish : yardIdle hashing ∧ (hashing.cry.ret = [] ∧ hashing.cry.unit[4].run = some hashJob ∧ hashing.cry.unit[4].susp = none ∧
    hashing.cry.unit[4].st = .inSvc ∧ hashJob.user ≠ .trx ∧ (jobInputs hashJob.w hashing).1 = { iv := [], aad := [], src := [0, 0, 0, 0], tag := [], ok := true } ∧
    answered (.jobEnd 4) hashing = true ∧
    (let x : Cpl := { status := 0, tag := 0, seq := 0, cls := 3, unit := 4, cookie := 0, outLen := 32, accept := 0 }
     let s := { live with cry := { live.cry with done := [x], cplBase := 0x20000000, cplSize := 1 } }
     s.cry.done = x :: [] ∧ cryOn s = true ∧ cplFull s.cry = false ∧ answered .completionPost s = true ∧
     (dmaWrite .cryDma 0x20000000 (cplBytes s x) s).1.1 = .okay ∧ (dmaWrite .cryDma 0x40000000 (cplBytes s x) s).1.1 ≠ .okay)) := by
  unfold yardIdle; decide +kernel

/-- A Troax link in a state, at address 3 with PUB_EN. -/
def linked (st : ZlkState) (f : Zlk → Zlk) : State := { live with zlk := f { live.zlk with ctrl := 0xF0030250, state := st, pmap := 0x28, vmap := 0x28 } }

theorem test_hyp_TroaxCommands : reaches .hostS .zlk 0x40400000 (0x30030250 ||| 0x80000000) live = true ∧ bit live.zlk.ctrl 31 = false ∧
    reaches .hostS .zlk 0x40400000 (0xF0030250 &&& 0x7FFFFFFF) (linked .follower id) = true ∧ bit (linked .follower id).zlk.ctrl 31 = true ∧
    (((0xF0030250 &&& 0x7FFFFFFF) &&& 0xF01F0F70) ^^^ (linked .follower id).zlk.ctrl) &&& 0x301F0000 = 0 ∧
    (((0xF0040250 ||| 0x80000000) &&& 0xF01F0F70) ^^^ (linked .follower id).zlk.ctrl) &&& 0x301F0000 ≠ 0 ∧
    reaches .hostS .zlk (0x40400000 + 0x01C) (0 ||| 0x80000000) live = true ∧ zlkJoined (linked .leader id) = true ∧ zlkJoined live = false ∧
    reaches .hostS .zlk (0x40400000 + 0x0C4) 15 live = true ∧ reaches .hostS .zlk (0x40400000 + 0x0CC) 1 live = true ∧
    reaches .hostS .zlk (0x40400000 + 0x0EC) 1 live = true ∧ readReaches .hostS .zlk 0x40400028 live = true := by decide

theorem test_hyp_TroaxZone : zlkOn (linked .listen id) = true ∧ bit (linked .listen id).zlk.ctrl 28 = true ∧ (linked .listen id).zlk.barred = false ∧
    zlkJoined (linked .joining id) = false ∧ zlkOn (linked .joining id) = true ∧ (linked .joining id).zlk.joinOut = false ∧ (linked .joining id).zlk.joinWait = 0 ∧
    zlkJoined (linked .leader id) = true ∧ lowestOf (linked .leader id).zlk.pmap = some (zlkAddr (linked .leader id).zlk) ∧
    lowestOf (linked .follower (fun z => { z with pmap := 0x29 })).zlk.pmap ≠ some (zlkAddr (linked .follower id).zlk) ∧
    zlkOn (linked .leader id) = true ∧ (31 : Fin 32) ≠ zlkAddr (linked .leader id).zlk ∧ 4 ≤ (linked .leader (fun z => { z with silent := z.silent.set 31 4 })).zlk.silent[31] ∧
    zlkOn (linked .follower id) = true ∧ 3 ≤ (linked .follower (fun z => { z with missed := 3 })).zlk.missed := by decide

/-- A beacon of the leader at address 0 for cycle 1, its zone the members 0 and 5, and 3 if `own`. -/
def aBeacon (own : Bool) : List Byte :=
  let body : List Byte := [0x20, 1, 0, 0, 0, 0, 0, 0, 0, 0, (if own then 0x29 else 0x21), 0, 0, 0, 0x20, 0, 0, 0, 31, 0, 0, 31]
  [0x55, 0xE2] ++ body ++ leBytes 2 (crc16 body)

theorem test_hyp_TroaxBeacons : burstOk (aBeacon true) 26 = true ∧ (oct (aBeacon true) 2).toNat / 32 = 1 ∧ burstOk [0x55] 26 = false ∧
    inMap (parseBeacon (aBeacon true)) (linked .follower id).zlk = true ∧ inMap (parseBeacon (aBeacon false)) (linked .follower id).zlk = false ∧
    (linked .joining (fun z => { z with joinSent := true })).zlk.joinSent = true ∧
    (parseBeacon (aBeacon false)).cycle = (linked .listen (fun z => { z with heard := 1 })).zlk.cycle + 1 := by decide +kernel

theorem test_hyp_RollBursts : zlkDreq (linked .leader id) = (false, linked .leader id) ∧ zlkJoined (linked .leader id) = true ∧
    bit (linked .leader id).zlk.pmap (zlkAddr (linked .leader id).zlk).val = true ∧ (linked .leader id).zlk.state = .leader ∧ (linked .follower id).zlk.missed = 0 ∧
    domReady (linked .leader id) .yard = true ∧
    (5 : Fin 32) ≠ zlkAddr (linked .leader id).zlk ∧ bit (linked .leader id).zlk.pmap 5 = true ∧ bit (linked .leader id).zlk.vmap 5 = true ∧
    zlkOn (linked .leader id) = true ∧ oct [0x55] 0 ≠ 0xE2 := by
  refine ⟨rfl, ?_⟩
  decide

/-- A follower granted the window, with a TX descriptor of a frame of two octets, and an RX ring with one free entry. -/
def granted : State :=
  { linked .follower (fun z => { z with grant := some 3, txqBase := 0x20000000, txqProd := 1, rxrBase := 0x20000100 }) with
    mem := live.mem.writeN 0x20000000 (leBytes 4 0x20000200 ++ leBytes 4 0x80000502 ++ List.replicate 248 0 ++ leBytes 4 0x20000300 ++ leBytes 4 0x80000000) }

theorem test_hyp_TroaxData : zlkJoined granted = true ∧ granted.zlk.grant = some (zlkAddr granted.zlk) ∧ zlkQueued granted.zlk ≠ 0 ∧
    (let p := attemptNow .zlkDma (dmaRead .zlkDma (zlkHead granted.zlk) 16) (updZlk granted (fun z => { z with grant := none }))
     (p.1.map (fun x => (x.1, bit (wordOf x.2 1) 31, fld (wordOf x.2 1) 7 0))) = some (.okay, true, 2) ∧
     ((attemptNow .zlkDma (dmaRead .zlkDma 0x20000200 2) p.2).1.map (·.1)) = some .okay) ∧ 2 ≤ zlkWin granted.zlk ∧ zlkWin granted.zlk < 200 ∧
    granted.yard.waiting = [] ∧ granted.yard.port = [] ∧ granted.yard.eng = {} ∧ zlkOn granted = true ∧
    (dmaRead .zlkDma (granted.zlk.rxrBase.toNat + 16 * (granted.zlk.rxrNext % 8)) 8 granted).1.1 = .okay ∧
    bit (wordOf (dmaRead .zlkDma (granted.zlk.rxrBase.toNat + 16 * (granted.zlk.rxrNext % 8)) 8 granted).1.2 1) 31 = true ∧
    (dmaWrite .zlkDma 0x20000300 [7] granted).1 = (.okay, 1) ∧ (dmaWrite .zlkDma 0x20000104 (List.replicate 12 0) granted).1 = (.okay, 12) := by decide +kernel

/-- A device with the DALI engine in a mode. -/
def dali (c : W32) (f : Dli → Dli) : State := { live with dli := f { live.dli with ctrl := c } }

theorem test_hyp_DaliEngine : dliOn (dali 0xC0000000 id) = true ∧ bit (dali 0xC0000000 id).dli.ctrl 30 = true ∧
    reaches .hostS .dli 0x40410014 (32 ||| 0x80000000) (dali 0xC0000000 id) = true ∧ (dali 0xC0000000 id).dli.run = .idle ∧
    8 ≤ fld (32 ||| 0x80000000 : W32) 5 0 ∧ fld (32 ||| 0x80000000 : W32) 5 0 ≤ 32 ∧
    reaches .hostS .dli 0x40410014 7 live = true ∧ fld (7 : W32) 5 0 < 8 ∧ 32 < fld (33 : W32) 5 0 ∧ dliDecode [4166, 4166] = none ∧
    (let d (n : Nat) := dali 0x80000000 (fun d => { d with tim := 0x02050000, sinceFwd := some n })
     reaches .hostS .dli 0x40410014 8 (d 0) = true ∧ bit (d 0).dli.ctrl 30 = false ∧ fld (8 : W32) 5 0 = 8 ∧
     30719 < fld (d 0).dli.tim 23 16 * 15360 ∧ 30719 < fld (d 0).dli.tim 31 24 * 15360 ∧ fld (d 0).dli.tim 31 24 * 15360 ≤ 30720 ∧
     fld (d 0).dli.tim 23 16 * 15360 ≤ 76800 ∧ (d 76800).dli.sinceFwd = some 76800) ∧
    (let s := dali 0xC0000000 (fun d => { d with run := .settle, settle := 1, idle := 15360 })
     dliOn s = true ∧ s.dli.busLow = false ∧ s.dli.settle * 15360 ≤ s.dli.idle) ∧
    (let s := dali 0x80000000 (fun d => { d with run := .pendBack, tim := 0x02050000, sinceFwd := some 30720 })
     dliOn s = true ∧ s.dli.run = .pendBack ∧ s.dli.busLow = false ∧ fld s.dli.tim 31 24 * 15360 ≤ 30720) ∧
    (let s := dali 0xC0000000 (fun d => { d with await := true })
     dliOn s = true ∧ s.dli.await = true ∧ s.dli.sinceFwd = none) ∧
    (let s := { dali 0xC0000000 (fun d => { d with run := .sending false, sent := [(0, 8)] }) with time := 10000000 }
     s.dli.run = .sending false ∧ dliSent s = true) ∧ fld (dali 0x80000000 (fun d => { d with tim := 5 })).dli.tim 15 0 < 6 := by decide +kernel

/-- The SPI slave port enabled. -/
def slave : State := { live with spis := { live.spis with ctrl := 0x80000000 } }

theorem test_hyp_HostPort : spisOn live = false ∧ spisOn slave = true ∧ memOk slave ∧ (decodeTarget (0x28003FFC : W32).toNat = some .loft ∧ storable .loft = true ∧
    (0x28003FFC : W32).toNat % 4 = 0 ∧ stalled slave .spis = false ∧ verdict slave .spis (some .loft) 0x28003FFC .write = .go .loft ∧
    verdict slave .spis (some .loft) 0x28003FFC .read = .go .loft ∧ isMemory .loft = true ∧ (0x9F : Byte) ≠ 0x02 ∧ (0x9F : Byte) ≠ 0x0B ∧ (0x9F : Byte) ≠ 0x05 ∧
    reaches .hostS .spis 0x40420010 1 live = true ∧
    readReaches .hostU .spis 0x40420014 live = true ∧ readReaches .cfg .spis 0x40420014 live = true) := by
  refine ⟨?_, ?_, ?_, ?_⟩
  · decide
  · decide
  · unfold memOk; decide
  · decide

/-- A port state with one UART and one I2C master changed. -/
def ports (f : Uart → Uart) (g : I2c → I2c) : State := { live with uart := upd live.uart 1 f, i2c := upd live.i2c 1 g }

theorem test_hyp_SerialPorts :
    let s := ports (fun u => { u with ctrl := 0xF0000000, rx := [5], cur := some 3, tx := List.replicate 16 9 })
      (fun i => { i with ctrl := 0x80000000, busy := true, cmd := put 1 0, tx := List.replicate 8 1, rx := [4] })
    reaches .hostS (.uart 1) (0x40430008 + 0x1000 * 1) 1 s = true ∧ 16 ≤ s.uart[1].tx.length ∧ live.uart[1].tx.length < 16 ∧
    readReaches .hostS (.uart 1) (0x40430008 + 0x1000 * 1) s = true ∧ s.uart[1].rx = 5 :: [] ∧ live.uart[1].rx = [] ∧
    portUp s 61 = true ∧ bit s.uart[1].ctrl 31 = true ∧ bit s.uart[1].ctrl 29 = true ∧ s.uart[1].rx.length < 16 ∧ s.uart[1].cur = some 3 ∧
    live.uart[0].cur = none ∧ bit ({ live.uart[0] with ctrl := 0xE0000000 } : Uart).ctrl 30 = true ∧
    reaches .hostS (.i2c 1) (0x40440004 + 0x1000 * 1) (0 ||| 0x80000000) s = true ∧ portUp s 63 = true ∧ s.i2c[1].busy = true ∧ s.i2c[1].more = [] ∧
    i2cLen s.i2c[1] = 1 ∧ i2cLen s.i2c[1] ≤ ({ s.i2c[1] with out := [0] } : I2c).out.length ∧ bit ({ s.i2c[1] with cmd := 0x40000000 } : I2c).cmd 30 = true ∧
    I2cEnd.nackAddr ≠ .ok ∧ reaches .hostS (.i2c 1) (0x40440008 + 0x1000 * 1) 1 s = true ∧ live.i2c[1].tx.length < 8 ∧
    readReaches .hostS (.i2c 1) (0x40440008 + 0x1000 * 1) s = true ∧ s.i2c[1].rx = 4 :: [] := by decide

/-- The clocks changed. -/
def clocked (f : Clk → Clk) : State := { live with clk := f live.clk }

theorem test_hyp_SynthesizerEvents : live.clk.sys.st = .locked ∧ pllSt live .rf ≠ .locked ∧ pllSt live .rf ≠ .coast ∧ onAirRules.clk.rf.st = .locked ∧
    onAirRules.trx.tx = none ∧
    (let s := clocked (fun c => { c with sys := { c.sys with st := .coast } })
     s.clk.sys.st = .coast ∧ s.clk.sys.coastCyc = 0 ∧ s.clk.sys.lol = false ∧ s.clk.sys.lor = false) ∧
    (let s := clocked (fun c => { c with sys := { c.sys with st := .coast, coastCyc := 1 } })
     pllSt s .sys ≠ .locked ∧ (pllOf s .sys).switching = false ∧ (pllOf s .sys).coastCyc ≠ 0) ∧
    (clocked (fun c => { c with xtalOk := false })).clk.xtalOn = true ∧ live.clk.xtalOk = true ∧ live.clk.want = none ∧
    (clocked (fun c => { c with sys := { c.sys with st := .search }, rf := { c.rf with st := .search } })).clk.rf.st = .search ∧
    (clocked (fun c => { c with sys := { c.sys with st := .acquire }, rf := { c.rf with st := .acquire } })).clk.sys.st = .acquire ∧
    (clocked (fun c => { c with rf := { c.rf with st := .coast } })).clk.rf.st = .coast := by decide

theorem test_hyp_ClockCommands : reaches .hostS .sys 0x40000020 0x00010000 live = true ∧ fld ((0x00010000 : W32) &&& 0x00033300) 17 16 ≠ 3 ∧
    fld ((0x00030000 : W32) &&& 0x00033300) 17 16 = 3 ∧ fld ((0x00010000 : W32) &&& 0x00033300) 17 16 ≠ fld live.clk.sys.cfg 17 16 ∧
    reaches .hostS .sys 0x4000000C 0x80000000 live = true ∧ live.clk.bypass = false ∧
    reaches .hostS .sys 0x4000000C 0x80000000 (clocked (fun c => { c with sys := { c.sys with st := .failed } })) = true ∧
    reaches .hostS .sys 0x4000004C 1 live = true ∧ live.clk.xlfOk = false ∧
    (let s := { clocked (fun c => { c with xlfOk := true, slk := c.slk.set 0 { upd := 254 } }) with sns := { live.sns with tempValid := true } }
     slkActive s = true ∧ s.clk.slk[0].upd ≠ 0 ∧ s.clk.xlfOk = true) ∧ (∀ j : Fin 16, live.clk.slk[j].upd = 0) ∧
    live.pwr.state ≠ .slumber ∧ ({ live.pwr with state := .slumber } : Pwr).state = .slumber ∧ live.clk.cloadDue = 0 ∧ ({ live.clk with cloadDue := 1 } : Clk).cloadDue ≠ 0 ∧
    live.boot.inReset = false ∧ { live.boot with started := false }.started = false ∧ (clocked (fun c => { c with xtalOk := false })).clk.xtalOk = false := by
  decide

/-- The power state changed. -/
def powered (f : Pwr → Pwr) : State := { live with pwr := f live.pwr }

theorem test_hyp_PowerRequests : reaches .hostU .pwr 0x40004004 0x104 live = true ∧ Mid.hostU ≠ .hostS ∧
    (∀ v : Fin 5, reaches .hostS .pwr 0x40004004 (BitVec.ofNat 32 v.val) live = true) ∧ live.pwr.move = .none ∧ live.pwr.armed = none ∧ live.pwr.state = .run ∧
    live.sns.tempData.toInt < 7040 ∧ 7040 ≤ ({ live.sns with tempData := 7040 } : Sns).tempData.toInt ∧
    (powered (fun p => { p with move := .biasing })).pwr.move = .biasing ∧ live.sns.temp.toInt < 7360 ∧ 7360 ≤ ({ live.sns with temp := 7360 } : Sns).temp.toInt ∧
    reaches .hostS .pwr 0x40004004 0 (powered (fun p => { p with state := .runFast })) = true ∧
    reaches .groom .pwr 0x40004004 0 (powered (fun p => { p with state := .nap })) = true ∧
    reaches .groom .pwr 0x40004004 0 (powered (fun p => { p with armed := some (.slumber, .groom) })) = true ∧
    reaches .groom .pwr 0x40004004 (put 4 0 ||| putB true 8) (powered (fun p => { p with state := .nap, wakeEn := 2 })) = true ∧
    slumberWakes (powered (fun p => { p with wakeEn := 2 })).pwr = true ∧ slumberWakes live.pwr = false ∧ reaches .hostS .pwr 0x40004030 1 live = true := by
  decide

theorem test_hyp_RequestInstant :
    let f (t : PwrState) := powered (fun p => { p with armed := some (t, .hostS), wakeEn := 8 })
    refWake (f .doze) .doze = none ∧ (f .doze).pwr.armed = some (.doze, .hostS) ∧ (f .nap).bist.run = none ∧ refFlash (f .nap) = none ∧
    refWake (f .nap) .nap = none ∧ refusers (f .slumber) .slumber = [] ∧
    refusers { f .nap with boot := { live.boot with flRun := some { erase := true, addr := 0x08000000, lo := 0, hi := 0 } } } .nap = [(5, 1, 0)] ∧
    (onStall 31 (fun t => { t with en := true }) (f .slumber)).stl[31].en = true ∧ pdkUnusable (f .slumber) (pdkOf 31) = false ∧
    (some { target := (60 : Fin 64), cur := 0, last := 0, noMark := false, result := none } : Option BistRun) ≠ none := by decide

theorem test_hyp_EntryAndExit : (powered (fun p => { p with move := .entering .nap .run })).pwr.move = .entering .nap .run ∧ zlkOn live = false ∧
    (powered (fun p => { p with move := .entering .slumber .run })).pwr.move = .entering .slumber .run ∧ live.trx.tx = none ∧
    (∀ k : Fin 8, k.val < 7 → bit (powered (fun p => { p with sramRet := 0xFF })).pwr.sramRet k.val = true) ∧
    (powered (fun p => { p with move := .exiting .run, state := .nap })).pwr.state = .nap ∧
    (powered (fun p => { p with move := .exiting .nap, state := .slumber })).pwr.move = .exiting .nap ∧
    clocksBack live = true ∧ live.trx.heldRx = none ∧ bit live.zlk.ctrl 31 = false ∧ clocksBack (clocked (fun c => { c with sys := { c.sys with st := .search } })) = false ∧
    domIsolated live .flash = false ∧ domIsolated live .host = false ∧ domIsolated live .groom = false ∧
    domIsolated (powered (fun p => { p with isolated := 0x03000000 })) .host = true ∧ domIsolated (powered (fun p => { p with isolated := 0x03000000 })) .groom = true := by decide

theorem test_hyp_WakeEvents :
    let f (st : PwrState) (mv : PwrMove) := powered (fun p => { p with state := st, move := mv, wakeEn := 0x42 })
    wakeShown (f .run .none) .timer = true ∧ wakes (f .run .none).pwr .timer .run = false ∧ wakes (f .doze .none).pwr .timer .doze = true ∧
    wakes (f .nap .none).pwr .timer .nap = true ∧ wakes (f .slumber .none).pwr .timer .slumber = true ∧
    wakes (f .run (.entering .slumber .run)).pwr .timer .slumber = true ∧ live.pwr.ltime = live.pwr.timerCmp ∧
    (powered (fun p => { p with timerCmp := 1 })).pwr.ltime ≠ 1 := by decide

theorem test_hyp_PowerDomains : reaches .hostS .pwr 0x40004040 (withBit live.pwr.domOn 23 false) liveStall = true ∧ domIsolated liveStall (.paddock 7) = false ∧
    bit liveStall.pwr.domOn 23 = true ∧ bit (withBit live.pwr.domOn 23 false) 23 = false ∧ parkedOff liveStall 7 = false ∧
    reaches .hostS .pwr 0x40004040 live.pwr.domOn live = true ∧ domIsolated live (.sram 7) = false ∧ bit live.pwr.domOn 15 = true ∧ domReady live (.sram 7) = true ∧
    reaches .hostS .pwr 0x40004040 (withBit live.pwr.domOn 15 false) live = true ∧
    (let s := powered (fun p => { p with waking := 0x04000000, ready := 0 })
     demanded s .yard = true ∧ domIsolated s .yard = false ∧ domReady s .yard = false ∧ vitalDomain s .yard = true) ∧
    domReady (powered (fun p => { p with ready := 0 })) (.sram 7) = false ∧
    (let s := { live with yard := { live.yard with waiting := [waiting 0] } }
     s.yard.waiting.findIdx? (fun y => y.tag = (waiting 0).tag) = some 0 ∧ s.yard.waiting.find? (fun y => y.tag = (waiting 0).tag) = some (waiting 0)) ∧
    (let s := { powered (fun p => { p with state := .slumber, sleep := some { trx := 0, zone := 0, ltime := 0, pred := 0, moves := [(0, true)], back := 0 } }) with trx := { live.trx with ctrl := 0xA0000000 } }
     s.pwr.move = .none ∧ trxEn s = true ∧ bit s.trx.ctrl 29 = true ∧ unusable s 47 = false ∧ loftDue s = true ∧
     carrierOk (carrierOf s.trx (fld s.trx.chan 15 0)) = true) := by decide

/-- Watchdog 1 enabled, with TMO 2, WARN 1 and a count. -/
def watched (cnt : Nat) : State := { live with wdt := upd live.wdt 1 (fun q => { q with ctrl := 0x80010002, cnt := cnt }) }

theorem test_hyp_ResetCommands : reaches .hostU .boot (0x40050000 + 0x008) 0x52530001 live = true ∧ reaches .hostS .boot (0x40050000 + 0x008) 0x52530001 live = true ∧
    (let s := clocked (fun c => { c with sys := { c.sys with st := .coast, coastCyc := 1536000 } })
     s.clk.sys.st = .coast ∧ 1536000 ≤ s.clk.sys.coastCyc) ∧ live.clk.sys.st ≠ .coast ∧ wdtOf .groom = 1 ∧ wdtCounts (watched 2) .groom = true ∧
    fld (watched 2).wdt[1].ctrl 13 0 ≤ (watched 2).wdt[1].cnt ∧ (watched 1).wdt[1].cnt < fld (watched 1).wdt[1].ctrl 13 0 ∧ (watched 1).wdt[1].bad = false ∧
    bit ({ (watched 0).wdt[1] with bad := true } : Wdt).ctrl 31 = true ∧
    fld (watched 1).wdt[1].ctrl 29 16 < fld (watched 1).wdt[1].ctrl 13 0 ∧ fld (watched 1).wdt[1].ctrl 29 16 ≤ (watched 1).wdt[1].cnt ∧
    reaches .groom .sys (0x40000000 + (0x404 + 0x10 * 1)) 0xA5C3 (watched 0) = true ∧
    { live.boot with inReset := true }.inReset = true ∧ live.boot.flRun = none ∧ live.bist.run = none := by decide

theorem test_hyp_PinCommands :
    let s := { live with pio := { live.pio with ecfg := live.pio.ecfg.set 23 0x1800 } }
    reaches .hostS .pio 0x4003001C ((7 : BitVec 3).setWidth 32) live = true ∧ live.pwr.state ≠ .slumber ∧ live.pwr.move = .none ∧
    reaches .hostS .pio 0x40030020 1 live = true ∧ live.pio.filt.getLsbD 23 = false ∧ unusable s 7 = false ∧ domReady s .yard = true ∧
    s.pio.filt.getLsbD 23 ≠ true ∧ edgeWanted s.pio.ecfg[23] true = true ∧ edgeWanted live.pio.ecfg[23] true = false ∧ bit s.pio.ecfg[23] 11 = true ∧
    domReady { s with pwr := { s.pwr with ready := 0 } } .yard = false := by decide

theorem test_hyp_MaskedWindow : reaches .hostU .pio (0x40030000 + (0x400 + 2 * 0x400 + (0xFF : Byte).toNat * 4)) 0xA5 live = true ∧
    readReaches .hostU .pio (0x40030000 + (0x400 + 0 * 0x400 + (0x00 : Byte).toNat * 4)) live = true := by decide

theorem test_hyp_Supplies : live.sup.vgdUv = false ∧ live.sup.hot = false ∧ State.reset.sup.vgdUv = true ∧ { live.sup with hot := true }.hot = true ∧
    reaches .hostS .sys 0x40000908 1 live = true := by decide

/-- A firmware image of 196 bytes, its header naming key slot 1 and security version 1, signed with the private key 1 and the nonce 1: the
signature was computed with a program of its own from FIPS 186-4. -/
def image : List Byte :=
  leBytes 4 0x57464B42 ++ leBytes 2 1 ++ leBytes 2 0x40 ++ leBytes 4 196 ++ [1, 1, 0, 0] ++ leBytes 4 0x32334B42 ++ leBytes 4 0 ++ leBytes 4 64
    ++ List.replicate 32 0 ++ leBytes 4 0x2D44CEC5 ++ [0, 0, 0, 0]
    ++ (leBytes 32 0x6B17D1F2E12C4247F8BCE6E563A440F277037D812DEB33A0F4A13945D898C296).reverse
    ++ (leBytes 32 0x4FE342E2FE1A7F9B8EE7EB4A7C0F9E162BCE33576B315ECECBB6406837BF51F5).reverse
    ++ (leBytes 32 0x6B17D1F2E12C4247F8BCE6E563A440F277037D812DEB33A0F4A13945D898C296).reverse
    ++ (leBytes 32 0xAFD2F2266D61BFDF2A984375C0815D4F3F86CAC79BFEB4A863456054EBA7E98D).reverse

/-- The slot of its key. -/
def imageSlot : OtpKey :=
  { blank := false, active := true, hash := (leBytes 32 0xD875DB7DEF232236AEC738C6B0BB3E80142F5D0FD8F4DF24FED6EEF5CBB50D9F).reverse }

/-- The cells of bytes in flash, where 0xFF is not listed. -/
def flashed (a : Nat) (l : List Byte) : List (Nat × Byte) := ((List.range l.length).zipWith (fun i b => (a + i, b)) l).filter (fun c => c.2 != 0xFF)

/-- A device in its boot ROM with that image in bank B. -/
def imaged : State :=
  { live with
    mem := { live.mem with cells := flashed 0x08100000 image }
    bist := { live.bist with tmap := phases23 ||| phase1 }
    cfg := { live.cfg with baseDone := true }
    boot := { live.boot with bank := true, bootRom := true, released := false, otp := live.boot.otp.set 1 imageSlot, fw := .busy true true } }

/-- A test of a target that runs. -/
def testing (k : Fin 64) (res : Option Nat) (noMark : Bool) : State :=
  { live with bist := { live.bist with run := some { target := k, cur := 0, last := 1, noMark := noMark, result := res } } }

theorem test_hyp_SelfTest :
    (let s := { live with boot := { live.boot with started := false } }
     phase1Due s = true ∧ s.bist.fmap = 0 ∧ s.cfg.load = none) ∧
    live.boot.started = true ∧ live.bist.tmap.getLsbD 3 = false ∧ live.bist.umap = 0 ∧ live.clk.sys.st ≠ .failed ∧ live.clk.bypass = false ∧
    trialBank live = none ∧ bestCommitted live = none ∧
    reaches .hostS .bist 0x40020000 ((put 23 16 ||| put 63 0) ||| put 1 31) live = true ∧ live.bist.run = none ∧
    bistDetail (fld ((put 23 16 ||| put 63 0) ||| put 1 31) 21 16) (fld ((put 23 16 ||| put 63 0) ||| put 1 31) 13 8)
      (fld ((put 23 16 ||| put 63 0) ||| put 1 31) 5 0) (served .hostS .bist live) = 0 ∧
    bistDetail 1 0 0 (served .hostS .bist live) = 1 ∧ (testing 23 none false).bist.run.isSome = true ∧
    bit ((put 23 16 : W32) ||| put 1 31) 29 = false ∧ reaches .hostS .bist 0x40020000 (put 1 29) (testing 23 none false) = true ∧
    bistUnits 23 0 ≠ [] ∧ (bistUnits 23 0).all (unitPermitted (bistWake 23 live)) = true ∧
    (bistUnits 23 0).all (unitPermitted (bistWake 23 { live with act := { live.act with gate := upd live.act.gate 3 (fun q => { q with dflt := 0 }) } })) = false ∧
    (testing 60 (some 2) false).bist.run ≠ none ∧ (testing 23 none false).bist.run.map (·.gap) = some 0 := by decide

theorem test_hyp_TrialBank :
    let s := { imaged with mem := imaged.mem.writeN (0x08100000 + 0xCF000) [0], boot := { imaged.boot with released := false } }
    trialBank s = some true ∧ attemptsOf s true < 3 ∧ bestCommitted imaged = some true ∧ trialBank imaged = none := by decide +kernel

theorem test_hyp_FlashAndCheck :
    let b := { live with boot := { live.boot with bootRom := true, released := false } }
    let s (f : FlashRun) := { b with boot := { b.boot with flRun := some f } }
    reaches .hostS .boot (0x40050000 + 0x08C) 1 b = true ∧ reaches .hostS .boot (0x40050000 + 0x08C) 2 b = true ∧ b.boot.flRun = none ∧
    (s { erase := false, addr := 0x081FFFF8, lo := 1, hi := 2 }).boot.flRun.isSome = true ∧ flashLoc 0 = none ∧
    flashLoc 0x081FFFFF = some (true, 0xFFFFF) ∧ flashProt live .hostS false 0xE7FFF = true ∧ flashProt b .hostS true 0xFFFFF = false ∧
    (s { erase := false, addr := 0x081FFFF8, lo := 1, hi := 2 }).mem.readN 0x081FFFF8 8 = List.replicate 8 0xFF ∧
    (b.mem.writeN 0x081FFFF8 [0]).readN 0x081FFFF8 8 ≠ List.replicate 8 0xFF ∧
    reaches .hostS .boot (0x40050000 + 0x070) (put 2 8 ||| putB true 0) b = true ∧ reaches .hostS .boot (0x40050000 + 0x070) (put 3 8 ||| putB true 4) b = true ∧
    ({ b.boot with fw := .wait true } : Boot).fw = .wait true := by decide

theorem test_hyp_FullCheck :
    let s := { imaged with bist := { imaged.bist with umap := mapBit 56 } }
    imaged.boot.fw = .busy true true ∧ pkvUsable s = false ∧ fwTo9 s true = 0 ∧ pkvUsable imaged = true ∧ booting imaged = true ∧
    imaged.cfg.baseDone = true ∧ imaged.boot.bank = true ∧ fwCheck imaged true true = 0 ∧ fwCheck { imaged with boot := { imaged.boot with floor := 2 } } true true ≠ 0 := by
  decide +kernel

/-- A base image of 240 bytes with a HEADER section only, signed like `image`. -/
def lyngo : List Byte :=
  leBytes 4 0x474E594C ++ leBytes 2 1 ++ leBytes 2 0x40 ++ leBytes 4 240 ++ [1, 0xFF, 1, 1] ++ leBytes 4 0x32334B42 ++ leBytes 4 1
    ++ List.replicate 36 0 ++ leBytes 4 0xA255DC63 ++ [1, 0xFF, 0, 0] ++ leBytes 4 80 ++ leBytes 4 32 ++ leBytes 4 0x18BFA8B0
    ++ [0, 0, 0, 0, 1] ++ List.replicate 27 0
    ++ (leBytes 32 0x6B17D1F2E12C4247F8BCE6E563A440F277037D812DEB33A0F4A13945D898C296).reverse
    ++ (leBytes 32 0x4FE342E2FE1A7F9B8EE7EB4A7C0F9E162BCE33576B315ECECBB6406837BF51F5).reverse
    ++ (leBytes 32 0x6B17D1F2E12C4247F8BCE6E563A440F277037D812DEB33A0F4A13945D898C296).reverse
    ++ (leBytes 32 0x7D6DE925159FA10A600CCF7EDE3465988DEE623E0B44C02C2FB559AF598F52EB).reverse

/-- A device running from bank A, with a firmware image and a base image in bank B. -/
def updated : State :=
  { imaged with
    mem := { live.mem with cells := flashed 0x08100000 image ++ flashed 0x081D0000 lyngo }
    boot := { imaged.boot with bank := false, bootRom := false, released := true, fw := .idle } }

theorem test_hyp_BootServices : updated.boot.released = true ∧ updated.boot.level ≠ 3 ∧ updated.boot.trial = false ∧
    (1 : W32).toNat ≤ 1 ∧ decide ((1 : W32) = 1) ≠ updated.boot.bank ∧ updated.boot.flRun = none ∧ updated.bist.run = none ∧ updated.mem.wf = true ∧
    classify updated true ≠ 4 ∧ fwCheck updated true true = 0 ∧ lyngoCode updated true = 0 := by decide +kernel

theorem test_hyp_Services : State.reset.boot.released = false ∧ ({ live.boot with trial := true } : Boot).trial = true ∧ 4 < (5 : W32).toNat ∧
    live.yard.waiting = [] ∧ live.yard.port = [] ∧ live.yard.eng = {} ∧ otpNum live.boot.otp[3] = 0 ∧ otpNum imageSlot ≠ 0 ∧ (dmaRead .hostS 0x20000000 32 live).1.1 = .okay ∧ u8 (fwHdr imaged true) 0x0D = 1 ∧
    u8 (fwHdr imaged true) 0x0D ≠ 3 ∧ reaches .hostS .boot (0x40050000 + 0x068) (put 1 31 ||| ((8 : BitVec 30).setWidth 32 <<< 1)) live = true ∧
    live.boot.groom = 0 ∧ live.pwr.groomOn = false ∧ domIsolated live .groom = false ∧ unusable live 3 = false := by decide +kernel

theorem test_hyp_StepTakesFront : State.reset.pending = [] ∧ State.reset.yard.waiting = [] ∧ State.reset.yard.port = [] ∧ State.reset.trx.sniffing = false := by decide

theorem test_hyp_MemoryFormKept : memOk State.reset ∧ goesOn State.reset ∧ State.reset.pending = [] :=
  ⟨by unfold memOk; decide, ⟨tick State.reset, rfl⟩, rfl⟩

theorem test_hyp_OtpOnlyGrows : goesOn (live.push (.por)) := ⟨_, rfl⟩

/-! ## Single steps and published values -/

/-- FIPS 180-4: the digest of "abc". -/
theorem test_sha256 : sha256 [0x61, 0x62, 0x63] = (leBytes 32 0xBA7816BF8F01CFEA414140DE5DAE2223B00361A396177A9CB410FF61F20015AD).reverse := by
  decide +kernel

/-- The check values of the CRC catalogue for "123456789": CRC-32, and the CRC-8 of R254. -/
theorem test_crcs : crc32 [0x31, 0x32, 0x33, 0x34, 0x35, 0x36, 0x37, 0x38, 0x39] = 0xCBF43926 ∧
    crc8 [0x31, 0x32, 0x33, 0x34, 0x35, 0x36, 0x37, 0x38, 0x39] = 0xF4 := by decide +kernel

/-- R23: the ends of windows, and the holes between them. -/
theorem test_memory_map : decodeTarget 0x40104FFF = some (.stall 31) ∧ decodeTarget 0x40105000 = none ∧ decodeTarget 0x401087FF = some (.pdk 7) ∧
    decodeTarget 0x40108800 = none ∧ decodeTarget 0x00010000 = none ∧ decodeTarget 0x2007FFFF = some (.sram 7) := by decide

/-- R18, R23: a write outside every window answers DECERR and is captured. -/
theorem test_decerr : after (.registerWrite .groom 0x50000000 .b32 1) live (fun t => t.yard.resp.code = .decerr && t.yard.decerrCnt = 1 &&
    t.yard.err = some { mid := .groom, kind := .write, tmo := false, code := .decerr, addr := 0x50000000, ovf := false }) = true := by decide

/-- R24: a write to the active-bank window answers SLVERR. -/
theorem test_window : after (.registerWrite .hostS 0x0C000000 .b32 1) live (fun t => t.yard.resp.code = .slverr) = true := by decide

/-- R27: of two pending sources of one priority the lower number is claimed, and its edge is gone. -/
theorem test_claim : after (.irqClaim .hostS .host)
    { live with irq := { live.irq with edge := 0x6000#64 <<< 32, enHost := 0x6000#64 <<< 32, prio := .replicate 8 0x77777777 } }
    (fun t => t.yard.resp.data = 45 && t.irq.edge = 0x4000#64 <<< 32 && t.irq.claimed[45] = some .host) = true := by decide

/-- R352: after reset the debug port writes nothing. -/
theorem test_dbg_denied : after (.maskedWrite .dbg 0 0xFF 1) live (fun t => t.yard.resp.code = .deny && t.pio.out = 0) = true := by decide

/-- R364: only the masked bits of the group change. -/
theorem test_masked : after (.maskedWrite .hostU 1 0x0F 0xAA) { live with pio := { live.pio with out := 0xFFFFFF } }
    (fun t => t.pio.out = 0xFFFAFF) = true := by decide

/-- R124, R31: a posted scene reaches a stall whose scene is enabled. -/
theorem test_post : after (.lpePostMask .hostS 0x80000000) (onStall 31 (fun t => { t with scn := t.scn.set 0 0x80000000 }) live)
    (fun t => t.stl[31].posts = 1 && t.stl[30].posts = 0) = true := by decide

/-- R66: PARK of a LIVE paddock starts parking; of a PARKED one it is rejected with REJ. -/
theorem test_park : after (.park .hostS 7 false) liveStall (fun t => pdkState t 7 = .parking) = true ∧
    after (.park .hostS 0 false) liveStall (fun t => t.cfg.rej != 0 && pdkState t 0 = .parked) = true := by decide

/-- R299: a coast that does not end resets the device with cause CLK, and every gate is low. -/
theorem test_coast_limit : after .coastLimit (clocked (fun c => { c with sys := { c.sys with st := .coast, coastCyc := 1536000 } }))
    (fun t => t.boot.lastRst = 6 && (idx 32).all (fun n => !t.stl[n].gate)) = true := by decide

/-- R376: the right kick restarts the count, another value makes the watchdog expire. -/
theorem test_kick : after (.kick .hostS .groom 0xA5C3) (watched 1) (fun t => t.wdt[1].bad = false && t.wdt[1].cnt = 0) = true ∧
    after (.kick .hostS .groom 0xA5C4) (watched 1) (fun t => t.wdt[1].bad = true) = true := by decide

end Sys2Proof.Tests
end

/-!
Step: no command, and no period of an empty queue, takes from memory its canonical form or from the OTP what it holds
(R6, R23, R394, R395).
-/

namespace Sys2Proof.Machine

open Sys2Proof

/-- What every command keeps, from what the meaning of each keeps: one case for each row of the opcode table. -/
theorem keepsX_exec {r s : State} (c : Instr) (h : Keeps r s) : KeepsX r (exec c s) := by
  cases c with
  | registerWrite => exact keeps_execRegisterWrite h
  | yardTimeout => exact keeps_execYardTimeout h
  | yerrValidClear => exact keeps_execYerrValidClear h
  | cntClr => exact keeps_execCntClr h
  | peakClr => exact keeps_execPeakClr h
  | irqClaim => exact keeps_execIrqClaim h
  | irqComplete => exact keeps_execIrqComplete h
  | toHost => exact keeps_execToHost h
  | toGroom => exact keeps_execToGroom h
  | trgFire => exact keeps_execTrgFire h
  | trgLock => exact keeps_execTrgLock h
  | trgDropCntClr => exact keeps_execTrgDropCntClr h
  | park => exact keeps_execPark h
  | load => exact keeps_execLoad h
  | unpark => exact keeps_execUnpark h
  | abort => exact keeps_execAbort h
  | loadBase => exact keeps_execLoadBase h
  | confirm => exact keeps_execConfirm h
  | waitSwv => exact keeps_execWaitSwv h
  | loadEnd => exact keeps_execLoadEnd h
  | parkingStart => exact keeps_execParkingStart h
  | stallFreeze => exact keeps_execStallFreeze h
  | holdExp => exact keeps_execHoldExp h
  | unparkingStart => exact keeps_execUnparkingStart h
  | adcResult => exact keeps_execAdcResult h
  | calReference => exact keeps_execCalReference h
  | vrefBad => exact keeps_execVrefBad h
  | vrefReturn => exact keeps_execVrefReturn h
  | startUpCalibration => exact keeps_execStartUpCalibration h
  | adlCfg => exact keeps_execAdlCfg h
  | laneRdy => exact keeps_execLaneRdy h
  | auxConversion => exact keeps_execAuxConversion h
  | auxCfg => exact keeps_execAuxCfg h
  | pirSample => exact keeps_execPirSample h
  | pirHoldEnd => exact keeps_execPirHoldEnd h
  | settleEnd => exact keeps_execSettleEnd h
  | pirEnable => exact keeps_execPirEnable h
  | pirSat => exact keeps_execPirSat h
  | pirSatClear => exact keeps_execPirSatClear h
  | dayResult => exact keeps_execDayResult h
  | tempMeasurement => exact keeps_execTempMeasurement h
  | lpeTick => exact keeps_execLpeTick h
  | stallSample => exact keeps_execStallSample h
  | stallCompute => exact keeps_execStallCompute h
  | stallUpdate => exact keeps_execStallUpdate h
  | lpePostMask => exact keeps_execLpePostMask h
  | stlSpWrite => exact keeps_execStlSpWrite h
  | stallEnable => exact keeps_execStallEnable h
  | stallDisable => exact keeps_execStallDisable h
  | lpeTabData => exact keeps_execLpeTabData h
  | lpeLoadPeakClr => exact keeps_execLpeLoadPeakClr h
  | missCntClr => exact keeps_execMissCntClr h
  | clampCntClear => exact keeps_execClampCntClear h
  | pwmPeriodStart => exact keeps_execPwmPeriodStart h
  | ocTrip => exact keeps_execOcTrip h
  | retry => exact keeps_execRetry h
  | retryUsedReset => exact keeps_execRetryUsedReset h
  | faultClr => exact keeps_execFaultClr h
  | ocCntClr => exact keeps_execOcCntClr h
  | echoStart => exact keeps_execEchoStart h
  | echoStop => exact keeps_execEchoStop h
  | echoEnd => exact keeps_execEchoEnd h
  | galleryRecord => exact keeps_execGalleryRecord h
  | captureEnd => exact keeps_execCaptureEnd h
  | galleryArm => exact keeps_execGalleryArm h
  | force => exact keeps_execForce h
  | galStop => exact keeps_execGalStop h
  | txqProd => exact keeps_execTxqProd h
  | launch => exact keeps_execLaunch h
  | txAttempt => exact keeps_execTxAttempt h
  | channelAssessment => exact keeps_execChannelAssessment h
  | backoffEnd => exact keeps_execBackoffEnd h
  | timedLaunch => exact keeps_execTimedLaunch h
  | txFrameEnd => exact keeps_execTxFrameEnd h
  | ackWaitExpiry => exact keeps_execAckWaitExpiry h
  | trxFlush => exact keeps_execTrxFlush h
  | rxFrame => exact keeps_execRxFrame h
  | matcherResult => exact keeps_execMatcherResult h
  | ackSend => exact keeps_execAckSend h
  | sniff => exact keeps_execSniff h
  | partnerEntryWrite => exact keeps_execPartnerEntryWrite h
  | trxCntClr => exact keeps_execTrxCntClr h
  | trxTimeLo => exact keeps_execTrxTimeLo h
  | trxZtimeLo => exact keeps_execTrxZtimeLo h
  | bucketBoundary => exact keeps_execBucketBoundary h
  | rgyCntClr => exact keeps_execRgyCntClr h
  | cryProd => exact keeps_execCryProd h
  | jobAccept => exact keeps_execJobAccept h
  | jobDispatch => exact keeps_execJobDispatch h
  | jobAged => exact keeps_execJobAged h
  | jobEnd => exact keeps_execJobEnd h
  | completionPost => exact keeps_execCompletionPost h
  | cplCons => exact keeps_execCplCons h
  | cryFlush => exact keeps_execCryFlush h
  | ksPol => exact keeps_execKsPol h
  | ksLoad => exact keeps_execKsLoad h
  | ksClear => exact keeps_execKsClear h
  | outReq => exact keeps_execOutReq h
  | inReq => exact keeps_execInReq h
  | katEnd => exact keeps_execKatEnd h
  | cryCntClr => exact keeps_execCryCntClr h
  | pkvStart => exact keeps_execPkvStart h
  | pkvDone => exact keeps_execPkvDone h
  | zlkEnable => exact keeps_execZlkEnable h
  | zlkDisable => exact keeps_execZlkDisable h
  | form => exact keeps_execForm h
  | cycleStart => exact keeps_execCycleStart h
  | beacon => exact keeps_execBeacon h
  | leaderLost => exact keeps_execLeaderLost h
  | rollLatch => exact keeps_execRollLatch h
  | roll => exact keeps_execRoll h
  | memberDrop => exact keeps_execMemberDrop h
  | rvStale => exact keeps_execRvStale h
  | joinSlot => exact keeps_execJoinSlot h
  | join => exact keeps_execJoin h
  | dataWindow => exact keeps_execDataWindow h
  | dataBurst => exact keeps_execDataBurst h
  | queue => exact keeps_execQueue h
  | zlkTxqProd => exact keeps_execZlkTxqProd h
  | zlkFlush => exact keeps_execZlkFlush h
  | zlkCntClr => exact keeps_execZlkCntClr h
  | zlkZtLo => exact keeps_execZlkZtLo h
  | daliFrame => exact keeps_execDaliFrame h
  | send => exact keeps_execSend h
  | dliTxc => exact keeps_execDliTxc h
  | settleExpiry => exact keeps_execSettleExpiry h
  | backwardFrameStart => exact keeps_execBackwardFrameStart h
  | nobf => exact keeps_execNobf h
  | txdone => exact keeps_execTxdone h
  | coll => exact keeps_execColl h
  | busfail => exact keeps_execBusfail h
  | write => exact keeps_execWrite h
  | read => exact keeps_execRead h
  | status => exact keeps_execStatus h
  | spisTohost => exact keeps_execSpisTohost h
  | fromhostRead => exact keeps_execFromhostRead h
  | uartRxChar => exact keeps_execUartRxChar h
  | uartTxChar => exact keeps_execUartTxChar h
  | uartDataWrite => exact keeps_execUartDataWrite h
  | uartDataRead => exact keeps_execUartDataRead h
  | go => exact keeps_execGo h
  | i2cDone => exact keeps_execI2cDone h
  | i2cTimeout => exact keeps_execI2cTimeout h
  | i2cDataAccess => exact keeps_execI2cDataAccess h
  | xtalOk => exact keeps_execXtalOk h
  | xtalFail => exact keeps_execXtalFail h
  | bandSearchEnd => exact keeps_execBandSearchEnd h
  | lock => exact keeps_execLock h
  | lossOfLock => exact keeps_execLossOfLock h
  | lossOfReference => exact keeps_execLossOfReference h
  | reacquire => exact keeps_execReacquire h
  | rfpllResearch => exact keeps_execRfpllResearch h
  | syspllFailed => exact keeps_execSyspllFailed h
  | referenceSwitch => exact keeps_execReferenceSwitch h
  | coastLimit => exact keeps_execCoastLimit h
  | bypass => exact keeps_execBypass h
  | xlfOk => exact keeps_execXlfOk h
  | xlfFail => exact keeps_execXlfFail h
  | sleepClockMeasurement => exact keeps_execSleepClockMeasurement h
  | clkCntClr => exact keeps_execClkCntClr h
  | cloadStep => exact keeps_execCloadStep h
  | pwrReqRunFast => exact keeps_execPwrReqRunFast h
  | forwardBiasSettled => exact keeps_execForwardBiasSettled h
  | pwrReqRun => exact keeps_execPwrReqRun h
  | pwrReqDoze => exact keeps_execPwrReqDoze h
  | pwrReqNap => exact keeps_execPwrReqNap h
  | pwrReqSlumber => exact keeps_execPwrReqSlumber h
  | requestInstant => exact keeps_execRequestInstant h
  | entryComplete => exact keeps_execEntryComplete h
  | wakeEvent => exact keeps_execWakeEvent h
  | exitComplete => exact keeps_execExitComplete h
  | timer => exact keeps_execTimer h
  | demand => exact keeps_execDemand h
  | domFail => exact keeps_execDomFail h
  | pwrDomOn => exact keeps_execPwrDomOn h
  | pwrCntClr => exact keeps_execPwrCntClr h
  | loftSniff => exact keeps_execLoftSniff h
  | all => exact keeps_execAll h
  | one => exact keeps_execOne h
  | violClear => exact keeps_execViolClear h
  | violCntClr => exact keeps_execViolCntClr h
  | qualifiedEdge => exact keeps_execQualifiedEdge h
  | slumberEdge => exact keeps_execSlumberEdge h
  | maskedWrite => exact keeps_execMaskedWrite h
  | holdrel => exact keeps_execHoldrel h
  | map => exact keeps_execMap h
  | por => exact keeps_execPor h
  | pin => exact keeps_execPin h
  | brown => exact keeps_execBrown h
  | dbgReset => exact keeps_execDbgReset h
  | bootRstReq => exact keeps_execBootRstReq h
  | wdtExpiry => exact keeps_execWdtExpiry h
  | wdtWarn => exact keeps_execWdtWarn h
  | kick => exact keeps_execKick h
  | resetRelease => exact keeps_execResetRelease h
  | powerUpBistEnd => exact keeps_execPowerUpBistEnd h
  | headerCheck => exact keeps_execHeaderCheck h
  | fullCheck => exact keeps_execFullCheck h
  | fwConfirm => exact keeps_execFwConfirm h
  | fwCheckEnd => exact keeps_execFwCheckEnd h
  | program => exact keeps_execProgram h
  | erase => exact keeps_execErase h
  | flashDone => exact keeps_execFlashDone h
  | bootTrial => exact keeps_execBootTrial h
  | bootCommit => exact keeps_execBootCommit h
  | bootFallback => exact keeps_execBootFallback h
  | keyProgram => exact keeps_execKeyProgram h
  | keyRevoke => exact keeps_execKeyRevoke h
  | bootGroom => exact keeps_execBootGroom h
  | bistGo => exact keeps_execBistGo h
  | bistStop => exact keeps_execBistStop h
  | slice => exact keeps_execSlice h
  | bistDone => exact keeps_execBistDone h
  | vgdUndervoltage => exact keeps_execVgdUndervoltage h
  | vgdRelease => exact keeps_execVgdRelease h
  | thermalCut => exact keeps_execThermalCut h
  | thermalCutRelease => exact keeps_execThermalCutRelease h
  | supCntClr => exact keeps_execSupCntClr h
  | cts => exact keeps_execCts h
  | sfdDetected => exact keeps_execSfdDetected h
  | sniffRfpllStart => exact keeps_execSniffRfpllStart h
  | xtalStartRetry => exact keeps_execXtalStartRetry h
  | bistPhase1End => exact keeps_execBistPhase1End h

/-- A step keeps all but the command that it takes from the front of the queue. -/
theorem keepsX_step (s : State) : KeepsX { s with pending := s.pending.tail } (step s) := by
  unfold step
  split
  · rename_i empty
    have noCommand : Keeps { s with pending := s.pending.tail } s :=
      ⟨by simp [empty], id, Nat.le_refl _, fun _ => OtpKey.grows_refl _⟩
    exact keepsX_next (keeps_tick noCommand)
  · rename_i c rest front
    rw [front]
    exact keepsX_exec c (Keeps.refl _)

/-- Settles O59: the form of memory is among what every step keeps. -/
theorem memoryFormKept : Obligations.MemoryFormKept := by
  unfold Obligations.MemoryFormKept
  intro s t formed next
  have kept := (keepsX_step s).keeps t next
  exact kept.mem formed

end Sys2Proof.Machine

/-!
Store: what a write to SRAM, loft SRAM or gallery RAM does once the yard lets it through (R6, R14, R18, R22, R23).
-/

namespace Sys2Proof.Machine

open Sys2Proof

@[simp] theorem length_leBytes (n v : Nat) : (leBytes n v).length = n := by
  induction n generalizing v with
  | zero => rfl
  | succ n ih => simp [leBytes, ih]

theorem isMemory_of_storable {t : Target} (h : storable t = true) : isMemory t = true := by
  cases t with
  | sram | loft | galRam => rfl
  | _ => exact absurd h (by simp [storable])

/-- The condition of a running test concerns registers only (R409). -/
theorem bistBreaks_of_storable {t : Target} (h : storable t = true) (s : State) (off : Nat) (d : W32) :
    bistBreaks s t off d = false := by
  cases t with
  | sram | loft | galRam => rfl
  | _ => exact absurd h (by simp [storable])

/-- A transaction of any size that the yard lets through to its target, and that the target accepts, is answered OKAY. -/
theorem access_go {m : Mid} {t : Target} {a d v : W32} {z : Size} {k : Kind} {f : State → Option W32 × State} {s s' : State}
    (free : stalled s m = false) (go : verdict s m (some t) a.toNat k = .go t)
    (holds : bistBreaks s t (a.toNat % 0x1000) d = false) (takes : f (served m t s) = (some v, s')) :
    access m (some t) a z k d f s = okay m v s' := by
  rw [served] at takes
  simp only [access, free, verdict_issue, go, bistBreaks_served, holds, takes, Bool.and_false, Bool.false_eq_true, if_false]
  rfl

/-- Storable memory takes an aligned write: it stores the bytes of the data's low bits. -/
theorem perform_store {m : Mid} {t : Target} {a d : W32} {z : Size} (s : State) (at_t : decodeTarget a.toNat = some t)
    (stores : storable t = true) (aligned : alignedTo a.toNat z = true) :
    perform m a z .write d s = (some 0, { s with mem := s.mem.writeN a.toNat (leBytes (sizeBytes z) d.toNat) }) := by
  simp [perform, performWrite, at_t, aligned, stores, isMemory_of_storable stores]

/-- A write to storable memory that the yard lets through is the transaction and the store of its bytes, nothing else. -/
theorem transact_store {m : Mid} {t : Target} {a d : W32} {z : Size} {s : State} (at_t : decodeTarget a.toNat = some t)
    (stores : storable t = true) (aligned : alignedTo a.toNat z = true) (free : stalled s m = false)
    (go : verdict s m (some t) a.toNat .write = .go t) :
    transact m a z .write d s =
      okay m 0 { served m t s with mem := s.mem.writeN a.toNat (leBytes (sizeBytes z) d.toNat) } := by
  have takes := perform_store (m := m) (d := d) (served m t s) at_t stores aligned
  rw [served_mem] at takes
  rw [transact, at_t]
  exact access_go free go (bistBreaks_of_storable stores s _ d) takes

/-- Settles O1: `transact_store` gives the next state, and the laws of memory what it reads. -/
theorem memoryStore : Obligations.MemoryStore := by
  unfold Obligations.MemoryStore
  intro s m addr data z t formed at_t stores aligned free go
  have stored := transact_store (d := data) at_t stores aligned free go
  refine ⟨_, congrArg Host.Outcome.next stored, rfl, ?_, fun x outside => ?_⟩
  · have same := Mem.readN_writeN_same s.mem addr.toNat (leBytes (sizeBytes z) data.toNat) formed
    rwa [length_leBytes] at same
  · refine Mem.read_writeN_other s.mem addr.toNat _ formed ?_
    rwa [length_leBytes]

end Sys2Proof.Machine

/-!
Refusals: writes that the yard lets through and their target refuses, and writes that the gate denies (R19, R22, R39, R343 to R346).
-/

namespace Sys2Proof.Machine

open Sys2Proof

/-- A transaction of any size that the yard lets through to its target, and that the target does not accept, is answered SLVERR;
so is one that would break the condition of a running test (R409). -/
theorem access_refused {m : Mid} {t : Target} {a d : W32} {z : Size} {k : Kind} {f : State → Option W32 × State} {s : State}
    (free : stalled s m = false) (go : verdict s m (some t) a.toNat k = .go t)
    (refuses : f (served m t s) = (none, served m t s)) :
    access m (some t) a z k d f s = respond (served m t s) m a k .slverr 0 := by
  rw [served] at refuses ⊢
  simp only [access, free, verdict_issue, go, refuses, Bool.false_eq_true, if_false, ite_self]

/-- A register target takes no write but a 32-bit one at a multiple of 4 (R22). -/
theorem perform_notWord {m : Mid} {t : Target} {a d : W32} {z : Size} (s : State) (at_t : decodeTarget a.toNat = some t)
    (register : isMemory t = false) (notWord : z ≠ .b32 ∨ a.toNat % 4 ≠ 0) : perform m a z .write d s = (none, s) := by
  have refused : performWrite m t a.toNat z d s = (false, s) := by
    rw [performWrite]
    split
    · rfl
    · rename_i aligned
      have narrow : z ≠ .b32 := by
        rintro rfl
        simp_all [alignedTo, sizeBytes]
      simp [register, narrow]
  simp only [perform, at_t, refused]

/-- What a transaction that its gate does not permit meets (R19, R345). -/
theorem verdict_deny {s : State} {m : Mid} {t : Target} {a : Nat} {k : Kind} (denied : gatePermits s m t a k = false) :
    verdict s m (some t) a k = .deny t := by
  simp [verdict, denied]

/-- A transaction that its gate does not permit is captured there and answered DENY (R345, R346). -/
theorem access_denied {m : Mid} {t : Target} {a d : W32} {z : Size} {k : Kind} {f : State → Option W32 × State} {s : State}
    (free : stalled s m = false) (denied : gatePermits s m t a.toNat k = false) :
    access m (some t) a z k d f s = respond (captureDeny (issue s) m t a k) m a k .deny 0 := by
  simp only [access, free, verdict_issue, verdict_deny denied, Bool.false_eq_true, if_false]

/-- Issuing a transaction leaves the access tables as they were. -/
theorem issue_act (s : State) : (issue s).act = s.act := rfl

/-- A violation changes the access tables only (R346). -/
theorem captureDeny_frame (s : State) (m : Mid) (t : Target) (a : W32) (k : Kind) :
    captureDeny s m t a k = { s with act := (captureDeny s m t a k).act } := by
  rw [captureDeny]
  split <;> rfl

/-- While the access tables are usable, a violation is counted, and captured at the target's gate alone: the first one after a
clear with its region, a later one as OVF (R346, R354). -/
theorem captureDeny_act {s : State} {m : Mid} {t : Target} {a : W32} {k : Kind} (usable : unusable s 4 = false) :
    (captureDeny s m t a k).act.cnt = satInc s.act.cnt 65535 ∧ (captureDeny s m t a k).act.ie = s.act.ie ∧
    (∀ g, g ≠ gateOf t → (captureDeny s m t a k).act.gate[g] = s.act.gate[g]) ∧
    (captureDeny s m t a k).act.gate[gateOf t] = { s.act.gate[gateOf t] with
      viol := some (s.act.gate[gateOf t].viol.elim
        { addr := a, mid := m, kind := k, region := regionOf s.act.gate[gateOf t] (bankAddr s t a.toNat), ovf := false }
        (fun v => { v with ovf := true })) } := by
  simp only [captureDeny, usable, Bool.false_eq_true, if_false, upd_same]
  refine ⟨trivial, trivial, fun g other => upd_other _ _ _ _ other, ?_⟩
  cases s.act.gate[gateOf t].viol <;> rfl

/-- Settles O2: the yard lets the narrow or misaligned write through and the target refuses it; the gate's denial is captured. -/
theorem refusedWrites : Obligations.RefusedWrites := by
  unfold Obligations.RefusedWrites
  refine ⟨fun s m addr data z t at_t register notWord free go => ?_, fun s m addr data z t at_t free denied usable => ?_⟩
  · have refuses := perform_notWord (m := m) (d := data) (served m t s) at_t register notWord
    refine congrArg Host.Outcome.next ?_
    rw [transact, at_t]
    exact access_refused free go refuses
  · have answer := access_denied (z := z) (d := data) (f := perform m addr z .write data) free denied
    rw [← at_t, captureDeny_frame] at answer
    obtain ⟨cnt, ie, others, gate⟩ := captureDeny_act (s := issue s) (m := m) (t := t) (a := addr) (k := .write) usable
    refine ⟨_, congrArg Host.Outcome.next answer, rfl, cnt, ie, others, gate.trans ?_⟩
    rw [issue_act]
    cases s.act.gate[gateOf t].viol <;> rfl

end Sys2Proof.Machine

/-!
Timeouts: a transaction that waits for too long, and the clears of the yard's capture, counters and PEAK (R38, R39, R42).
-/

namespace Sys2Proof.Machine

open Sys2Proof

/-- Serving a transaction leaves those that wait as they were. -/
@[simp] theorem served_waiting (m : Mid) (t : Target) (s : State) : (served m t s).yard.waiting = s.yard.waiting := by
  obtain ⟨_, e⟩ := served_frame m t s
  rw [e]

/-- A write to memory stores its bytes or, misaligned or to memory that takes no store, changes nothing (R22, R24). -/
theorem performWrite_memory {t : Target} (m : Mid) (a : Nat) (z : Size) (d : W32) (s : State) (memory : isMemory t = true) :
    (performWrite m t a z d s).2 = s ∨
    (performWrite m t a z d s).2 = { s with mem := s.mem.writeN a (leBytes (sizeBytes z) d.toNat) } := by
  simp only [performWrite, memory, if_true]
  split
  · exact .inl rfl
  · split
    · exact .inr rfl
    · exact .inl rfl

/-- A read of memory changes nothing (R22). -/
theorem performRead_memory {t : Target} (m : Mid) (a : Nat) (z : Size) (s : State) (memory : isMemory t = true) :
    (performRead m t a z s).2 = s := by
  simp only [performRead, memory, if_true]
  split <;> rfl

/-- The state after a write that a target has served. -/
theorem perform_write {t : Target} (m : Mid) {a : W32} (z : Size) (d : W32) (s : State) (at_t : decodeTarget a.toNat = some t) :
    (perform m a z .write d s).2 = (performWrite m t a.toNat z d s).2 := by
  simp only [perform, at_t]
  rcases performWrite m t a.toNat z d s with ⟨_ | _, _⟩ <;> rfl

/-- Memory that serves a transaction changes nothing but the bytes that a write stores. -/
theorem perform_memory {t : Target} (m : Mid) (a : W32) (z : Size) (k : Kind) (d : W32) (s : State)
    (at_t : decodeTarget a.toNat = some t) (memory : isMemory t = true) :
    ∃ M, (perform m a z k d s).2 = { s with mem := M } ∧
      (M = s.mem ∨ (k = .write ∧ M = s.mem.writeN a.toNat (leBytes (sizeBytes z) d.toNat))) := by
  cases k with
  | read | fetch =>
    simp only [perform, at_t]
    exact ⟨s.mem, performRead_memory m a.toNat z s memory, .inl rfl⟩
  | write =>
    rw [perform_write m z d s at_t]
    rcases performWrite_memory m a.toNat z d s memory with unchanged | stores
    · exact ⟨s.mem, unchanged, .inl rfl⟩
    · exact ⟨_, stores, .inr ⟨rfl, rfl⟩⟩

/-- The waiting transaction of a processor leaves the yard with SLVERR by the yard timeout (R38). -/
theorem serveTxn_timeout {s : State} {tag : Fin 128} {x : Txn} (d : Domain)
    (waits : s.yard.waiting.find? (fun y => y.tag = tag) = some x) (processor : x.cont = none) (notSpis : x.mid ≠ .spis) :
    serveTxn (some (d, true)) tag s =
      refuseTxn true { s with yard := { s.yard with waiting := s.yard.waiting.eraseP (fun y => y.tag = tag) } } x := by
  rw [serveTxn, waits, List.eraseP_eq_eraseIdx]
  cases place : s.yard.waiting.findIdx? (fun y => y.tag = tag) with
  | none =>
    have other := List.findIdx?_eq_none_iff.mp place x (List.mem_of_find?_eq_some waits)
    exact absurd (List.find?_some waits) (by simp [other])
  | some i =>
    simp only [goOn, processor]
    rw [noteSpis, if_neg (by simp [refuseTxn, notSpis])]

/-- What a processor's transaction that times out leaves (R38, R39). -/
theorem refuseTxn_frame (s : State) (x : Txn) : ∃ Y, refuseTxn true s x = { s with yard := Y } ∧
    Y.resp = { mid := x.mid, code := .slverr } ∧ Y.waiting = s.yard.waiting ∧
    Y.tmoCnt = satInc s.yard.tmoCnt 255 ∧ Y.slverrCnt = satInc s.yard.slverrCnt 255 ∧
    (s.yard.err = none →
      Y.err = some { mid := x.mid, kind := x.kind, tmo := true, code := .slverr, addr := x.addr, ovf := false }) := by
  refine ⟨_, rfl, rfl, rfl, rfl, rfl, fun clear => ?_⟩
  simp only [captureErr, clear]

/-- Whether the yard timeout has come for a transaction (R38, R42). -/
theorem timedOut_iff (s : State) (x : Txn) : timedOut s x = true ↔
    bit s.yard.cfg 8 = true ∧ 3072 * max (fld s.yard.cfg 7 0) 16 ≤ 5 * x.age := by
  simp [timedOut]

/-- The state once the target of a transaction that times out has performed it, or has not: a free value (R38, log 6). -/
def lateEffect (x : Txn) (s : State) : State :=
  if Config.freeBit s.free then (perform x.mid x.addr x.size x.kind x.data { s with free := s.free + 1 }).2
  else { s with free := s.free + 1 }

/-- The target of a transaction to memory that timed out has performed its write, or has not (R38). -/
theorem lateEffect_memory {x : Txn} {t : Target} (s : State) (at_t : decodeTarget x.addr.toNat = some t) (memory : isMemory t = true) :
    ∃ M, lateEffect x s = { s with mem := M, free := s.free + 1 } ∧
      (M = s.mem ∨ (x.kind = .write ∧ M = s.mem.writeN x.addr.toNat (leBytes (sizeBytes x.size) x.data.toNat))) := by
  rw [lateEffect]
  split
  · exact perform_memory x.mid x.addr x.size x.kind x.data { s with free := s.free + 1 } at_t memory
  · exact ⟨s.mem, rfl, .inl rfl⟩

/-- YARD_TIMEOUT before its time does nothing (R38). -/
theorem yardTimeout_early {s : State} {tag : Fin 128} {x : Txn} (waits : s.yard.waiting.find? (fun y => y.tag = tag) = some x)
    (early : timedOut s x = false) : exec (.yardTimeout tag) s = .next s := by
  simp only [exec, execYardTimeout, waits, early, Bool.not_false, if_true]

/-- YARD_TIMEOUT at its time: the transaction is refused, and what can then go on does (R38). -/
theorem yardTimeout_late {s : State} {tag : Fin 128} {x : Txn} (waits : s.yard.waiting.find? (fun y => y.tag = tag) = some x)
    (due : timedOut s x = true) : exec (.yardTimeout tag) s =
      .next (settle (serveTxn (some (((decodeTarget x.addr.toNat).bind domainOf).getD .yard, true)) tag (lateEffect x s))) := by
  simp only [exec, execYardTimeout, waits, due, Bool.not_true, Bool.false_eq_true, if_false, lateEffect]

/-- A write of SYS_YERR_STAT with VALID clears the capture, whatever its OVF (R39). -/
theorem effYerrStat_valid (ovf : Bool) (s : State) :
    effYerrStat (put 1 31 ||| putB ovf 30) s = { s with yard := { s.yard with err := none } } := by
  have valid : bit (put 1 31 ||| putB ovf 30) 31 = true := by cases ovf <;> rfl
  rw [effYerrStat, if_pos valid]

/-- SYS_YERR_CLR with CNT clears the four counters (R42). -/
theorem effYerrClr_counts (s : State) : effYerrClr 1 s = { s with yard := { s.yard with
    slverrCnt := 0, decerrCnt := 0, deadCnt := 0, tmoCnt := 0 } } := rfl

/-- SYS_YERR_CLR with PEAK starts PEAK at the transactions outstanding, the write itself among them (R42). -/
theorem effYerrClr_peak (s : State) : effYerrClr 2 s = { s with yard := { s.yard with peak := s.yard.waiting.length + 1 } } := rfl

/-- Settles O3: `yardTimeout_late` says what a timeout does, `lateEffect_memory` what is left open; the clears are register writes. -/
theorem yardErrors : Obligations.YardErrors := by
  unfold Obligations.YardErrors
  refine ⟨fun s tag x t waits processor notSpis at_t memory => ⟨fun early => ?_, fun enabled waited => ?_⟩,
    fun s m => ⟨fun ovf h => ?_, fun h => ?_, fun h => ?_⟩⟩
  · refine yardTimeout_early waits (Bool.eq_false_iff.mpr fun due => ?_)
    obtain ⟨enabled, waited⟩ := (timedOut_iff s x).mp due
    rcases early with disabled | short
    · simp [enabled] at disabled
    · omega
  · have due := (timedOut_iff s x).mpr ⟨enabled, waited⟩
    obtain ⟨M, lateIs, stored⟩ := lateEffect_memory s at_t memory
    have leaves := serveTxn_timeout (s := { s with mem := M, free := s.free + 1 })
      (((decodeTarget x.addr.toNat).bind domainOf).getD .yard) waits processor notSpis
    obtain ⟨Y, refused, resp, left, tmo, slverr, capture⟩ := refuseTxn_frame
      { s with mem := M, free := s.free + 1, yard := { s.yard with waiting := s.yard.waiting.eraseP (fun y => y.tag = tag) } } x
    refine ⟨{ s with mem := M, yard := Y, free := s.free + 1 }, ?_, resp, left, tmo, slverr, capture, rfl, stored⟩
    rw [yardTimeout_late waits due, lateIs, leaves, refused]
  · refine congrArg Host.Outcome.next ((busWrite_some h).trans ?_)
    rw [effYerrStat_valid]
  · refine congrArg Host.Outcome.next ((busWrite_some h).trans ?_)
    rw [effYerrClr_counts]
  · refine congrArg Host.Outcome.next ((busWrite_some h).trans ?_)
    rw [effYerrClr_peak, served_waiting]

end Sys2Proof.Machine

/-!
Claims: interrupt sources claimed and completed, and the doorbells (R27, R28, R43).
-/

namespace Sys2Proof.Machine

open Sys2Proof

/-- Which source a claim returns looks at nothing that serving a transaction changes. -/
@[simp] theorem bestSource_served (m : Mid) (t : Target) (s : State) (c : Core) : bestSource (served m t s) c = bestSource s c := by
  obtain ⟨_, e⟩ := served_frame m t s
  rw [e]
  rfl

/-- A claim where no source is presented returns 0 and changes nothing (R27). -/
theorem claim_none {c : Core} {s : State} (none_presented : bestSource s c = none) : claim c s = (0, s) := by
  simp only [claim, none_presented]

/-- A claim returns the best presented source, marks it claimed and clears its edge latch (R27). -/
theorem claim_some {c : Core} {s : State} {n : Fin 64} (best : bestSource s c = some n) :
    claim c s = (put n.val 0, { s with irq := { s.irq with
      claimed := s.irq.claimed.set n.val (some c), edge := s.irq.edge &&& ~~~ (1#64 <<< n.val) } }) := by
  simp only [claim, best]

/-- The number of a source, as a claim register holds it. -/
theorem put_source (n : Fin 64) : (put n.val 0).toNat % 64 = n.val := by
  have inRange := n.isLt
  rw [put, BitVec.toNat_ofNat, Nat.shiftLeft_zero]
  omega

/-- A completion releases a source that this core claimed, and has no other effect (R27, R28). -/
theorem complete_source (c : Core) (n : Fin 64) (s : State) : complete c (put n.val 0) s =
    if s.irq.claimed[n] = some c then { s with irq := { s.irq with claimed := s.irq.claimed.set n.val none } } else s := by
  have inRange : n.val < 64 := n.isLt
  simp only [complete, put_source, inRange, dif_pos]
  rfl

/-- What IRQ_COMPLETE does once it reaches the IRQ block. -/
theorem irqComplete_reaches {s : State} {m : Mid} {c : Core} {d : W32} (h : reaches m .irq (claimAddr c) d s = true) :
    exec (.irqComplete m c d) s = .next (okay m 0 (complete c d (served m .irq s))) :=
  congrArg Host.Outcome.next (busWrite_some h)

/-- The doorbell to the host core latches source 45 (R43). -/
theorem effDoorbell_host (s : State) : effDoorbell 1 s = edgePend 45 s := rfl

/-- The doorbell to the groom core latches source 46 (R43). -/
theorem effDoorbell_groom (s : State) : effDoorbell 2 s = edgePend 46 s := rfl

/-- Settles O4: a claim by whether a source is presented, a completion of a claimed source, and the two doorbells. -/
theorem irqCommands : Obligations.IrqCommands := by
  unfold Obligations.IrqCommands
  refine fun s m c => ⟨fun h => ?_, fun n h claimed => ?_, fun h => ?_, fun h => ?_⟩
  · have answer : exec (.irqClaim m c) s = .next (okay m (claim c (served m .irq s)).1 (claim c (served m .irq s)).2) :=
      congrArg Host.Outcome.next (busRead_reaches h)
    refine ⟨fun none_presented => ?_, fun n best => ?_⟩
    · rw [answer, claim_none (by rwa [bestSource_served])]
    · rw [answer, claim_some (by rwa [bestSource_served]), served_irq]
  · rw [irqComplete_reaches h, complete_source, served_irq, if_pos claimed]
  · refine congrArg Host.Outcome.next ((busWrite_some h).trans ?_)
    rw [effDoorbell_host, edgePend, served_irq]
  · refine congrArg Host.Outcome.next ((busWrite_some h).trans ?_)
    rw [effDoorbell_groom, edgePend, served_irq]

/-- Settles O5: a completion of a source that this core has not claimed falls to the other branch of `complete_source`. -/
theorem unclaimedCompletion : Obligations.UnclaimedCompletion := by
  unfold Obligations.UnclaimedCompletion
  intro s m c n h unclaimed
  rw [irqComplete_reaches h, complete_source, served_irq, if_neg unclaimed]

end Sys2Proof.Machine

/-!
Dropped: a route's actions that are not carried out (R30 to R32).
-/

namespace Sys2Proof.Machine

open Sys2Proof

/-- Counting dropped actions one by one or together is the same. -/
theorem satAdd_satAdd (n j k max : Nat) : satAdd (satAdd n j max) k max = satAdd n (j + k) max := by
  unfold satAdd
  grind

/-- A slot that is unarmed or in flight cannot be launched (R32). -/
theorem canLaunch_false {s : State} {k : Fin 4} (h : s.trx.arm[k].armed = false ∨ s.trx.arm[k].inflight = true) :
    canLaunch s k = false := by
  rcases h with unarmed | inflight
  · simp only [canLaunch, unarmed, Bool.false_and]
  · simp only [canLaunch, inflight, Bool.not_true, Bool.and_false, Bool.false_and]

/-- A device that neither follows nor leads is not joined to a running zone (R258). -/
theorem zlkJoined_false {s : State} (f : s.zlk.state ≠ .follower) (l : s.zlk.state ≠ .leader) : zlkJoined s = false := by
  simp [zlkJoined, f, l]

/-- The software source of TRG_FIRE with one bit set (R44). -/
theorem effTrgFire_one (k : Fin 8) (s : State) : effTrgFire ((1#8 <<< k.val).setWidth 32) s = fireAll [0x38 + k.val] s := by
  have oneBit : (List.range 8).filter (fun j => bit ((1#8 <<< k.val).setWidth 32) j) = [k.val] := by
    revert k
    decide
  simp [effTrgFire, oneBit]

/-- What follows once a source's routes have fired: TRG_LAST names it and source 47 is latched (R30). -/
def recordFire (src : Nat) (s : State) : State := edgePend 47 { s with trg := { s.trg with last := src } }

/-- A software source that one enabled route has fires that route alone (R30, R37). -/
theorem fireAll_one {src : Nat} {r : Fin 32} {s : State} (usable : unusable s 5 = false)
    (one : (idx 32).filter (routeHits s src) = [r]) : fireAll [src] s = recordFire src (fireRoute r s) := by
  have hit : (idx 32).any (routeHits s src) = true := by
    have hits : r ∈ (idx 32).filter (routeHits s src) := by simp [one]
    exact List.any_eq_true.mpr ⟨r, List.mem_filter.mp hits⟩
  have fired : fire src s = recordFire src (fireRoute r s) := by
    simp [fire, usable, one, recordFire]
  simp only [fireAll, List.foldl_cons, List.foldl_nil, List.find?_cons, hit, usable, fired]
  rfl

/-- What a route's post, if it has one, leaves (R31). -/
def posted (r : Fin 32) (s : State) : State :=
  if bit s.trg.route[r] 13 then postMask (fld s.trg.route[r] 10 8) s.trg.mask[r] s else s

/-- A route's post changes the stalls' posts and the count of dropped actions (R31). -/
theorem posted_frame (r : Fin 32) (s : State) : ∃ v d, posted r s = { s with stl := v, trg := { s.trg with dropCnt := d } } := by
  rw [posted]
  split
  · exact postMask_frame _ _ s
  · exact ⟨s.stl, s.trg.dropCnt, rfl⟩

/-- A route's post leaves the radio and the Troax link as they were. -/
theorem posted_units (r : Fin 32) (s : State) : (posted r s).trx = s.trx ∧ (posted r s).zlk = s.zlk := by
  obtain ⟨v, d, p⟩ := posted_frame r s
  rw [p]
  exact ⟨rfl, rfl⟩

/-- The actions of a route after its post, in their order: the launch of a slot, and a Troax scene (R30, R32). -/
theorem fireRoute_eq {r : Fin 32} {slot : Fin 4} {s : State} (names : fld s.trg.route[r] 17 16 = slot.val) : fireRoute r s =
    let p := posted r s
    let t := if bit s.trg.route[r] 14 then (if canLaunch p slot then launchSlot slot p else countDrop 1 p) else p
    if bit s.trg.route[r] 15 then (if zlkJoined t then zlkQueue (fld s.trg.route[r] 10 8) t else countDrop 1 t) else t := by
  have slotIs : (⟨fld s.trg.route[r] 17 16 % 4, Nat.mod_lt _ (by decide)⟩ : Fin 4) = slot :=
    Fin.ext (by simp only [names, Nat.mod_eq_of_lt slot.isLt])
  rw [← slotIs]
  rfl

section
variable {r : Fin 32} {slot : Fin 4} {s : State} (names : fld s.trg.route[r] 17 16 = slot.val)
include names

/-- A launch that finds its slot unarmed or in flight is counted, not carried out (R32). -/
theorem fireRoute_launch_dropped (launches : bit s.trg.route[r] 14 = true) (noScene : bit s.trg.route[r] 15 = false)
    (noSlot : canLaunch (posted r s) slot = false) : fireRoute r s = countDrop 1 (posted r s) := by
  simp only [fireRoute_eq names, launches, noScene, noSlot, Bool.false_eq_true, if_true, if_false]

/-- A Troax scene that finds no running zone is counted, not queued (R32). -/
theorem fireRoute_scene_dropped (noLaunch : bit s.trg.route[r] 14 = false) (scene : bit s.trg.route[r] 15 = true)
    (noZone : zlkJoined (posted r s) = false) : fireRoute r s = countDrop 1 (posted r s) := by
  simp only [fireRoute_eq names, noLaunch, scene, noZone, Bool.false_eq_true, if_true, if_false]

/-- A launch and a Troax scene of one route that both are not carried out are counted each (R32). -/
theorem fireRoute_both_dropped (launches : bit s.trg.route[r] 14 = true) (scene : bit s.trg.route[r] 15 = true)
    (noSlot : canLaunch (posted r s) slot = false) (noZone : zlkJoined (posted r s) = false) :
    fireRoute r s = countDrop 2 (posted r s) := by
  have noZone' : zlkJoined (countDrop 1 (posted r s)) = false := noZone
  simp only [fireRoute_eq names, launches, scene, noSlot, noZone', Bool.false_eq_true, if_true, if_false]
  simp only [countDrop, satAdd_satAdd]

end

/-- Which routes a source fires looks at nothing that serving a transaction changes. -/
theorem routeHits_served (m : Mid) (t : Target) (s : State) : routeHits (served m t s) = routeHits s := by
  funext src r
  simp only [routeHits, served_trg]

/-- Whether a block is usable looks at nothing that serving a transaction changes. -/
theorem unusable_served (m : Mid) (t : Target) (s : State) (i : Nat) : unusable (served m t s) i = unusable s i := by
  simp only [unusable, served_bist, served_clk]

/-- TRG_FIRE of one software source that one route has fires that route in the IRQ block. -/
theorem trgFire_one {s : State} {m : Mid} {k : Fin 8} {r : Fin 32} (h : reaches m .irq 0x40060304 ((1#8 <<< k.val).setWidth 32) s = true)
    (usable : unusable s 5 = false) (one : (idx 32).filter (routeHits s (0x38 + k.val)) = [r]) :
    exec (.trgFire m (1#8 <<< k.val)) s = .next (okay m 0 (recordFire (0x38 + k.val) (fireRoute r (served m .irq s)))) := by
  have usable' := (unusable_served m .irq s 5).trans usable
  rw [← routeHits_served m .irq s] at one
  rw [← fireAll_one usable' one, ← effTrgFire_one]
  exact congrArg Host.Outcome.next (busWrite_some h)

/-- Settles O7: the route posts, which leaves the slot and the zone as they were, and counts what it then cannot carry out. -/
theorem droppedActions : Obligations.DroppedActions := by
  unfold Obligations.DroppedActions
  intro s m k r slot h usable one names p fired
  have answer := trgFire_one h usable one
  obtain ⟨trx, zlk⟩ := posted_units r (served m .irq s)
  rw [← served_trg m .irq s] at names ⊢
  have isP : posted r (served m .irq s) = p := by rw [posted, served_trg]
  rw [isP, served_trx] at trx
  rw [isP, served_zlk] at zlk
  have noSlot (blocked : s.trx.arm[slot].armed = false ∨ s.trx.arm[slot].inflight = true) :
      canLaunch (posted r (served m .irq s)) slot = false := canLaunch_false (by rwa [isP, trx])
  have noZone (f : s.zlk.state ≠ .follower) (l : s.zlk.state ≠ .leader) : zlkJoined (posted r (served m .irq s)) = false :=
    zlkJoined_false (by rwa [isP, zlk]) (by rwa [isP, zlk])
  refine ⟨fun launches noScene blocked => ⟨?_, trx⟩, fun noLaunch scene f l => ⟨?_, zlk⟩,
    fun launches scene blocked f l => ⟨?_, trx, zlk⟩⟩
  · rw [answer, fireRoute_launch_dropped names launches noScene (noSlot blocked), isP]
    rfl
  · rw [answer, fireRoute_scene_dropped names noLaunch scene (noZone f l), isP]
    rfl
  · rw [answer, fireRoute_both_dropped names launches scene (noSlot blocked) (noZone f l), isP]
    rfl

end Sys2Proof.Machine

/-!
Period: every command goes on, and what a period changes where nothing waits (R14, R16, log 2).
-/

namespace Sys2Proof.Machine

open Sys2Proof

/-- Every command goes on to a next state: each row of the table has a meaning, and none of them stops the block. -/
theorem exec_goesOn (c : Instr) (s : State) : ∃ t, exec c s = .next t := by
  cases c <;> exact ⟨_, rfl⟩

/-- A step with a command waiting runs it with the queue's rest. -/
theorem step_cons (c : Instr) (rest : List Instr) (s : State) :
    step { s with pending := c :: rest } = exec c { s with pending := rest } := rfl

/-- A step with no command waiting lets one CLK_YARD period pass. -/
theorem step_nil {s : State} (empty : s.pending = []) : step s = .next (tick s) := by
  rw [step, empty]

/-- A period moves the output stage of a LINEAR stall, and nothing of a stall's gate, command, set point or enable (R141). -/
theorem tickLin_frame (s : State) (n : Fin 32) (t : Stall) : (tickLin s n (tickStall t)).gate = t.gate ∧
    (tickLin s n (tickStall t)).cmd = t.cmd ∧ (tickLin s n (tickStall t)).sp = t.sp ∧ (tickLin s n (tickStall t)).en = t.en := by
  unfold tickLin linearStep
  split
  · dsimp only
    split <;> exact ⟨rfl, rfl, rfl, rfl⟩
  · exact ⟨rfl, rfl, rfl, rfl⟩

/-- What a period in which the yard's clock runs changes where nothing waits and no sniff runs. -/
theorem settle_tickSniff_idle {s : State} (nothing : s.yard.waiting = []) (port : s.yard.port = []) (quiet : s.trx.sniffing = false) :
    settle (tickSniff (tickYard s)) = tickYard s := by
  have noSniff : tickSniff (tickYard s) = tickYard s := by
    simp [tickSniff, tickYard, quiet]
  rw [noSniff]
  exact settle_idle (by simp [tickYard, nothing]) port

/-- An LTICK cycle changes PWR_LTIME and the watchdogs (R305, R376). -/
theorem tickLoft_frame (s : State) : ∃ W, tickLoft s = { s with pwr := { s.pwr with ltime := s.pwr.ltime + 1 }, wdt := W } := by
  simp only [tickLoft, List.foldl_cons, List.foldl_nil]
  repeat' split
  all_goals exact ⟨_, rfl⟩

/-- A period where nothing waits and no sniff runs: the yard's counters of time if its clock runs, and PWR_LTIME and the watchdogs. -/
theorem tick_idle {s : State} (nothing : s.yard.waiting = []) (port : s.yard.port = []) (quiet : s.trx.sniffing = false) :
    ∃ H L W, tick s = { (if clocksBack s then tickYard s else s) with
      time := s.time + 1, ltHalf := H, pwr := { s.pwr with ltime := L }, wdt := W } := by
  unfold tick
  rw [settle_tickSniff_idle nothing port quiet]
  have pwr : (if clocksBack s then tickYard s else s).pwr = s.pwr := by split <;> rfl
  have time : (if clocksBack s then tickYard s else s).time = s.time := by split <;> rfl
  generalize (if clocksBack s then tickYard s else s) = u at pwr time
  rw [← pwr, ← time]
  dsimp only
  split
  · obtain ⟨W, e⟩ := tickLoft_frame { u with ltHalf := u.ltHalf + 2 - 9375 }
    rw [e]
    exact ⟨_, _, W, rfl⟩
  · exact ⟨_, _, _, rfl⟩

/-- A stall after a period of the yard's clock. -/
theorem tickYard_stl (s : State) (n : Fin 32) : (tickYard s).stl[n] = tickLin s n (tickStall s.stl[n]) := by
  simp [tickYard]

/-- Settles O57: `exec_goesOn` for the commands, `tick_idle` for the period, and of a stall `tickLin_frame`. -/
theorem stepTakesFront : Obligations.StepTakesFront := by
  unfold Obligations.StepTakesFront
  refine fun s => ⟨fun c rest => step_cons c rest s, fun c => exec_goesOn c s, fun empty nothing port quiet => ?_⟩
  obtain ⟨H, L, W, period⟩ := tick_idle nothing port quiet
  refine ⟨_, (step_nil empty).trans (congrArg Host.Outcome.next period), ?_⟩
  by_cases running : clocksBack s = true
  · rw [if_pos running]
    refine ⟨rfl, empty, rfl, rfl, rfl, rfl, fun n => ?_⟩
    have stall := tickLin_frame s n s.stl[n]
    rwa [← tickYard_stl] at stall
  · rw [if_neg running]
    exact ⟨rfl, empty, rfl, rfl, rfl, rfl, fun n => ⟨rfl, rfl, rfl, rfl⟩⟩

end Sys2Proof.Machine

/-!
AfterReset: the registers of the block right after reset, and its stalls (R133, R135, log 5).
-/

namespace Sys2Proof.Machine

open Sys2Proof

/-- Every stall of the reset state is the stall of R133, with its own tables (R135). -/
theorem reset_stl (n : Fin 32) : State.reset.stl[n] = Stall.atReset n :=
  foldl_idx (fun n _ => Stall.atReset n) _ n

/-- The lanes of a stall at reset (R135). -/
theorem stallAtReset_lane (n : Fin 32) (j : Fin 4) : (Stall.atReset n).lane[j] = Lane.atReset n j := by
  match j with
  | 0 | 1 | 2 | 3 => rfl

/-- At reset every lane is open, and lane 0 alone is enabled, and therefore frozen (R133, R135). -/
theorem laneAtReset (n : Fin 32) (j : Fin 4) : bit (Lane.atReset n j).ctrl 31 = false ∧
    bit (Lane.atReset n j).ctrl 30 = decide (j.val = 0) ∧ (Lane.atReset n j).frozen = decide (j.val = 0) := by
  revert n j
  decide

/-- Settles O58, block by block: the registers of a block are those of its record's defaults, and `reset_stl` gives the stalls. -/
theorem resetState : Obligations.ResetState := by
  unfold Obligations.ResetState
  refine ⟨?memory, ?queue, ?yard, ?irq, ?trg, ?cfg, ?sns, ?stl, ?clk, ?pwr, ?act, ?pio, ?boot, ?bist, ?others⟩
  case memory | queue => rfl
  case stl =>
    intro n
    simp only [reset_stl, stallAtReset_lane]
    refine ⟨rfl, rfl, rfl, laneAtReset n, fun w => ?_⟩
    exact Vector.getElem_replicate _
  case yard | irq | trg | cfg | sns | clk | pwr | act | pio | boot | bist | others => decide

end Sys2Proof.Machine

/-!
Guard: writes of a stall's registers, and the two that clear a stall's FAULT and its trip count (R64, R149, R152, R166).
-/

namespace Sys2Proof.Machine

open Sys2Proof

/-- Whether a paddock is open to a writer looks at nothing that serving a transaction changes. -/
theorem pdkOpen_served {m w : Mid} {t : Target} {s : State} {p : Fin 8} (isOpen : pdkOpen m s p) : pdkOpen m (served w t s) p := by
  unfold pdkOpen pdkState at *
  rwa [served_cfg]

/-- A writer to whom a paddock is open meets no refusal for the paddock's state (R64). -/
theorem notShut_of_pdkOpen {m : Mid} {s : State} {p : Fin 8} (isOpen : pdkOpen m s p) :
    ((pdkState s p = .loading || pdkState s p = .unparking) && m != .cfg) = false := by
  rcases isOpen with loader | ⟨notLoading, notUnparking⟩
  · simp [loader]
  · simp [notLoading, notUnparking]

/-- A write of a stall register that holds no RW field meets no write class: of an open paddock's stall it is taken, unless zero is
out of the register's range (R64, R127). -/
theorem stallWrite_noField {m : Mid} {n : Fin 32} {off : Nat} {s : State} (d : W32) (isOpen : pdkOpen m s (pdkOf n))
    (noField : stallMask off = 0) (inRange : rangeBad s.stl[n] off 0 = false) :
    stallWrite m n off d s = (true, stallTake m n off d 0 s) := by
  simpa [-Fin.getElem_fin, stallWrite, coefBad, noField, notShut_of_pdkOpen isOpen] using inRange

/-- A stall after a write that may have taken its drive: the write's own effect, with the gate low if it may no longer be driven. -/
def writtenAs (t u : Stall) : Prop := u = t ∨ u = gateLow t

/-- A stall updated and its gate cut where it may no longer be driven: nothing but this stall changes. -/
theorem cutGate_updStl (n : Fin 32) (f : Stall → Stall) (s : State) :
    ∃ V, cutGate n (updStl s n f) = { s with stl := V } ∧ writtenAs (f s.stl[n]) V[n] ∧ ∀ i, i ≠ n → V[i] = s.stl[i] := by
  rw [cutGate]
  split
  · exact ⟨upd s.stl n f, rfl, .inl (upd_same s.stl n f), fun i other => upd_other s.stl n i f other⟩
  · refine ⟨upd (upd s.stl n f) n gateLow, rfl, .inr ?_, fun i other => ?_⟩
    · rw [upd_same, upd_same]
    · rw [upd_other _ _ _ _ other, upd_other _ _ _ _ other]

/-- A command that writes a register of an open paddock's stall outside its lanes, without an RW field and other than CTRL, has the
register's effect on that stall alone (R64, R134, R166). -/
theorem stallCmd_noField {m : Mid} {n : Fin 32} {off : Nat} {d : W32} {s : State} (isOpen : pdkOpen m s (pdkOf n))
    (h : reaches m (.stall n) (stallAddr n off) d s = true) (noField : stallMask off = 0) (window : 0 < off ∧ off < 0x100)
    (inRange : ∀ t, rangeBad t off 0 = false) :
    ∃ V, stallCmd m n off d s = okay m 0 { served m (.stall n) s with stl := V } ∧
      writtenAs (stallSet (pdkState s (pdkOf n) = .live) s.time m off d 0 s.stl[n]) V[n] ∧ ∀ i, i ≠ n → V[i] = s.stl[i] := by
  have taken := stallWrite_noField d (pdkOpen_served (w := m) (t := .stall n) isOpen) noField (inRange _)
  have notCtrl : (off = 0 && bit (0 : W32) 31 && !((served m (.stall n) s).stl[n]).en) = false := by simp [Nat.ne_of_gt window.1]
  rw [stallTake, if_neg (by omega)] at taken
  simp only [notCtrl, Bool.false_eq_true, if_false] at taken
  obtain ⟨V, cut, written, others⟩ := cutGate_updStl n
    (stallSet (pdkState (served m (.stall n) s) (pdkOf n) = .live) (served m (.stall n) s).time m off d 0) (served m (.stall n) s)
  rw [cut] at taken
  rw [pdkState, served_cfg, served_time, served_stl] at written
  rw [served_stl] at others
  exact ⟨V, busWriteR_reaches h taken, written, others⟩

/-- CLR of STL_n_FAULT ends the stall's FAULT and its retries and clears the causes written with ones, whatever becomes of the gate
(R149, R152, R166). -/
theorem setFault_clr {d : W32} {t u : Stall} (clr : bit d 30 = true) (written : writtenAs (setFault d t) u) :
    u.active = false ∧ u.retryPend = false ∧ u.used = 0 ∧ u.waitCyc = 0 ∧ u.causes = t.causes &&& ~~~ (d.setWidth 9 &&& 0x1FE) ∧
    (u.causes = 0 → u.firstC = 0) ∧ u.en = t.en ∧ u.cmd = t.cmd := by
  have cleared : setFault d t = { t with
      drift := t.drift && !bit d 29, causes := t.causes &&& ~~~ (d.setWidth 9 &&& 0x1FE)
      firstC := if t.causes &&& ~~~ (d.setWidth 9 &&& 0x1FE) = 0 then 0 else t.firstC
      active := false, retryPend := false, used := 0, waitCyc := 0 } := if_pos clr
  rw [cleared] at written
  rcases written with rfl | rfl <;> exact ⟨rfl, rfl, rfl, rfl, rfl, fun noCause => if_pos noCause, rfl, rfl⟩

/-- Settles O22: both registers hold no RW field, so `stallCmd_noField` gives their effects, and `setFault_clr` what CLR does. -/
theorem guardCommands : Obligations.GuardCommands := by
  unfold Obligations.GuardCommands
  refine fun s m n isOpen => ⟨fun data h => ?_, fun h => ?_⟩
  · obtain ⟨V, answer, written, others⟩ := stallCmd_noField isOpen h rfl (by decide) (fun _ => rfl)
    have clr : bit (withBit data 30 true) 30 = true := bit_withBit data 30 30 true (by decide)
    obtain ⟨active, retry, used, wait, causes, first, en, cmd⟩ := setFault_clr clr written
    exact ⟨_, congrArg Host.Outcome.next answer, rfl, active, retry, used, wait, causes, first, en, cmd, others⟩
  · obtain ⟨V, answer, written, others⟩ := stallCmd_noField isOpen h rfl (by decide) (fun _ => rfl)
    exact ⟨_, congrArg Host.Outcome.next answer, rfl, written, others⟩

end Sys2Proof.Machine

/-!
Enable: a stall that is enabled again while an update is still due (R118, R125).
-/

namespace Sys2Proof.Machine

open Sys2Proof

/-- A device out of reset with paddock 7 LIVE, whose last stall was disabled after its sample: it runs on, and the update of that sample
is due in 100 periods of CLK_YARD (R118, R125). -/
def owingUpdate : State :=
  { State.reset with
    clk := { State.reset.clk with xtalOk := true, xtalOn := true, sys := { State.reset.clk.sys with st := .locked } }
    boot := { State.reset.boot with inReset := false, started := true, bootRom := false, released := true }
    pwr := { State.reset.pwr with hostOn := true }
    cfg := { State.reset.cfg with pdk := upd State.reset.cfg.pdk 7 (fun q => { q with state := .live, empty := false, lived := true }) }
    stl := upd State.reset.stl 31 (fun t => { t with run := true, leaving := true, due := some 100, frozen := false }) }

/-- STALL_ENABLE of that stall is open to the host core and reaches it. -/
theorem owingUpdate_enables : pdkOpen .hostS owingUpdate (pdkOf 31) ∧
    reaches .hostS (.stall 31) (stallAddr 31 0) (withBit 0 31 true) owingUpdate = true ∧
    owingUpdate.stl[(31 : Fin 32)].en = false ∧ owingUpdate.stl[(31 : Fin 32)].active = false ∧
    pdkState owingUpdate (pdkOf 31) = .live := by
  unfold pdkOpen
  decide

/-- Whether a stall joins the schedule in what a command answers. -/
def joinsAfter (c : Instr) (n : Fin 32) (s : State) : Bool :=
  match exec c s with
  | .next t => t.stl[n].joining
  | _ => false

/-- A stall that still owes an update does not join when it is enabled: it joins once that update is made. -/
theorem owingUpdate_joinsNot : joinsAfter (.stallEnable .hostS 31 0) 31 owingUpdate = false := by
  decide

/-- Refutes O19: STALL_ENABLE of a LIVE paddock's stall need not set `joining`. A stall that is enabled again while the update of its last
sample is still due does not join at once, but when that update is made (R118, R125). -/
theorem not_stallCommands : ¬ Obligations.StallCommands := by
  unfold Obligations.StallCommands
  intro holds
  obtain ⟨isOpen, h, disabled, noFault, isLive⟩ := owingUpdate_enables
  obtain ⟨-, enable, -⟩ := holds owingUpdate .hostS 31 isOpen
  obtain ⟨t, answer, -, -, -, -, joins, -⟩ := (enable 0 h disabled).1 noFault
  have joinsNot : t.stl[(31 : Fin 32)].joining = false := by
    have run := owingUpdate_joinsNot
    rwa [joinsAfter, answer] at run
  exact Bool.false_ne_true (joinsNot.symm.trans (joins isLive).1)

end Sys2Proof.Machine

/-!
Paddock commands: what CFG_CMD does to a paddock whose state allows the command (R65 to R68, R70, R73).
-/

namespace Sys2Proof.Machine

open Sys2Proof

/-- A write of CFG_CMD that reaches the loader is carried out there and answered OKAY (R65, R75). -/
theorem cfgCmd_reaches {m : Mid} {d : W32} {s : State} (h : reaches m .cfg 0x40040000 d s = true) :
    cfgCmd m d s = okay m 0 (effCfgCmd m d (served m .cfg s)) := busWrite_some h

/-- Whether a paddock is usable looks at nothing that serving a transaction changes. -/
theorem pdkUnusable_served (m : Mid) (t : Target) (s : State) (p : Fin 8) : pdkUnusable (served m t s) p = pdkUnusable s p := by
  rw [pdkUnusable, served_cfg, unusable_served, pdkUnusable]

/-- Whether a test runs looks at nothing that serving a transaction changes. -/
theorem underTest_served (m : Mid) (t : Target) (s : State) (i : Nat) : underTest (served m t s) i = underTest s i := by
  rw [underTest, served_bist, underTest]

section
variable {s : State} {p : Fin 8} (arg : Bool) (usable : pdkUnusable s p = false) (noTest : underTest s (32 + p.val) = false)
include usable noTest

/-- PARK of a LIVE paddock is carried out (R65). -/
theorem effPdkCmd_park (state : s.cfg.pdk[p].state = .live) : effPdkCmd 1 p arg s = effPark p arg s := by
  simp [-Fin.getElem_fin, effPdkCmd, pdkState, usable, noTest, state]

/-- LOAD of a PARKED or VERIFIED paddock is carried out while no load runs (R65). -/
theorem effPdkCmd_load (state : s.cfg.pdk[p].state = .parked ∨ s.cfg.pdk[p].state = .verified) (idle : s.cfg.load = none) :
    effPdkCmd 2 p arg s = effLoad p s := by
  simp [-Fin.getElem_fin, effPdkCmd, pdkState, usable, noTest, state, idle]

/-- UNPARK of a VERIFIED paddock, or of a PARKED one that is not EMPTY, is carried out (R65). -/
theorem effPdkCmd_unpark (state : s.cfg.pdk[p].state = .verified ∨ (s.cfg.pdk[p].state = .parked ∧ s.cfg.pdk[p].empty = false)) :
    effPdkCmd 3 p arg s = effUnpark p s := by
  simp [-Fin.getElem_fin, effPdkCmd, pdkState, usable, noTest, state]

/-- ABORT of a LOADING paddock is carried out (R65). -/
theorem effPdkCmd_abort (state : s.cfg.pdk[p].state = .loading) : effPdkCmd 4 p arg s = effAbort p s := by
  simp [-Fin.getElem_fin, effPdkCmd, pdkState, usable, noTest, state]

end

/-- CFG_CMD with the operation PARK names its paddock and its mode (R75). -/
theorem cfgCmd_park_fields (p : Fin 8) (hold : Bool) : fld (putB hold 8 ||| put p.val 4 ||| 1) 2 0 = 1 ∧
    fld (putB hold 8 ||| put p.val 4 ||| 1) 6 4 % 8 = p.val ∧ bit (putB hold 8 ||| put p.val 4 ||| 1) 8 = hold := by
  revert p hold
  decide

/-- CFG_CMD with another operation on a paddock names its paddock (R75). -/
theorem cfgCmd_fields (p : Fin 8) (op : Fin 8) : fld (put p.val 4 ||| BitVec.ofNat 32 op.val) 2 0 = op.val ∧
    fld (put p.val 4 ||| BitVec.ofNat 32 op.val) 6 4 % 8 = p.val := by
  revert p op
  decide

/-- A command to a paddock that reaches the loader (R65). -/
theorem cfgCmd_pdk {m : Mid} {op : Nat} {p : Fin 8} {d : W32} {s : State} (h : reaches m .cfg 0x40040000 d s = true)
    (isOp : fld d 2 0 = op) (paddockOp : 1 ≤ op ∧ op ≤ 4) (names : fld d 6 4 % 8 = p.val) :
    cfgCmd m d s = okay m 0 (effPdkCmd op p (bit d 8) (served m .cfg s)) := by
  rw [cfgCmd_reaches h, effCfgCmd_pdk m op p d _ isOp paddockOp names]

/-- The load of a paddock that is aborted ends with ABORTED (R65, R73). -/
theorem effAbort_eq (p : Fin 8) (s : State) : effAbort p s = { dropTask (.event .loadEnd) s with cfg := { s.cfg with
    pdk := upd s.cfg.pdk p (fun q => { q with state := .parked, empty := true, last := 0x50 })
    load := none, phase := 0, code := 0x50, errOff := 0, statPdk := p.val
    evt := withBit (withBit s.cfg.evt 1 true) 0 true } } := rfl

/-- Settles O9: each command reaches its effect, and the frame of that effect names what changes. -/
theorem paddockCommands : Obligations.PaddockCommands := by
  unfold Obligations.PaddockCommands
  intro s m p usable noTest
  have usable' := (pdkUnusable_served m .cfg s p).trans usable
  have noTest' := (underTest_served m .cfg s (32 + p.val)).trans noTest
  refine ⟨fun hold h state => ?park, fun h state => ?unpark, fun h state => ?abort⟩
  case park =>
    obtain ⟨isOp, names, mode⟩ := cfgCmd_park_fields p hold
    have answer := cfgCmd_pdk h isOp (by decide) names
    obtain ⟨P, Q, parks⟩ := effPark_frame p hold (served m .cfg s)
    rw [mode, effPdkCmd_park hold usable' noTest' (by rwa [served_cfg]), parks, served_cfg] at answer
    exact ⟨_, congrArg Host.Outcome.next answer, rfl, upd_same _ p _, fun q other => upd_other _ p q _ other⟩
  case unpark =>
    obtain ⟨isOp, names⟩ := cfgCmd_fields p 3
    have answer := cfgCmd_pdk (op := 3) h isOp (by decide) names
    obtain ⟨P, Q, S, unparks, sense, domain⟩ := effUnpark_frame p (served m .cfg s)
    rw [effPdkCmd_unpark _ usable' noTest' (by rwa [served_cfg]), unparks, served_cfg, served_stl] at answer
    exact ⟨_, congrArg Host.Outcome.next answer, rfl, upd_same _ p _, fun q other => upd_other _ p q _ other, sense, domain,
      fun n => stl_foldl p _ s.stl n⟩
  case abort =>
    obtain ⟨isOp, names⟩ := cfgCmd_fields p 4
    have answer := cfgCmd_pdk (op := 4) h isOp (by decide) names
    rw [effPdkCmd_abort _ usable' noTest' (by rwa [served_cfg]), effAbort_eq, served_cfg] at answer
    exact ⟨_, congrArg Host.Outcome.next answer, rfl, upd_same _ p _, fun q other => upd_other _ p q _ other⟩

end Sys2Proof.Machine

/-!
Load commands: loads that start, and a base load decided in software (R57, R61, R63, R65, R69, R71).
-/

namespace Sys2Proof.Machine

open Sys2Proof

/-- What a stall keeps when LOAD returns its windows to their reset values: the run state of the park mode in force (R69), held posts
(R31), and what the gallery has seen since its last record (R158, R159). -/
def keptOverLoad (n : Fin 32) (t : Stall) : Stall :=
  { Stall.atReset n with
    held := t.held, acc := t.acc, frz := t.frz, ocRun := t.ocRun, ocTrips := t.ocTrips, pendC := t.pendC
    active := t.active, drift := t.drift, firstC := t.firstC, causes := t.causes, used := t.used, waitCyc := t.waitCyc
    retryPend := t.retryPend, shortCyc := t.shortCyc, onTime := t.onTime, gate := t.gate, tripped := t.tripped
    periodAt := t.periodAt, rise := t.rise, linAcc := t.linAcc, dac := t.dac, volt := t.volt, shortSel := t.shortSel
    shortTh := t.shortTh, posts := t.posts, sawFault := t.sawFault, sawMiss := t.sawMiss, sawScene := t.sawScene
    sawSat := t.sawSat, lastMiss := t.lastMiss }

/-- The windows of a paddock and of its stalls return to their reset values (R69). -/
theorem loadReset_eq (p : Fin 8) (s : State) : loadReset p s = { s with
    stl := (stallsOf p).foldl (fun v n => upd v n (keptOverLoad n)) s.stl
    cfg := { s.cfg with pdk := upd s.cfg.pdk p (fun q => { q with tag := 0 }) } } :=
  congrArg (fun z => updPdk z p (fun q => { q with tag := 0 })) (foldl_updStl_each (stallsOf p) keptOverLoad s)

/-- LOAD resets the paddock's windows, and then starts to read its source or, where the source is no SRAM, has failed with SRC_ADDR
(R65, R69, R71). -/
theorem effLoad_cases (p : Fin 8) (s : State) : ∃ z,
    z.stl = (stallsOf p).foldl (fun v n => upd v n (keptOverLoad n)) s.stl ∧
    effLoad p s = if srcOk s.cfg.src.toNat z then beginLoad false p s.cfg.src.toNat z
      else startRun false p s.cfg.src.toNat [] (.checked 0x51 0, []) z := by
  obtain ⟨P, Q, fenced⟩ := fence_frame s
  obtain ⟨P', S, woken, -⟩ := pdkWake_frame p { s with pwr := P, pio := Q }
  unfold effLoad
  rw [fenced, woken, loadReset_eq]
  exact ⟨_, rfl, rfl⟩

/-- The stalls after LOAD (R69). -/
theorem effLoad_stl (p : Fin 8) (s : State) :
    (effLoad p s).stl = (stallsOf p).foldl (fun v n => upd v n (keptOverLoad n)) s.stl := by
  obtain ⟨z, reset, loads⟩ := effLoad_cases p s
  rw [loads, ← reset]
  split
  · obtain ⟨L, D, P, S, K, A, Y, begins, -⟩ := beginLoad_frame false p s.cfg.src.toNat z
    rw [begins]
  · obtain ⟨L, P, S, K, starts, -⟩ := startRun_frame false p s.cfg.src.toNat [] (.checked 0x51 0, []) z
    rw [starts]

/-- A source outside SRAM, or without room there for the smallest image, is no source of a partial load (R71, log 65). -/
theorem srcOk_false {src : Nat} (z : State) (outside : src < 0x20000000 ∨ 0x20080000 < src + 212) : srcOk src z = false := by
  have noRoom : (decide (0x20000000 ≤ src) && decide (src + 212 ≤ 0x20080000)) = false := by
    rw [Bool.and_eq_false_iff, decide_eq_false_iff_not, decide_eq_false_iff_not]
    omega
  rw [srcOk, noRoom, Bool.false_and]

/-- A partial load whose source is no SRAM has failed with SRC_ADDR (R71). -/
theorem effLoad_noSource {p : Fin 8} {s : State} {L : LoadRun} (outside : s.cfg.src.toNat < 0x20000000 ∨ 0x20080000 < s.cfg.src.toNat + 212)
    (runs : (effLoad p s).cfg.load = some L) : L.stage = .checked 0x51 0 := by
  obtain ⟨z, -, loads⟩ := effLoad_cases p s
  obtain ⟨L', P, S, K, starts, -, -, -, stage⟩ := startRun_frame false p s.cfg.src.toNat [] (.checked 0x51 0, []) z
  rw [loads, srcOk_false z outside, if_neg Bool.false_ne_true, starts] at runs
  exact Option.some.inj runs ▸ stage

/-- A second LOAD_BASE since reset is rejected for STATE (R61, R65). -/
theorem effLoadBase_again {s : State} (idle : s.cfg.load = none) (used : s.cfg.baseUsed = true) :
    effLoadBase s = { s with cfg := { s.cfg with rej := 2, evt := withBit s.cfg.evt 3 true } } := by
  rw [effLoadBase, if_neg (by simp [idle]), if_pos used]
  rfl

/-- The stage in which CONFIRM leaves a base load: with PASS it goes on with what its first pass gave, else it ends with SIGNATURE (R63). -/
def confirmedStage (pass : Bool) (c o : Nat) : LoadStage := if pass then .checked c o else .checked 0x21 0

/-- CONFIRM by the host core in the boot ROM decides a base load in WAIT_SWV (R63). -/
theorem effConfirm_waitSwv {s : State} {l : LoadRun} {c o : Nat} (pass : Bool) (runs : s.cfg.load = some l) (waits : l.stage = .waitSwv c o)
    (inRom : s.boot.bootRom = true) : effConfirm .hostS pass s = { s with cfg := { s.cfg with
      load := some { l with stage := confirmedStage pass c o }, phase := stagePhase (confirmedStage pass c o) } } := by
  simp [effConfirm, confirmedStage, runs, waits, inRom, setStage, updCfg]

/-- CONFIRM names its operation and its PASS (R75). -/
theorem effCfgCmd_confirm (m : Mid) (pass : Bool) (s : State) : effCfgCmd m (putB pass 8 ||| 6) s = effConfirm m pass s := by
  cases pass <;> rfl

/-- CONFIRM that reaches the loader from the host core in the boot ROM (R63). -/
theorem confirm_waitSwv {s : State} {l : LoadRun} {c o : Nat} (pass : Bool) (runs : s.cfg.load = some l) (waits : l.stage = .waitSwv c o)
    (inRom : s.boot.bootRom = true) (h : reaches .hostS .cfg 0x40040000 (putB pass 8 ||| 6) s = true) :
    exec (.confirm .hostS pass) s = .next (okay .hostS 0 { served .hostS .cfg s with cfg := { s.cfg with
      load := some { l with stage := confirmedStage pass c o }, phase := stagePhase (confirmedStage pass c o) } }) := by
  have answer := cfgCmd_reaches h
  rw [effCfgCmd_confirm, effConfirm_waitSwv pass (by rwa [served_cfg]) waits (by rwa [served_boot]), served_cfg] at answer
  exact congrArg Host.Outcome.next answer

/-- Settles O10: the frames of the three effects name what changes, `effLoad_stl` the stalls and `effLoad_noSource` the failed source. -/
theorem loadCommands : Obligations.LoadCommands := by
  unfold Obligations.LoadCommands
  refine fun s m => ⟨fun p usable noTest idle state h => ?load, fun idle h => ⟨fun fresh => ?base, fun used => ?again⟩,
    fun l c o runs waits host inRom => ⟨fun h => ?pass, fun h => ?fail⟩⟩
  case load =>
    obtain ⟨isOp, names⟩ := cfgCmd_fields p 2
    have answer := cfgCmd_pdk (op := 2) h isOp (by decide) names
    rw [effPdkCmd_load _ ((pdkUnusable_served m .cfg s p).trans usable) ((underTest_served m .cfg s (32 + p.val)).trans noTest)
      (by rwa [served_cfg]) (by rwa [served_cfg])] at answer
    obtain ⟨L, D, V, P, Q, S, K, A, Y, loads, partialLoad, ofP, fromSrc, -, -⟩ := effLoad_frame p (served m .cfg s)
    have stalls : V = _ := (congrArg State.stl loads).symm.trans (effLoad_stl p (served m .cfg s))
    have noSource (outside : (served m .cfg s).cfg.src.toNat < 0x20000000 ∨ 0x20080000 < (served m .cfg s).cfg.src.toNat + 212) :
        L.stage = .checked 0x51 0 := effLoad_noSource outside (congrArg (·.cfg.load) loads)
    obtain ⟨g, serves⟩ := served_frame m .cfg s
    rw [loads] at answer
    rw [serves] at answer noSource fromSrc stalls
    have stall (n : Fin 32) := (congrArg (·[n]) stalls).trans (stl_foldl_each p keptOverLoad s.stl n)
    exact ⟨_, L, congrArg Host.Outcome.next answer, rfl, upd_same _ p _, fun q other => upd_other _ p q _ other, partialLoad, ofP,
      fromSrc, noSource, fun n inside => (stall n).trans (if_pos inside), fun n outside => (stall n).trans (if_neg outside)⟩
  case base =>
    obtain ⟨g, serves⟩ := served_frame m .cfg s
    have answer : cfgCmd m 5 s = okay m 0 (effLoadBase (served m .cfg s)) := cfgCmd_reaches h
    obtain ⟨L, D, P, S, K, A, Y, begins, isBase, fromSrc⟩ := effLoadBase_frame (served m .cfg s) (by rwa [served_cfg]) (by rwa [served_cfg])
    rw [begins, serves] at answer
    rw [serves] at fromSrc
    exact ⟨_, L, congrArg Host.Outcome.next answer, rfl, isBase, fromSrc⟩
  case again =>
    have answer : cfgCmd m 5 s = okay m 0 (effLoadBase (served m .cfg s)) := cfgCmd_reaches h
    rw [effLoadBase_again (by rwa [served_cfg]) (by rwa [served_cfg]), served_cfg] at answer
    exact congrArg Host.Outcome.next answer
  case pass =>
    subst host
    exact confirm_waitSwv true runs waits inRom h
  case fail =>
    subst host
    exact confirm_waitSwv false runs waits inRom h

end Sys2Proof.Machine

/-!
Parking: the instants at which a paddock parks, its hold expires and it is unparked (R66 to R68, R70).
-/

namespace Sys2Proof.Machine

open Sys2Proof

/-- A check that ends a paddock's parking or unparking changes this paddock and CFG_EVT alone: a paddock for which the state `before`
has begun is in the state `after` once all its stalls are ready (R66, R70). -/
theorem endCheck_frame {p : Fin 8} {s : State} {f : Paddock → Paddock} {before after : PdkState} {ready : Bool} (i : Nat)
    (ends : (f s.cfg.pdk[p]).state = after) : ∃ W E,
    (if pdkState s p = before && s.cfg.pdk[p].begun && ready then cfgEvt i (updPdk s p f) else s) =
      { s with cfg := { s.cfg with pdk := W, evt := E } } ∧
    (∀ q, q ≠ p → W[q] = s.cfg.pdk[q]) ∧
    (s.cfg.pdk[p].state = before → s.cfg.pdk[p].begun = true → W[p].state = if ready then after else before) := by
  split
  · rename_i now
    refine ⟨_, _, rfl, fun q other => upd_other _ _ _ _ other, fun _ _ => ?_⟩
    rw [if_pos (Bool.and_eq_true_iff.mp now).2, updPdk_cfg, upd_same, ends]
  · rename_i notYet
    refine ⟨_, _, rfl, fun _ _ => rfl, fun state begun => ?_⟩
    rw [pdkState, decide_eq_true state, begun, Bool.true_and, Bool.true_and] at notYet
    rw [if_neg notYet, state]

/-- A PARKING paddock is PARKED once its four stalls are frozen (R66). -/
theorem parkCheck_frame (p : Fin 8) (s : State) : ∃ W E, parkCheck p s = { s with cfg := { s.cfg with pdk := W, evt := E } } ∧
    (∀ q, q ≠ p → W[q] = s.cfg.pdk[q]) ∧ (s.cfg.pdk[p].state = .parking → s.cfg.pdk[p].begun = true →
      W[p].state = if (stallsOf p).all (fun n => s.stl[n].frozen) then .parked else .parking) := endCheck_frame 5 rfl

/-- An UNPARKING paddock is LIVE once its four stalls have made their first update (R70). -/
theorem liveCheck_frame (p : Fin 8) (s : State) : ∃ W E, liveCheck p s = { s with cfg := { s.cfg with pdk := W, evt := E } } ∧
    (∀ q, q ≠ p → W[q] = s.cfg.pdk[q]) ∧ (s.cfg.pdk[p].state = .unparking → s.cfg.pdk[p].begun = true →
      W[p].state = if (stallsOf p).all (fun n => s.stl[n].updated) then .live else .unparking) := endCheck_frame 4 rfl

/-! ## Stalls that freeze and join -/

/-- A stall that freezes leaves the schedule, with the held command of the park mode; its gate goes low, or in the mode HOLD_OPEN stays
(R66, R67). -/
theorem freezeStall_frozen (hold : Bool) (t : Stall) : (freezeStall hold t).frozen = true ∧ (freezeStall hold t).run = false ∧
    (freezeStall hold t).held = (if hold && t.run then t.cmd else 0) ∧
    (hold = false → (freezeStall hold t).gate = false) ∧ (hold = true → (freezeStall hold t).gate = t.gate) := by
  cases hold
  · exact ⟨rfl, rfl, rfl, fun _ => rfl, nofun⟩
  · exact ⟨rfl, rfl, rfl, nofun, fun _ => rfl⟩

/-- What PARKING_START makes of a stall: it freezes at once if it is outside the schedule (R66). -/
def parkStall (hold : Bool) (t : Stall) : Stall := if t.run then { t with frozen := false } else freezeStall hold t

theorem parkStall_frozen (hold : Bool) (t : Stall) : (parkStall hold t).frozen = !t.run := by
  cases run : t.run <;> simp [parkStall, run, freezeStall_frozen]

/-- What UNPARKING_START makes of a stall: it joins the schedule if it is enabled and not in FAULT, and else counts as updated (R70). -/
def unparkStall (tick : W32) (t : Stall) : Stall :=
  if t.en && !t.active then { joinStall (some tick) t with frozen := false, updated := false }
  else { gateLow t with frozen := false, updated := true, frz := none }

theorem unparkStall_joins (tick : W32) (t : Stall) : (unparkStall tick t).frozen = false ∧
    (unparkStall tick t).updated = !(t.en && !t.active) ∧
    (t.en = true → t.active = false → (unparkStall tick t).joining = true ∧ (unparkStall tick t).first = true) := by
  cases joins : t.en && !t.active
  · refine ⟨by simp [unparkStall, joins], by simp [unparkStall, joins], fun en noFault => ?_⟩
    rw [en, noFault] at joins
    exact nomatch joins
  · simp [unparkStall, joins, joinStall]

/-! ## The instants -/

/-- PARKING_START at a tick boundary (R66). -/
theorem parkingStart_eq {p : Fin 8} {s : State} (parking : s.cfg.pdk[p].state = .parking) (before : s.cfg.pdk[p].begun = false)
    (boundary : tickNow s = true) : exec (.parkingStart p) s = .next (parkCheck p { s with
      stl := (stallsOf p).foldl (fun v n => upd v n (parkStall s.cfg.pdk[p].hold)) s.stl
      cfg := { s.cfg with pdk := upd s.cfg.pdk p (fun q => { q with begun := true, heldCyc := 0, holdRun := q.hold }) } }) := by
  have now : (s.cfg.pdk[p].state = .parking && !s.cfg.pdk[p].begun && tickNow s) = true := by
    rw [decide_eq_true parking, before, boundary]
    rfl
  have parks := foldl_updStl (stallsOf p) (parkStall s.cfg.pdk[p].hold)
    (updPdk s p (fun q => { q with begun := true, heldCyc := 0, holdRun := q.hold }))
  exact congrArg Host.Outcome.next ((if_pos now).trans (congrArg (parkCheck p) parks))

/-- UNPARKING_START at a tick boundary, with the lanes ready (R70, R97). -/
theorem unparkingStart_eq {p : Fin 8} {s : State} (unparking : s.cfg.pdk[p].state = .unparking) (before : s.cfg.pdk[p].begun = false)
    (ready : lanesReady s p = true) (running : lpeOn s = true) (boundary : tickNow s = true) :
    exec (.unparkingStart p) s = .next (liveCheck p { s with
      stl := (stallsOf p).foldl (fun v n => upd v n (unparkStall s.lpe.tick)) s.stl
      cfg := { s.cfg with pdk := upd s.cfg.pdk p (fun q => { q with begun := true }) } }) := by
  have now : (s.cfg.pdk[p].state = .unparking && !s.cfg.pdk[p].begun && lanesReady s p && lpeOn s && tickNow s) = true := by
    rw [decide_eq_true unparking, before, ready, running, boundary]
    rfl
  have unparks := foldl_updStl (stallsOf p) (unparkStall s.lpe.tick) (updPdk s p (fun q => { q with begun := true }))
  exact congrArg Host.Outcome.next ((if_pos now).trans (congrArg (liveCheck p) unparks))

/-- HOLD_EXP at the hold limit (R68, R75). -/
theorem holdExp_eq {p : Fin 8} {s : State} (holdsOpen : s.cfg.pdk[p].hold = true) (runs : s.cfg.pdk[p].holdRun = true)
    (notLive : s.cfg.pdk[p].state ≠ .live) (usable : s.cfg.pdk[p].state ≠ .unusable) (limit : holdLimit s ≤ s.cfg.pdk[p].heldCyc) :
    exec (.holdExp p) s = .next { s with
      stl := (stallsOf p).foldl (fun v n => upd v n (fun t => gateLow { t with held := 0 })) s.stl
      cfg := { s.cfg with pdk := upd s.cfg.pdk p (fun q => { q with hold := false, holdExp := true, holdRun := false })
                          evt := withBit s.cfg.evt 2 true } } := by
  have now : (s.cfg.pdk[p].hold && s.cfg.pdk[p].holdRun && s.cfg.pdk[p].state != .live && s.cfg.pdk[p].state != .unusable
      && holdLimit s ≤ s.cfg.pdk[p].heldCyc) = true := by
    rw [holdsOpen, runs, bne_iff_ne.mpr notLive, bne_iff_ne.mpr usable, decide_eq_true limit]
    rfl
  have expires := foldl_updStl (stallsOf p) (fun t => gateLow { t with held := 0 })
    (updPdk s p (fun q => { q with hold := false, holdExp := true, holdRun := false }))
  exact congrArg Host.Outcome.next ((if_pos now).trans (congrArg (cfgEvt 2) expires))

/-- Whether a stall's paddock is being parked and waits for the stall to freeze (R66). -/
def owesFreeze (n : Fin 32) (s : State) : Bool :=
  s.cfg.pdk[pdkOf n].state = .parking && s.cfg.pdk[pdkOf n].begun && !s.stl[n].frozen

theorem owesFreeze_iff (n : Fin 32) (s : State) : owesFreeze n s = true ↔
    s.cfg.pdk[pdkOf n].state = .parking ∧ s.cfg.pdk[pdkOf n].begun = true ∧ s.stl[n].frozen = false := by
  simp [owesFreeze, and_assoc]

/-- STALL_FREEZE at the stall's update instant, with the update still due: the update is carried out first, and may itself end the
paddock's wait for the stall (R66, R67, log 71). -/
theorem stallFreeze_due {n : Fin 32} {s : State} (owes : owesFreeze n s = true) (due : dueNow s n = true) :
    exec (.stallFreeze n) s = .next (
      let u := stallUpdate n s
      if owesFreeze n u then parkCheck (pdkOf n) (updStl u n (freezeStall u.cfg.pdk[pdkOf n].hold)) else u) := by
  have instant : (owesFreeze n s && (dueNow s n || !s.stl[n].run || s.stl[n].updT = some s.time)) = true := by
    rw [owes, due]
    rfl
  refine congrArg Host.Outcome.next ((if_pos instant).trans ?_)
  rw [if_pos due]
  rfl

/-- STALL_FREEZE of a stall outside the schedule, or with its update already made: it freezes at once (R66, R67). -/
theorem stallFreeze_updated {n : Fin 32} {s : State} (owes : owesFreeze n s = true) (notDue : dueNow s n = false)
    (now : s.stl[n].run = false ∨ s.stl[n].updT = some s.time) :
    exec (.stallFreeze n) s = .next (parkCheck (pdkOf n) (updStl s n (freezeStall s.cfg.pdk[pdkOf n].hold))) := by
  have instant : (owesFreeze n s && (dueNow s n || !s.stl[n].run || s.stl[n].updT = some s.time)) = true := by
    simpa [owes, notDue] using now
  refine congrArg Host.Outcome.next ((if_pos instant).trans ?_)
  rw [notDue]
  exact if_pos owes

/-- Settles O12: each instant's equation, with the check's frame, `parkStall_frozen`, `freezeStall_frozen` and `unparkStall_joins`. -/
theorem parkingEvents : Obligations.ParkingEvents := by
  unfold Obligations.ParkingEvents
  refine fun s p => ⟨fun parking before boundary => ?parks, fun n ofP parking begun thawed due => ?updates,
    fun n ofP parking begun thawed notDue now => ?freezes, fun holdsOpen runs notLive usable limit => ?expires,
    fun unparking before ready running boundary => ?unparks⟩
  case parks =>
    obtain ⟨W, E, check, others, state⟩ := parkCheck_frame p { s with
      stl := (stallsOf p).foldl (fun v n => upd v n (parkStall s.cfg.pdk[p].hold)) s.stl
      cfg := { s.cfg with pdk := upd s.cfg.pdk p (fun q => { q with begun := true, heldCyc := 0, holdRun := q.hold }) } }
    refine ⟨_, (parkingStart_eq parking before boundary).trans (congrArg Host.Outcome.next check), rfl, fun n inside => ?_,
      fun n outside => ?_, fun q other => (others q other).trans (upd_other _ _ _ _ other), state ?_ ?_⟩
    · exact (congrArg Stall.frozen ((stl_foldl p _ s.stl n).trans (if_pos inside))).trans (parkStall_frozen _ _)
    · exact (stl_foldl p _ s.stl n).trans (if_neg outside)
    · exact (congrArg Paddock.state (upd_same _ p _)).trans parking
    · exact congrArg Paddock.begun (upd_same _ p _)
  case updates =>
    subst ofP
    rw [stallFreeze_due ((owesFreeze_iff n s).mpr ⟨parking, begun, thawed⟩) due]
    simp only [owesFreeze_iff]
  case freezes =>
    subst ofP
    have answer := stallFreeze_updated ((owesFreeze_iff n s).mpr ⟨parking, begun, thawed⟩) notDue now
    obtain ⟨W, E, check, others, state⟩ := parkCheck_frame (pdkOf n) (updStl s n (freezeStall s.cfg.pdk[pdkOf n].hold))
    have stall := freezeStall_frozen s.cfg.pdk[pdkOf n].hold s.stl[n]
    rw [← upd_same s.stl n (freezeStall s.cfg.pdk[pdkOf n].hold)] at stall
    obtain ⟨frozen, stopped, held, closes, stays⟩ := stall
    exact ⟨_, answer.trans (congrArg Host.Outcome.next check), rfl, frozen, stopped, held, closes, stays,
      fun j other => upd_other s.stl n j _ other, others, state parking begun⟩
  case expires =>
    exact ⟨_, holdExp_eq holdsOpen runs notLive usable limit, rfl, upd_same _ p _, fun q other => upd_other _ p q _ other,
      fun n => stl_foldl p _ s.stl n⟩
  case unparks =>
    obtain ⟨W, E, check, others, state⟩ := liveCheck_frame p { s with
      stl := (stallsOf p).foldl (fun v n => upd v n (unparkStall s.lpe.tick)) s.stl
      cfg := { s.cfg with pdk := upd s.cfg.pdk p (fun q => { q with begun := true }) } }
    refine ⟨_, (unparkingStart_eq unparking before ready running boundary).trans (congrArg Host.Outcome.next check), rfl,
      fun n inside => ?_, fun n outside => ?_, fun q other => (others q other).trans (upd_other _ _ _ _ other), state ?_ ?_⟩
    · have joins := unparkStall_joins s.lpe.tick s.stl[n]
      rwa [← (stl_foldl p (unparkStall s.lpe.tick) s.stl n).trans (if_pos inside)] at joins
    · exact (stl_foldl p _ s.stl n).trans (if_neg outside)
    · exact (congrArg Paddock.state (upd_same _ p _)).trans unparking
    · exact congrArg Paddock.begun (upd_same _ p _)

end Sys2Proof.Machine

/-!
Sensing commands: lane enables and configuration, the auxiliary mask and the PIR channels take their writes (R87, R89, R95, R99, R102).
-/

namespace Sys2Proof.Machine

open Sys2Proof

/-- A write that the sensing block takes changes this block alone, and is answered OKAY. -/
theorem busWrite_updSns {m : Mid} {t : Target} {a : Nat} {d : W32} {eff : State → Option State} {s : State} {f : Sns → Sns}
    (h : reaches m t a d s = true) (takes : eff (served m t s) = some (updSns (served m t s) f)) :
    busWrite m t a d eff s = okay m 0 { served m t s with sns := f s.sns } := by
  rw [busWrite_reaches h takes, updSns, served_sns]

/-- Whether a paddock bars the settings of R95 looks at nothing that serving a transaction changes. -/
theorem pdkBusy_served (m : Mid) (t : Target) (s : State) (p : Fin 8) : pdkBusy (served m t s) p = pdkBusy s p := by
  rw [pdkBusy, served_cfg, pdkBusy]

/-! ## Lanes -/

/-- A bit of SNS_ADL_EN as it is written (R103). -/
theorem bit_setWidth_lane (en : BitVec 16) (k : Fin 16) : bit (en.setWidth 32) k.val = en.getLsbD k.val := by
  have inWord : k.val < 32 := by omega
  simp [bit, inWord]

/-- What a write of SNS_ADL_EN makes of a lane, by whether it is enabled now and was before (R99, R102). -/
def adlEnabled (now before : Bool) (l : Adl) : Adl :=
  if now then (if before then l else { adlRestart true l with calFail := false }) else { l with rdy := false, calRun := false }

/-- A write of SNS_ADL_EN enables and disables lanes, each as R99 and R102 say. -/
theorem effAdlEn_eq (en : BitVec 16) (s : State) : effAdlEn (en.setWidth 32) s = updSns s (fun n => { n with
    adlEn := en
    adl := (idx 16).foldl (fun v k => upd v k (adlEnabled (en.getLsbD k.val) (n.adlEn.getLsbD k.val))) n.adl }) := by
  have lane (k : Fin 16) (before : Bool) (l : Adl) :
      (if bit (en.setWidth 32) k.val && !before then { adlRestart true l with calFail := false }
        else if bit (en.setWidth 32) k.val then l else { l with rdy := false, calRun := false }) =
      adlEnabled (en.getLsbD k.val) before l := by
    rw [bit_setWidth_lane]
    cases en.getLsbD k.val <;> cases before <;> rfl
  simp only [effAdlEn, lane, BitVec.setWidth_setWidth_of_le en (show 16 ≤ 32 by decide), BitVec.setWidth_eq]

/-- What a write of SNS_ADL_k_CFG that is taken makes of the lane (R95, R102). -/
def adlConfigured (d : W32) (enabled : Bool) (l : Adl) : Adl :=
  let l := { l with cfg := d &&& 0x33 }
  if enabled && (calNeeded l false || calNeeded l true) then { l with rdy := false, calRun := true } else l

theorem adlConfigured_cfg (d : W32) (enabled : Bool) (l : Adl) : (adlConfigured d enabled l).cfg = d &&& 0x33 := by
  rw [adlConfigured]
  split <;> rfl

/-- SNS_ADL_k_CFG is taken while the lane's paddock is neither LIVE nor PARKING (R95). -/
theorem effAdlCfg_free {k : Fin 16} {s : State} (d : W32) (free : pdkBusy s (lanePdk k) = false) : effAdlCfg k d s =
    some (updSns s (fun n => { n with adl := upd n.adl k (adlConfigured d (n.adlEn.getLsbD k.val)) })) :=
  if_neg (Bool.eq_false_iff.mp free)

/-- SNS_ADL_k_CFG is refused while the lane's paddock is LIVE or PARKING (R95). -/
theorem effAdlCfg_busy {k : Fin 16} {s : State} (d : W32) (busy : pdkBusy s (lanePdk k) = true) : effAdlCfg k d s = none :=
  if_pos busy

/-! ## Auxiliary inputs -/

/-- A mask written during a conversion is held (R87). -/
theorem effAuxCfg_converting {i : Fin 8} {s : State} (d : W32) (converts : s.sns.auxIn = some i) :
    effAuxCfg d s = updSns s (fun n => { n with auxPend := some (d &&& 0x3FF) }) := by
  simp only [effAuxCfg, updSns, converts]

/-- A mask written while nothing is converted is taken, and starts the scan if AUX_EN is 1 (R87). -/
theorem effAuxCfg_idle {s : State} (d : W32) (idle : s.sns.auxIn = none) : effAuxCfg d s = updSns s (fun n => { n with
    auxCfg := d &&& 0x3FF, auxPend := none, auxIn := if bit n.ctrl 1 then auxLowest (d &&& 0x3FF) else none }) := by
  simp only [effAuxCfg, updSns, idle]

/-! ## PIR channels -/

/-- A PIR channel after a change that may enable or disable it (R89). -/
theorem pirChange_pir (old new : Sns) (j : Fin 2) : (pirChange old new).pir[j] =
    if pirActive new j && !pirActive old j then pirRestart true new.pir[j]
    else if pirActive new j then new.pir[j] else { new.pir[j] with det := false, settle := false } :=
  foldl_idx _ new.pir j

/-- Starting or stopping a channel leaves its settings. -/
theorem pirChange_cfg (old new : Sns) (j : Fin 2) : (pirChange old new).pir[j].cfg = new.pir[j].cfg := by
  rw [pirChange_pir]
  split
  · rfl
  · split <;> rfl

/-- What a write of SNS_PIRj_CFG makes of the sensing block (R89, R103). -/
def pirConfigured (j : Fin 2) (d : W32) (n : Sns) : Sns :=
  pirChange n { n with pir := upd n.pir j (fun p => { p with cfg := d &&& 0x3FFFF301 }) }

theorem effPirCfg_eq (j : Fin 2) (d : W32) (s : State) : effPirCfg j d s = updSns s (pirConfigured j d) := rfl

/-- SNS_PIRj_CFG takes the writable bits of a write (R103). -/
theorem pirConfigured_cfg (j : Fin 2) (d : W32) (n : Sns) : (pirConfigured j d n).pir[j].cfg = d &&& 0x3FFFF301 :=
  (pirChange_cfg _ _ j).trans (congrArg Pir.cfg (upd_same _ j _))

/-- A channel that was off and that a write enables starts afresh, while PIR_EN is 1 (R89). -/
theorem pirConfigured_starts {j : Fin 2} {d : W32} {n : Sns} (running : bit n.ctrl 2 = true) (off : bit n.pir[j].cfg 0 = false)
    (enables : bit (d &&& 0x3FFFF301) 0 = true) :
    (pirConfigured j d n).pir[j] = pirRestart true { n.pir[j] with cfg := d &&& 0x3FFFF301 } := by
  have before : pirActive n j = false := by rw [pirActive, running, off]; rfl
  have after : pirActive { n with pir := upd n.pir j (fun p => { p with cfg := d &&& 0x3FFFF301 }) } j = true := by
    rw [pirActive, running, upd_same, enables]
    rfl
  refine (pirChange_pir _ _ j).trans ?_
  rw [after, before, upd_same]
  rfl

/-- PIR_ENABLE writes EN = 1, which is a writable bit of SNS_PIRj_CFG (R89, R103). -/
theorem pirEnable_en (data : W32) : bit (withBit data 0 true &&& 0x3FFFF301) 0 = true := by
  have set : bit (withBit data 0 true) 0 = true := bit_withBit data 0 0 true (by decide)
  rw [bit] at set ⊢
  rw [BitVec.getLsbD_and, set]
  rfl

/-- Settles O15: each write reaches the sensing block, where the equation of its register says what it becomes. -/
theorem sensingCommands : Obligations.SensingCommands := by
  unfold Obligations.SensingCommands
  refine fun s m => ⟨fun en h => ?lanes, fun k data h => ⟨fun free => ?taken, fun busy => ?refused⟩,
    fun data h => ⟨fun i converts => ?held, fun idle => ?scans⟩, fun j data h => ?pir⟩
  case lanes =>
    have answer : exec (.startUpCalibration m en) s = _ :=
      congrArg Host.Outcome.next (busWrite_updSns h (congrArg some (effAdlEn_eq en _)))
    have lane := foldl_idx (fun k => adlEnabled (en.getLsbD k.val) (s.sns.adlEn.getLsbD k.val)) s.sns.adl
    exact ⟨_, answer, rfl, rfl, lane⟩
  case taken =>
    have answer : exec (.adlCfg m k data) s = _ :=
      congrArg Host.Outcome.next (busWrite_updSns h (effAdlCfg_free data ((pdkBusy_served m .sns s _).trans free)))
    refine ⟨_, answer, rfl, ?_, fun j other => upd_other _ _ _ _ other⟩
    exact (congrArg Adl.cfg (upd_same _ k _)).trans (adlConfigured_cfg _ _ _)
  case refused =>
    exact congrArg Host.Outcome.next (busWrite_refused h (effAdlCfg_busy data ((pdkBusy_served m .sns s _).trans busy)))
  case held =>
    have held := effAuxCfg_converting (s := served m .sns s) data (by rwa [served_sns])
    exact congrArg Host.Outcome.next (busWrite_updSns (eff := fun s => some (effAuxCfg data s)) h (congrArg some held))
  case scans =>
    have scans := effAuxCfg_idle (s := served m .sns s) data (by rwa [served_sns])
    exact congrArg Host.Outcome.next (busWrite_updSns (eff := fun s => some (effAuxCfg data s)) h (congrArg some scans))
  case pir =>
    have answer : exec (.pirEnable m j data) s = _ :=
      congrArg Host.Outcome.next (busWrite_updSns h (congrArg some (effPirCfg_eq j (withBit data 0 true) _)))
    refine ⟨_, answer, rfl, pirConfigured_cfg j _ s.sns, fun running off => ?_⟩
    have fresh := pirConfigured_starts running off (pirEnable_en data)
    exact ⟨congrArg Pir.armed fresh, congrArg Pir.ages fresh, congrArg Pir.det fresh, congrArg Pir.settle fresh⟩

end Sys2Proof.Machine

/-!
Slow conversions: start-up calibration, auxiliary inputs, daylight and the die temperature publish their results (R87, R90, R92, R93,
R100, R102, R331).
-/

namespace Sys2Proof.Machine

open Sys2Proof

/-- An event whose precondition holds takes its effect (log 16). -/
theorem effect_of_holds {α : Type} {c : Bool} {s t : α} (holds : c = true) : (if !c then s else t) = t := by
  rw [holds]
  rfl

/-! ## Start-up calibration -/

/-- The estimates of a lane's ranges at the end of its start-up calibration (R100, R102, log 69). -/
def calRanges (k : Fin 16) (r0 r1 : CalRun) (n : Sns) : Sns :=
  let l := n.adl[k]
  let n := if calNeeded l false && n.vrefOk then calRange k false r0 n else n
  if calNeeded l true && n.vrefOk then calRange k true r1 n else n

/-- A calibrated lane starts to convert: its rotation of references and both its channels begin afresh (R83, R102). -/
def laneStart (k : Fin 16) (n : Sns) : Sns := { n with
  adl := upd n.adl k (fun l => { l with rdy := true, calRun := false, seq := 0 })
  cs := upd (upd n.cs (slotStall k false) csForget) (slotStall k true) csForget }

theorem slotStall_ne (k : Fin 16) : slotStall k false ≠ slotStall k true := by
  simp [slotStall]

/-- Both channels of a lane that starts have forgotten their conversions. -/
theorem laneStart_cs (k : Fin 16) (b : Bool) (n : Sns) : (laneStart k n).cs[slotStall k b] = csForget n.cs[slotStall k b] := by
  cases b
  · exact (upd_other _ _ _ _ (slotStall_ne k)).trans (upd_same _ _ _)
  · exact (upd_same _ _ _).trans (congrArg csForget (upd_other _ _ _ _ (slotStall_ne k).symm))

/-- LANE_RDY of an enabled lane that calibrates, in a usable paddock (R102). -/
theorem laneRdy_eq {k : Fin 16} {s : State} (r0 r1 : CalRun) (on : snsOn s = true) (enabled : s.sns.adlEn.getLsbD k.val = true)
    (calibrates : s.sns.adl[k].calRun = true) (usable : unusable s (32 + (lanePdk k).val) = false) :
    exec (.laneRdy k r0 r1) s = .next (updSns s (fun n => laneStart k (calRanges k r0 r1 n))) := by
  have holds : (snsOn s && s.sns.adlEn.getLsbD k.val && s.sns.adl[k].calRun && !unusable s (32 + (lanePdk k).val)) = true := by
    rw [on, enabled, calibrates, usable]
    rfl
  exact congrArg Host.Outcome.next (effect_of_holds holds)

/-! ## Auxiliary inputs -/

/-- An auxiliary input with a new conversion: DATA, and its value on the sense bus (R78, R87). -/
def auxTaken (data : Nat) (a : Aux) : Aux :=
  { a with valid := true, data := data, pub := auxValue { a with valid := true, data := data } }

/-- The sensing block after the conversion of input `i`: a mask that waited is taken, the scan goes on, and its end raises the event (R87). -/
def auxConverted (i : Fin 8) (data : Nat) (n : Sns) : Sns := { n with
  aux := upd n.aux i (auxTaken data)
  auxCfg := n.auxPend.getD n.auxCfg, auxPend := none, auxIn := auxNext (n.auxPend.getD n.auxCfg) i
  evt := if auxHighest n.auxCfg i then withBit n.evt 3 true else n.evt }

/-- AUX_CONVERSION publishes the input under conversion (R78, R87). -/
theorem auxConversion_eq {i : Fin 8} {s : State} (vin vexc : Nat) (on : snsOn s = true) (converts : s.sns.auxIn = some i)
    (usable : unusable s 44 = false) : exec (.auxConversion vin vexc) s = .next (published (0x20 + i.val)
      (updSns s (auxConverted i (auxData vin (if bit s.sns.aux[i].cfg 0 then vexc else 1200000000))))) := by
  have holds : (snsOn s && !unusable s 44) = true := by
    rw [on, usable]
    rfl
  simp only [exec, execAuxConversion, converts, effect_of_holds holds]
  congr 2
  simp only [updSns, auxConverted]
  split <;> rfl

/-! ## Daylight -/

/-- Two updates of one record. -/
theorem upd_upd {α : Type} {n : Nat} (v : Vector α n) (i : Fin n) (f g : α → α) :
    upd (upd v i f) i g = upd v i (fun x => g (f x)) := by
  simp [upd]

/-- A daylight channel at the end of an integration: the net current as EXP, MANT and SAT, and its value on the sense bus (R90, R92, R100). -/
def dayTaken (current : Int) (c : Day) : Day :=
  let r := dayEncode current
  let c := dayStart { c with exp := r.1, mant := r.2.1, sat := r.2.2, valid := true }
  { c with pub := dayValue c }

/-- The state in which a daylight channel has published the end of an integration (R78, R90). -/
def dayPublished (d : Fin 2) (current : Int) (s : State) : State :=
  published (0x28 + d.val) (updSns s (fun n => { n with day := upd n.day d (dayTaken current) }))

/-- A daylight channel on the other side of a threshold, with the crossing's event (R92). -/
def dayCrossed (d : Fin 2) (event : Nat) (high : Bool) (n : Sns) : Sns :=
  snsEvt event { n with day := upd n.day d (fun c => { c with high := high }) }

/-- DAY_RESULT at the end of an integration: the result is published, and may cross a threshold (R90, R92). -/
theorem dayResult_cases {d : Fin 2} {s : State} (current : Int) (on : snsOn s = true) (usable : unusable s 46 = false)
    (enabled : bit s.sns.ctrl 3 = true) (ends : s.sns.day[d].due = 0) :
    exec (.dayResult d current) s = .next (dayPublished d current s) ∨
    ∃ event source high, exec (.dayResult d current) s =
      .next (fire source (updSns (dayPublished d current s) (dayCrossed d event high))) := by
  have holds : (snsOn s && !unusable s 46 && bit s.sns.ctrl 3 && s.sns.day[d].due = 0) = true := by
    rw [on, usable, enabled, decide_eq_true ends]
    rfl
  simp only [exec, execDayResult, effect_of_holds holds]
  split
  · exact .inr ⟨_, _, _, rfl⟩
  · split
    · exact .inr ⟨_, _, _, rfl⟩
    · exact .inl rfl

/-- What a source fires is outside the sensing block, memory, the loader and the boot controller (R30). -/
theorem fire_keeps (src : Nat) (s : State) : (fire src s).sns = s.sns ∧ (fire src s).mem = s.mem ∧ (fire src s).cfg = s.cfg ∧
    (fire src s).boot = s.boot := by
  obtain ⟨_, _, _, _, _, _, _, _, fires⟩ := fire_frame src s
  rw [fires]
  exact ⟨rfl, rfl, rfl, rfl⟩

/-- Of the sensing block a result changes its channel and at a threshold an event, and no memory, loader or boot controller. -/
theorem dayResult_frame {d : Fin 2} {s : State} (current : Int) (on : snsOn s = true) (usable : unusable s 46 = false)
    (enabled : bit s.sns.ctrl 3 = true) (ends : s.sns.day[d].due = 0) :
    ∃ t W high, exec (.dayResult d current) s = .next t ∧
      t.sns = { s.sns with evt := W, day := upd s.sns.day d (fun c => { dayTaken current c with high := high }) } ∧
      t.mem = s.mem ∧ t.cfg = s.cfg ∧ t.boot = s.boot := by
  rcases dayResult_cases current on usable enabled ends with answer | ⟨event, source, high, answer⟩
  · exact ⟨_, s.sns.evt, s.sns.day[d].high, answer, rfl, rfl, rfl, rfl⟩
  · obtain ⟨sns, mem, cfg, boot⟩ := fire_keeps source (updSns (dayPublished d current s) (dayCrossed d event high))
    have day := upd_upd s.sns.day d (dayTaken current) (fun c => { c with high := high })
    exact ⟨_, withBit s.sns.evt event true, high, answer,
      sns.trans (congrArg (fun v => ({ s.sns with evt := withBit s.sns.evt event true, day := v } : Sns)) day), mem, cfg, boot⟩

/-! ## Die temperature -/

/-- TEMP and its validity are published, whether or not TEMP_HI is raised (R93). -/
theorem publishTemp_frame (t : BitVec 16) (n : Sns) : ∃ A E, publishTemp t n =
    { n with tempData := t, tempValid := true, tempArmed := A, evt := E } := by
  simp only [publishTemp]
  split
  · exact ⟨_, _, rfl⟩
  · split <;> exact ⟨_, _, rfl⟩

/-- TRX_TIME is not advanced unless its advance waits for a temperature (R329). -/
theorem advanceTrx_settled {s : State} (settled : s.pwr.tadj = false) : advanceTrx s = s := by
  simp [advanceTrx, settled]

/-- The drop from RUN-FAST changes power and clocks alone, at 115 °C or more (R331). -/
theorem fastDrop_frame (s : State) : ∃ P C, fastDrop s = { s with pwr := P, clk := C } ∧
    (s.pwr.state = .runFast → 7360 ≤ s.sns.temp.toInt → P.state = .run ∧ C.fast = false) ∧
    (s.sns.temp.toInt < 7360 → P = s.pwr ∧ C = s.clk) := by
  rw [fastDrop]
  split
  · rename_i hot
    obtain ⟨_, hot⟩ := Bool.and_eq_true_iff.mp hot
    refine ⟨_, _, rfl, fun _ _ => ⟨rfl, rfl⟩, fun cool => ?_⟩
    exact absurd (of_decide_eq_true hot) (by omega)
  · rename_i stays
    refine ⟨_, _, rfl, fun fast hot => ?_, fun _ => ⟨rfl, rfl⟩⟩
    exact absurd (Bool.and_eq_true_iff.mpr ⟨decide_eq_true fast, decide_eq_true hot⟩) stays

/-- The sensing block with a new die temperature, and the VREF factor that follows from it (R84). -/
def tempTaken (t : BitVec 16) (s : State) : State :=
  updSns s (fun n => { n with temp := t, tFactor := vrefFactor s.boot.otpC1 s.boot.otpC2 t.toInt })

/-- TEMP_MEASUREMENT while the sensor runs (R84, R93, R331). -/
theorem tempMeasurement_eq {s : State} (t : BitVec 16) (on : snsOn s = true) (runs : bit s.sns.ctrl 4 = true ∨ s.sns.adlEn ≠ 0)
    (settled : s.pwr.tadj = false) : exec (.tempMeasurement t) s = .next (fastDrop
      (if bit s.sns.ctrl 4 then published 0x2A (updSns (tempTaken t s) (publishTemp t)) else tempTaken t s)) := by
  have holds : (snsOn s && (bit s.sns.ctrl 4 || s.sns.adlEn != 0 || s.pwr.tadj)) = true := by
    rw [on, settled, Bool.or_false, Bool.true_and, Bool.or_eq_true, bne_iff_ne]
    exact runs
  refine congrArg Host.Outcome.next ((effect_of_holds holds).trans (congrArg fastDrop (advanceTrx_settled ?_)))
  split <;> exact settled

/-- What a measurement publishes while TEMP_EN is 1 leaves the temperature taken; the channels stay as they were (R93). -/
theorem publishTemp_tempTaken (t : BitVec 16) (s : State) : ∃ V N, (if bit s.sns.ctrl 4 then
      published 0x2A (updSns (tempTaken t s) (publishTemp t)) else tempTaken t s) = { s with stl := V, sns := N } ∧
    N.temp = t ∧ N.cs = s.sns.cs ∧ (bit s.sns.ctrl 4 = true → N.tempData = t ∧ N.tempValid = true) ∧
    (bit s.sns.ctrl 4 = false → N.tempData = s.sns.tempData) := by
  split
  · rename_i enabled
    obtain ⟨A, E, publishes⟩ := publishTemp_frame t (tempTaken t s).sns
    rw [updSns, publishes]
    exact ⟨_, _, rfl, rfl, rfl, fun _ => ⟨rfl, rfl⟩, fun off => nomatch enabled.symm.trans off⟩
  · rename_i off
    exact ⟨s.stl, _, rfl, rfl, rfl, fun enabled => absurd enabled off, fun _ => rfl⟩

/-- Settles O14: the equation of each conversion, with what `laneStart`, `auxConverted`, `dayTaken` and `fastDrop` make of the state. -/
theorem slowConversions : Obligations.SlowConversions := by
  unfold Obligations.SlowConversions
  refine fun s on => ⟨fun k r0 r1 enabled calibrates usable => ?lane, fun i vin vexc converts usable => ?aux,
    fun d current usable enabled ends => ?day, fun v runs settled => ?temp⟩
  case lane =>
    have started : (laneStart k (calRanges k r0 r1 s.sns)).adl[k] = _ := upd_same _ k _
    have forgotten b := laneStart_cs k b (calRanges k r0 r1 s.sns)
    exact ⟨_, laneRdy_eq r0 r1 on enabled calibrates usable, rfl, congrArg Adl.rdy started, congrArg Adl.calRun started,
      congrArg Adl.seq started, fun b => ⟨congrArg Cs.x1 (forgotten b), congrArg Cs.cnt (forgotten b)⟩⟩
  case aux =>
    have taken (data : Nat) : (auxConverted i data s.sns).aux[i] = auxTaken data s.sns.aux[i] := upd_same _ i _
    refine ⟨_, auxConversion_eq vin vexc on converts usable, rfl, congrArg Aux.valid (taken _), ?_, congrArg Aux.data (taken _),
      fun j other => upd_other _ _ _ _ other, rfl, rfl, fun last => ?_⟩
    · exact (congrArg Aux.pub (taken _)).trans (congrArg auxValue (taken _)).symm
    · exact (congrArg (bit · 3) (if_pos last)).trans (bit_withBit _ 3 3 true (by decide))
  case day =>
    obtain ⟨t, W, high, answer, sns, mem, cfg, boot⟩ := dayResult_frame current on usable enabled ends
    have taken : t.sns.day[d] = { dayTaken current s.sns.day[d] with high := high } := by rw [sns]; exact upd_same _ d _
    refine ⟨t, answer, ?_, ?_, ?_, fun j other => ?_, by rw [sns], mem, cfg, boot⟩
    · exact congrArg Day.valid taken
    · rw [taken]; rfl
    · rw [taken]; rfl
    · rw [sns]; exact upd_other _ _ _ _ other
  case temp =>
    obtain ⟨V, N, measured, temp, cs, published, kept⟩ := publishTemp_tempTaken v s
    obtain ⟨P, C, drops, hot, cool⟩ := fastDrop_frame { s with stl := V, sns := N }
    have answer := tempMeasurement_eq v on runs settled
    rw [measured, drops] at answer
    dsimp only at hot cool
    rw [temp] at hot cool
    exact ⟨_, answer, temp, published, kept, hot, cool, rfl, rfl, cs⟩

end Sys2Proof.Machine

/-!
Sampling: the loop tick, a stall's sample and its computation (R78, R117 to R120, R123).
-/

namespace Sys2Proof.Machine

open Sys2Proof

/-! ## The tick -/

/-- A stall at a tick boundary: it may sample again, and if it joins it is taken in at this tick (R117, R120). -/
def takenIn (tick : W32) (t : Stall) : Stall :=
  { t with sampled := false, joinT := if t.joining && t.joinT.isNone then some tick else t.joinT }

/-- LPE_TICK at a tick boundary (R117, R120). -/
theorem lpeTick_eq {s : State} (on : lpeOn s = true) (boundary : s.lpe.tickDue = 0) : exec .lpeTick s = .next { s with
    lpe := { s.lpe with tick := s.lpe.tick + 1, tickLoad := 0, tickDue := tickLen }
    stl := s.stl.map (takenIn (s.lpe.tick + 1))
    sns := { s.sns with cs := s.sns.cs.map (fun c => { c with now := false }) } } := by
  have now : (lpeOn s && decide (s.lpe.tickDue = 0)) = true := by rw [on, decide_eq_true boundary]; rfl
  exact congrArg Host.Outcome.next (if_pos now)

/-- LPE_TICK between tick boundaries (R117). -/
theorem lpeTick_early {s : State} (early : s.lpe.tickDue ≠ 0) : exec .lpeTick s = .next s :=
  congrArg Host.Outcome.next (if_neg (by simp [early]))

/-! ## Posts -/

/-- A fold whose every step gives a value gives one of a list that is not empty. -/
theorem isSome_foldl {α β : Type} {f : Option β → α → Option β} (gives : ∀ b a, (f b a).isSome) {l : List α} (b : Option β)
    (nonempty : l ≠ []) : (l.foldl f b).isSome := by
  rw [← List.dropLast_append_getLast nonempty, List.foldl_append]
  exact gives _ _

/-- No scene wins only where no scene is posted (R123). -/
theorem posts_of_winScene_none {t : Stall} (noWinner : winScene t = none) : t.posts = 0 := by
  have noPosts : (idx 8).filter (fun k => t.posts.getLsbD k.val) = [] := by
    by_contra posted
    have wins : (winScene t).isSome := by
      refine isSome_foldl (fun b k => ?_) none posted
      cases b with
      | none => rfl
      | some a => dsimp only; split <;> rfl
    exact nomatch (congrArg Option.isSome noWinner).symm.trans wins
  refine BitVec.eq_of_getLsbD_eq fun i hi => ?_
  have unposted := List.filter_eq_nil_iff.mp noPosts ⟨i, hi⟩ (mem_idx _)
  simpa using unposted

/-- The set-point that holds once a stall has taken the scene that wins among its posts, if one does (R123). -/
def sceneSp (t : Stall) : BitVec 24 := (winScene t).elim t.sp (fun k => (t.scn[k]).extractLsb' 0 24)

/-- Two updates that agree on the record that they update. -/
theorem upd_congr {α : Type} {n : Nat} {v : Vector α n} {i : Fin n} {f g : α → α} (same : f v[i] = g v[i]) : upd v i f = upd v i g :=
  congrArg (v.set i.val) same

/-- An update of a record that leaves it as it was. -/
theorem upd_eq_self {α : Type} {n : Nat} {v : Vector α n} {i : Fin n} {f : α → α} (same : f v[i] = v[i]) : upd v i f = v := by
  rw [upd_congr (g := id) same, upd]
  exact Vector.set_getElem_self ..

/-- A stall that has taken the winning scene: it has its set-point, and no posts; what else a scene leaves is given (R123). -/
def sceneTaken (fw : Bool) (prio cur : Nat) (saw : Bool) (t : Stall) : Stall :=
  { t with sp := sceneSp t, scnFw := fw, scnPrio := prio, scnCur := cur, posts := 0, sawScene := saw }

/-- A stall takes a scene: nothing changes but the stall, and of the loop engine no count of ticks (R123). -/
theorem takeScene_frame (n : Fin 32) (s : State) : ∃ fw prio cur saw L,
    takeScene n s = { s with stl := upd s.stl n (sceneTaken fw prio cur saw), lpe := L } ∧ L.tick = s.lpe.tick := by
  unfold takeScene
  split
  · rename_i noWinner
    refine ⟨s.stl[n].scnFw, s.stl[n].scnPrio, s.stl[n].scnCur, s.stl[n].sawScene, s.lpe, ?_, rfl⟩
    rw [upd_eq_self]
    simp only [sceneTaken, sceneSp, noWinner, Option.elim_none, ← posts_of_winScene_none noWinner]
  · rename_i k wins
    have taken : updStl s n (fun t => { t with
        sp := (t.scn[k]).extractLsb' 0 24, scnFw := false, scnPrio := fld t.scn[k] 26 24, scnCur := k.val
        posts := 0, sawScene := true }) = updStl s n (sceneTaken false (fld s.stl[n].scn[k] 26 24) k.val true) := by
      rw [updStl, updStl, upd_congr]
      simp only [sceneTaken, sceneSp, wins, Option.elim_some]
    dsimp only
    rw [taken]
    split
    · exact ⟨_, _, _, _, _, rfl, rfl⟩
    · exact ⟨_, _, _, _, _, rfl, rfl⟩

/-! ## The sample -/

/-- Whether a stall is in the schedule or joins it looks at its own state there, and at the count of ticks (R120). -/
theorem inSchedule_congr {s u : State} {n : Fin 32} (joining : u.stl[n].joining = s.stl[n].joining) (at0 : u.stl[n].joinT = s.stl[n].joinT)
    (run : u.stl[n].run = s.stl[n].run) (tick : u.lpe.tick = s.lpe.tick) : inSchedule u n = inSchedule s n := by
  simp only [inSchedule, joining, at0, run, tick]

/-- The state in which a LIVE paddock's stall latches its sample: this tick's sample is taken, and the winning scene (R117, R123). -/
def atSample (n : Fin 32) (s : State) : State := takeScene n (updStl s n (fun x => { x with sampled := true }))

/-- The stall's set-point is that of the winning post, its posts are gone, and its schedule is as before (R117, R123). -/
theorem atSample_frame (n : Fin 32) (s : State) : ∃ V L, atSample n s = { s with stl := V, lpe := L } ∧ L.tick = s.lpe.tick ∧
    (∃ fw prio cur saw, V[n] = sceneTaken fw prio cur saw { s.stl[n] with sampled := true }) ∧ ∀ i, i ≠ n → V[i] = s.stl[i] := by
  obtain ⟨fw, prio, cur, saw, L, takes, tick⟩ := takeScene_frame n (updStl s n (fun x => { x with sampled := true }))
  refine ⟨_, L, takes, tick, ⟨fw, prio, cur, saw, ?_⟩, fun i other => ?_⟩
  · rw [upd_same, updStl, upd_same]
  · rw [upd_other _ _ _ _ other, updStl, upd_other _ _ _ _ other]

/-- The sense bus takes no notice of a change of one stall that leaves its command and its ramp (R105). -/
theorem senseBus_ofStall {s : State} {V : Vector Stall 32} {L : Lpe} {n : Fin 32} (c : Nat) (cmd : V[n].cmd = s.stl[n].cmd)
    (spr : V[n].spr = s.stl[n].spr) (others : ∀ i, i ≠ n → V[i] = s.stl[i]) :
    senseBus { s with stl := V, lpe := L } c = senseBus s c := by
  refine senseBus_stl s V L c fun i => ?_
  by_cases itself : i = n
  · rw [itself]
    exact ⟨cmd, spr⟩
  · rw [others i itself]
    exact ⟨rfl, rfl⟩

/-- The sense bus takes no notice of a scene (R105, R123). -/
theorem senseBus_atSample (n : Fin 32) (s : State) (c : Nat) : senseBus (atSample n s) c = senseBus s c := by
  obtain ⟨V, L, state, -, ⟨fw, prio, cur, saw, stall⟩, others⟩ := atSample_frame n s
  rw [state]
  exact senseBus_ofStall c (by rw [stall]; rfl) (by rw [stall]; rfl) others

/-- STALL_SAMPLE of a LIVE paddock's stall in the schedule, with no update pending: the stall takes its scene and latches its sample
(R117, R120, R123). -/
theorem stallSample_eq {s : State} {n : Fin 32} (on : stallOn s n = true) (now : sampleNow s n = true) (idle : s.stl[n].due = none)
    (live : pdkState s (pdkOf n) = .live) (scheduled : inSchedule s n = true) :
    exec (.stallSample n) s = .next (takeSample n s.stl[n] (bit s.lpe.sceneBy n.val) (atSample n s)) := by
  have goes : (!stallOn s n || !sampleNow s n) = false := by rw [on, now]; rfl
  have notDue : dueNow s n = false := by rw [dueNow, idle]
  have live' : pdkState (updStl s n (fun x => { x with sampled := true })) (pdkOf n) = .live := live
  have joins : inSchedule (atSample n s) n = true := by
    obtain ⟨V, L, state, tick, ⟨fw, prio, cur, saw, stall⟩, -⟩ := atSample_frame n s
    rw [state]
    refine (inSchedule_congr ?_ ?_ ?_ tick).trans scheduled
    all_goals dsimp only; rw [stall]; rfl
  rw [atSample] at joins ⊢
  simp only [exec, execStallSample, goes, notDue, idle, live', joins, Bool.false_eq_true, if_true, if_false, Option.isSome_none]

/-- A sample latches the sense bus values that each lane selects (R78). -/
theorem latch_inputs (s : State) (n : Fin 32) (old : Stall) (by0 : Bool) (j : Fin 4) :
    (latch s n old by0).fb[j] = senseBus s (fld s.stl[n].lane[j].ctrl 7 0) ∧
    (latch s n old by0).sp[j] = senseBus s (fld s.stl[n].lane[j].ctrl 15 8) :=
  ⟨Vector.getElem_map .., Vector.getElem_map ..⟩

/-- The ramp's target of a sample in LIVE is the stall's set-point (R121, R123). -/
theorem latch_target {s : State} {n : Fin 32} (old : Stall) (by0 : Bool) (live : pdkState s (pdkOf n) = .live) :
    (latch s n old by0).target = s.stl[n].sp := by
  have notUnparking : pdkState s (pdkOf n) ≠ .unparking := by rw [live]; decide
  exact if_neg notUnparking

/-- A stall that is in the schedule from this sample on (R120). -/
def scheduled (t : Stall) : Stall := { t with run := true, joining := false, joinT := none }

/-- A stall that has latched the sample `m` in the state `z`: its sample waits until the update instant (R113, R117, R118). -/
def latched (m : Samp) (z : State) (n : Fin 32) (t : Stall) : Stall :=
  { t with
    samp := some m, result := none, due := some (z.time + fld t.timing 29 24 * 1536 / 10)
    naMark := false, nbMark := false, plMark := false, rsMark := false
    lane := (idx 4).foldl (fun v j => upd v j (laneSample z n j)) t.lane }

/-- A stall's sample, in the two steps in which it is taken (R117). -/
theorem takeSample_eq (n : Fin 32) (old : Stall) (by0 : Bool) (s : State) : takeSample n old by0 s =
    let z := updStl s n scheduled
    updStl z n (latched (latch z n old by0) z n) := rfl

/-- The sample of a stall in the schedule changes that stall alone, and latches what the sense bus holds (R78, R117, R118). -/
theorem takeSample_frame (n : Fin 32) (old : Stall) (by0 : Bool) (s : State) : ∃ V m,
    takeSample n old by0 s = { s with stl := V } ∧ V[n] = latched m (updStl s n scheduled) n (scheduled s.stl[n]) ∧
    (∀ i, i ≠ n → V[i] = s.stl[i]) ∧
    (∀ j : Fin 4, m.fb[j] = senseBus s (fld s.stl[n].lane[j].ctrl 7 0) ∧ m.sp[j] = senseBus s (fld s.stl[n].lane[j].ctrl 15 8)) ∧
    (pdkState s (pdkOf n) = .live → m.target = s.stl[n].sp) := by
  have stall : (updStl s n scheduled).stl[n] = scheduled s.stl[n] := upd_same ..
  refine ⟨_, latch (updStl s n scheduled) n old by0, takeSample_eq n old by0 s, ?_, fun i other => ?_, fun j => ?_, fun live => ?_⟩
  · rw [upd_same, stall]
  · exact (upd_other _ _ _ _ other).trans (upd_other _ _ _ _ other)
  · obtain ⟨fb, sp⟩ := latch_inputs (updStl s n scheduled) n old by0 j
    have bus (c : Nat) : senseBus (updStl s n scheduled) c = senseBus s c :=
      senseBus_ofStall c (by rw [upd_same]; rfl) (by rw [upd_same]; rfl) (fun i other => upd_other _ _ _ _ other)
    rw [fb, sp, bus, bus, stall]
    exact ⟨rfl, rfl⟩
  · rw [latch_target (s := updStl s n scheduled) old by0 live, stall]
    rfl

/-- STALL_SAMPLE outside the sample instant of a stall (R117). -/
theorem stallSample_early {s : State} {n : Fin 32} (early : sampleNow s n = false) : exec (.stallSample n) s = .next s :=
  congrArg Host.Outcome.next (if_pos (by simp [early]))

/-! ## The computation -/

/-- A computation advances the echoes that inject into the stall, and changes nothing else (R155, R156). -/
theorem advanceEchoes_frame (s : State) (n : Fin 32) (r : Calc) : ∃ E, advanceEchoes s n r = { s with echo := E } := by
  refine List.foldlRecOn (motive := fun q : State => ∃ E, q = { s with echo := E }) _ _ ⟨s.echo, rfl⟩ ?_
  rintro _ ⟨E, rfl⟩ e -
  dsimp only
  split
  · exact ⟨_, rfl⟩
  · exact ⟨E, rfl⟩

/-- STALL_COMPUTE of the stall whose sample comes first (R118, R119). -/
theorem stallCompute_eq {s : State} {n : Fin 32} {m : Samp} (on : stallOn s n = true) (pends : s.stl[n].samp = some m)
    (first : nextSample s n = true) : ∃ E, exec (.stallCompute n) s = .next { s with
      stl := upd s.stl n (fun x => { x with samp := none, result := some (computeStall s n m) })
      lpe := { s.lpe with tickLoad := s.lpe.tickLoad + sampleCost m, peak := max s.lpe.peak (s.lpe.tickLoad + sampleCost m) }
      echo := E } := by
  have goes : (!stallOn s n || !nextSample s n) = false := by rw [on, first]; rfl
  obtain ⟨E, advances⟩ := advanceEchoes_frame s n (computeStall s n m)
  refine ⟨E, congrArg Host.Outcome.next ?_⟩
  rw [pends]
  refine (if_neg (Bool.eq_false_iff.mp goes)).trans ?_
  dsimp only
  rw [advances]
  rfl

/-- Settles O17: the equation of each event, with `atSample_frame` and `takeSample_frame` for what a stall latches. -/
theorem samplingAndComputing : Obligations.SamplingAndComputing := by
  unfold Obligations.SamplingAndComputing
  refine fun s => ⟨fun on boundary => ?tick, fun early => lpeTick_early early, fun n on =>
    ⟨fun now idle live scheduled => ?sample, fun early => stallSample_early early, fun m pends first => ?compute⟩⟩
  case tick =>
    refine ⟨_, lpeTick_eq on boundary, rfl, fun n => ⟨Vector.getElem_map .., (Vector.getElem_map ..).trans ?_⟩⟩
    simp only [takenIn, Bool.and_eq_true, Option.isNone_iff_eq_none]
    rfl
  case sample =>
    obtain ⟨V, L, state, -, ⟨fw, prio, cur, saw, stall⟩, others⟩ := atSample_frame n s
    obtain ⟨W, m, samples, latches, keeps, inputs, target⟩ := takeSample_frame n s.stl[n] (bit s.lpe.sceneBy n.val) (atSample n s)
    have answer := stallSample_eq on now idle live scheduled
    simp only [senseBus_atSample] at inputs
    rw [samples, state] at answer
    rw [state] at latches keeps inputs target
    dsimp only at latches keeps inputs target
    rw [stall] at latches inputs target
    refine ⟨_, m, answer, rfl, ?_⟩
    dsimp only
    rw [latches]
    refine ⟨rfl, rfl, rfl, rfl, rfl, rfl, inputs, (target live).trans ?_, rfl, fun i other => (keeps i other).trans (others i other)⟩
    change sceneSp s.stl[n] = _
    rw [sceneSp]
    cases winScene s.stl[n] <;> rfl
  case compute =>
    obtain ⟨E, answer⟩ := stallCompute_eq on pends first
    exact ⟨_, answer, rfl, upd_same .., rfl, fun i other => upd_other _ _ _ _ other⟩

end Sys2Proof.Machine

/-!
Updates: a stall's update instant: its result, a missing one, FAULT, and leaving the schedule (R104, R118, R125, R129, R130, R149, R150).
-/

namespace Sys2Proof.Machine

open Sys2Proof

/-! ## Publications -/

/-- A stall with causes added to its CAUSES, or not: what a publication may make of it (R150). -/
def causesOnly (t u : Stall) : Prop := ∃ C, u = { t with causes := C }

theorem causesOnly.trans {t u v : Stall} (first : causesOnly t u) (second : causesOnly u v) : causesOnly t v := by
  obtain ⟨C, rfl⟩ := first
  obtain ⟨D, rfl⟩ := second
  exact ⟨D, rfl⟩

/-- Causes added after one stall was updated: that stall has its update but for causes, and the others are as before but for causes. -/
theorem causesOnly_upd {v V : Vector Stall 32} {n : Fin 32} {f : Stall → Stall}
    (causes : ∀ i : Fin 32, causesOnly (upd v n f)[i] V[i]) :
    causesOnly (f v[n]) V[n] ∧ ∀ i, i ≠ n → causesOnly v[i] V[i] :=
  ⟨upd_same v n f ▸ causes n, fun i other => upd_other v n i f other ▸ causes i⟩

/-- A publication adds causes to stalls at most, and changes nothing else (R150). -/
theorem published_causes (c : Nat) (s : State) :
    ∃ V, published c s = { s with stl := V } ∧ ∀ i : Fin 32, causesOnly s.stl[i] V[i] :=
  ⟨_, rfl, fun i => published_at c s i⟩

/-- The command and the ramp of a stall are published (R116, R150). -/
theorem publishCmd_frame (n : Fin 32) (s : State) :
    ∃ V, publishCmd n s = { s with stl := V } ∧ ∀ i : Fin 32, causesOnly s.stl[i] V[i] := by
  obtain ⟨V, command, causes⟩ := published_causes (0x40 + n.val) s
  obtain ⟨W, ramp, causes'⟩ := published_causes (0x60 + n.val) { s with stl := V }
  refine ⟨W, ?_, fun i => (causes i).trans (causes' i)⟩
  rw [publishCmd, command, ramp]

/-! ## Paddocks that are LIVE -/

/-- A LIVE paddock is not being parked (R66). -/
theorem parkCheck_live {p : Fin 8} {s : State} (live : pdkState s p = .live) : parkCheck p s = s := by
  have notParking : pdkState s p ≠ .parking := by rw [live]; decide
  exact if_neg (by simp [notParking])

/-- A LIVE paddock is not being unparked (R70). -/
theorem liveCheck_live {p : Fin 8} {s : State} (live : pdkState s p = .live) : liveCheck p s = s := by
  have notUnparking : pdkState s p ≠ .unparking := by rw [live]; decide
  exact if_neg (by simp [notUnparking])

/-- An update in LIVE is not the first one of UNPARKING (R70). -/
theorem firstUpdate_live {n : Fin 32} {s : State} (done : Bool) (live : pdkState s (pdkOf n) = .live) : firstUpdate n done s = s := by
  have notUnparking : pdkState s (pdkOf n) ≠ .unparking := by rw [live]; decide
  exact if_neg (by simp [notUnparking])

/-- A stall that enters FAULT ends echoes, and changes nothing else (R163). -/
theorem echoAbort_frame (n : Fin 32) (s : State) : ∃ E W, echoAbort n s = { s with echo := E, echoEvt := W } := by
  refine List.foldlRecOn (motive := fun q : State => ∃ E W, q = { s with echo := E, echoEvt := W }) _ _ ⟨s.echo, s.echoEvt, rfl⟩ ?_
  rintro _ ⟨E, W, rfl⟩ e -
  dsimp only
  split
  · exact ⟨_, _, rfl⟩
  · exact ⟨E, W, rfl⟩

/-- A stall whose command is zero as it leaves the schedule (R125). -/
def leftStall (t : Stall) : Stall := gateLow { leaveStall t with cmd := 0 }

section
variable {n : Fin 32} {s : State} (live : pdkState s (pdkOf n) = .live)
include live

/-- A LIVE paddock's stall enters FAULT: its own part, the echoes that it ends, LPE_EVT.FAULT, and the publication of its command
(R149, R150, R163). -/
theorem faultEntry_live (cs : List Nat) : ∃ V E W, faultEntry n cs s =
      { s with stl := V, lpe := { s.lpe with evt := withBit s.lpe.evt 0 true }, echo := E, echoEvt := W } ∧
    causesOnly (faultStall cs s.stl[n]) V[n] ∧ ∀ i, i ≠ n → causesOnly s.stl[i] V[i] := by
  have notParking : s.cfg.pdk[pdkOf n].state ≠ .parking := fun parking => nomatch live.symm.trans parking
  have notUnparking : s.cfg.pdk[pdkOf n].state ≠ .unparking := fun unparking => nomatch live.symm.trans unparking
  have enters : faultEntry n cs s = liveCheck (pdkOf n) (parkCheck (pdkOf n) (published (0x40 + n.val) (echoAbort n
      { s with stl := upd s.stl n (faultStall cs), lpe := { s.lpe with evt := withBit s.lpe.evt 0 true } }))) := by
    simp only [faultEntry, notParking, notUnparking, decide_false, Bool.false_and, Bool.false_eq_true, if_false]
    rfl
  obtain ⟨E, W, aborts⟩ := echoAbort_frame n
    { s with stl := upd s.stl n (faultStall cs), lpe := { s.lpe with evt := withBit s.lpe.evt 0 true } }
  obtain ⟨V, publishes, causes⟩ := published_causes (0x40 + n.val)
    { s with stl := upd s.stl n (faultStall cs), lpe := { s.lpe with evt := withBit s.lpe.evt 0 true }, echo := E, echoEvt := W }
  refine ⟨V, E, W, ?_, causesOnly_upd causes⟩
  rw [enters, aborts, publishes, parkCheck_live (by exact live), liveCheck_live (by exact live)]

/-- A LIVE paddock's stall whose EN was cleared leaves the schedule: its command is zero, and published (R125, R150). -/
theorem leaveUpdate_live : ∃ V, leaveUpdate n s = { s with stl := V } ∧
    causesOnly (leftStall s.stl[n]) V[n] ∧ ∀ i, i ≠ n → causesOnly s.stl[i] V[i] := by
  have notParking : s.cfg.pdk[pdkOf n].state ≠ .parking := fun parking => nomatch live.symm.trans parking
  have notUnparking : s.cfg.pdk[pdkOf n].state ≠ .unparking := fun unparking => nomatch live.symm.trans unparking
  have leaves : leaveUpdate n s = liveCheck (pdkOf n) (parkCheck (pdkOf n) (publishCmd n { s with stl := upd s.stl n leftStall })) := by
    simp only [leaveUpdate, notParking, notUnparking, decide_false, Bool.false_and, Bool.false_eq_true, if_false]
    rfl
  obtain ⟨V, publishes, causes⟩ := publishCmd_frame n { s with stl := upd s.stl n leftStall }
  refine ⟨V, ?_, causesOnly_upd causes⟩
  rw [leaves, publishes, parkCheck_live (by exact live), liveCheck_live (by exact live)]

end

/-! ## The result, or its absence -/

/-- A missed update undoes the scene of its sample at most: of the loop engine LPE_EVT.SCENE and the count behind it (R130). -/
theorem undoScene_frame (n : Fin 32) (s : State) : ∃ L, undoScene n s = { s with lpe := L } := by
  unfold undoScene
  split
  · split
    · exact ⟨s.lpe, rfl⟩
    · exact ⟨_, rfl⟩
  · exact ⟨s.lpe, rfl⟩

/-- A stall with its result applied, or the miss of it (R104, R129, R130). -/
def decided (t : Stall) : Stall := t.result.elim (missStall t) (fun r => applyCalc r t)

theorem decided_result {t : Stall} {r : Calc} (computed : t.result = some r) : decided t = applyCalc r t := by
  rw [decided, computed, Option.elim_some]

theorem decided_miss {t : Stall} (missing : t.result = none) : decided t = missStall t := by
  rw [decided, missing, Option.elim_none]

/-- What every update instant leaves of a stall (R118). -/
def updatedAt (now : Nat) (t : Stall) : Stall := { t with since := satInc t.since 64, due := none, updT := some now }

/-- The state in which a stall decides on the causes present (R118, R149). -/
def committed (n : Fin 32) (s : State) : State := updStl (commitStall n s) n (updatedAt s.time)

/-- The result is applied to its stall, and changes nothing else; a missing one is noted in LPE_EVT and the map of misses (R104, R118,
R129, R130). -/
theorem committed_frame (n : Fin 32) (s : State) : ∃ L,
    committed n s = { s with stl := upd s.stl n (fun t => updatedAt s.time (decided t)), lpe := L } ∧
    (s.stl[n].result ≠ none → L = s.lpe) ∧ (s.stl[n].result = none → bit L.evt 1 = true ∧ bit L.missMap n.val = true) := by
  have decides (f : Stall → Stall) (stall : decided s.stl[n] = f s.stl[n]) :
      upd (upd s.stl n f) n (updatedAt s.time) = upd s.stl n (fun t => updatedAt s.time (decided t)) :=
    (upd_upd ..).trans (upd_congr (congrArg (updatedAt s.time) stall.symm))
  unfold committed commitStall
  split
  · rename_i r computed
    refine ⟨s.lpe, ?_, fun _ => rfl, fun missing => nomatch computed.symm.trans missing⟩
    rw [← decides _ (decided_result computed)]
    rfl
  · rename_i missing
    obtain ⟨L, undoes⟩ := undoScene_frame n s
    rw [undoes]
    refine ⟨{ L with evt := withBit L.evt 1 true, missMap := withBit L.missMap n.val true }, ?_,
      fun computed => absurd missing computed, fun _ => ⟨?_, ?_⟩⟩
    · rw [← decides _ (decided_miss missing)]
      rfl
    · exact (bit_withBit L.evt 1 1 true (by decide)).trans (if_pos rfl)
    · exact (bit_withBit L.missMap n.val n.val true n.isLt).trans (if_pos rfl)

/-- A miss leaves of a stall its command and its place in the schedule (R130). -/
theorem missStall_fields (t : Stall) : (missStall t).cmd = t.cmd ∧ (missStall t).run = t.run ∧ (missStall t).causes = t.causes ∧
    (missStall t).missLimit = t.missLimit ∧ (missStall t).miss = true ∧
    (missStall t).missCnt = satInc t.missCnt 65535 ∧ (missStall t).missRun = satInc t.missRun 255 := by
  unfold missStall
  split <;> exact ⟨rfl, rfl, rfl, rfl, rfl, rfl, rfl⟩

/-! ## The decision -/

/-- A stall without a cause pending from its over-current count has those that its result brings (R147, R149). -/
theorem causesOf_result {t u : Stall} {r : Calc} (settled : t.pendC = none) (computed : t.result = some r) :
    causesOf t u = r.cause.toList := by
  simp [causesOf, settled, computed]

/-- One without a result has MISS once the misses in succession reach LIMIT (R130, R149). -/
theorem causesOf_miss {t : Stall} (now : Nat) (settled : t.pendC = none) (missing : t.result = none) :
    causesOf t (updatedAt now (decided t)) = if t.missLimit ≤ satInc t.missRun 255 then [8] else [] := by
  obtain ⟨-, -, -, missLimit, -, -, missRun⟩ := missStall_fields t
  simp [causesOf, settled, missing, updatedAt, decided_miss missing, missLimit, missRun]

/-- No cause is present with a result that brings none, or without one while the misses stay under LIMIT (R130, R149). -/
theorem causesOf_none {t : Stall} (now : Nat) (settled : t.pendC = none) (noCause : ∀ r, t.result = some r → r.cause = none)
    (few : t.result = none → satInc t.missRun 255 < t.missLimit) : causesOf t (updatedAt now (decided t)) = [] := by
  cases result : t.result with
  | some r => rw [causesOf_result settled result, noCause r result, Option.toList_none]
  | none => rw [causesOf_miss now settled result, if_neg (Nat.not_le.mpr (few result))]

/-- The update instant of a stall, from the state in which it decides (R118, R125, R149). -/
theorem stallUpdate_eq (n : Fin 32) (s : State) : stallUpdate n s =
    let u := committed n s
    let cs := causesOf s.stl[n] u.stl[n]
    if !cs.isEmpty then faultEntry n cs u
    else if s.stl[n].en && !s.stl[n].leaving then publishCmd n (firstUpdate n s.stl[n].result.isSome u)
    else
      let v := leaveUpdate n u
      if s.stl[n].en && pdkState v (pdkOf n) = .live then updStl v n (joinStall none) else v := rfl

/-- STALL_UPDATE at the update instant of a stall in the schedule (R118). -/
theorem stallUpdate_due {n : Fin 32} {s : State} (on : stallOn s n = true) (run : s.stl[n].run = true) (due : dueNow s n = true) :
    exec (.stallUpdate n) s = .next (stallUpdate n s) := by
  simp only [exec, execStallUpdate, on, run, due, Bool.not_true, Bool.false_eq_true, if_true, if_false]

/-- STALL_UPDATE before that instant (R118). -/
theorem stallUpdate_early {n : Fin 32} {s : State} (on : stallOn s n = true) (run : s.stl[n].run = true) (early : dueNow s n = false) :
    exec (.stallUpdate n) s = .next s := by
  simp only [exec, execStallUpdate, on, run, early, Bool.not_true, Bool.false_eq_true, if_true, if_false]

section
variable {n : Fin 32} {s : State} (live : pdkState s (pdkOf n) = .live)
include live

/-- A LIVE paddock's stall on which no cause is present, and which stays in the schedule, publishes what it has (R104, R116). -/
theorem stallUpdate_stays (en : s.stl[n].en = true) (stays : s.stl[n].leaving = false)
    (noCause : causesOf s.stl[n] (updatedAt s.time (decided s.stl[n])) = []) : ∃ V L, stallUpdate n s = { s with stl := V, lpe := L } ∧
    (s.stl[n].result ≠ none → L = s.lpe) ∧ (s.stl[n].result = none → bit L.evt 1 = true ∧ bit L.missMap n.val = true) ∧
    causesOnly (updatedAt s.time (decided s.stl[n])) V[n] ∧ ∀ i, i ≠ n → causesOnly s.stl[i] V[i] := by
  obtain ⟨L, commits, result, miss⟩ := committed_frame n s
  obtain ⟨V, publishes, causes⟩ := publishCmd_frame n { s with stl := upd s.stl n (fun t => updatedAt s.time (decided t)), lpe := L }
  refine ⟨V, L, ?_, result, miss, causesOnly_upd causes⟩
  simp only [stallUpdate_eq, commits, upd_same, noCause, en, stays, List.isEmpty_nil, Bool.not_true, Bool.not_false, Bool.and_self,
    Bool.false_eq_true, if_true, if_false]
  rw [firstUpdate_live _ (by exact live), publishes]

/-- A LIVE paddock's stall on which causes are present enters FAULT (R149). -/
theorem stallUpdate_faults (present : causesOf s.stl[n] (updatedAt s.time (decided s.stl[n])) ≠ []) : ∃ V L E W,
    stallUpdate n s = { s with stl := V, lpe := L, echo := E, echoEvt := W } ∧ bit L.evt 0 = true ∧
    causesOnly (faultStall (causesOf s.stl[n] (updatedAt s.time (decided s.stl[n]))) (updatedAt s.time (decided s.stl[n]))) V[n] ∧
    ∀ i, i ≠ n → causesOnly s.stl[i] V[i] := by
  obtain ⟨L, commits, -, -⟩ := committed_frame n s
  obtain ⟨V, E, W, enters, stall, others⟩ := faultEntry_live
    (s := { s with stl := upd s.stl n (fun t => updatedAt s.time (decided t)), lpe := L }) live
    (causesOf s.stl[n] (updatedAt s.time (decided s.stl[n])))
  refine ⟨V, { L with evt := withBit L.evt 0 true }, E, W, ?_, ?_, ?_, fun i other => ?_⟩
  · simp only [stallUpdate_eq, commits, upd_same, List.isEmpty_eq_false_iff.mpr present, Bool.not_false, if_true]
    exact enters
  · exact (bit_withBit L.evt 0 0 true (by decide)).trans (if_pos rfl)
  · rwa [upd_same] at stall
  · exact upd_other s.stl n i _ other ▸ others i other

/-- A LIVE paddock's stall without a cause whose EN was cleared leaves the schedule, and joins it anew if EN is set again (R125). -/
theorem stallUpdate_leaves (leaves : s.stl[n].en = false ∨ s.stl[n].leaving = true)
    (noCause : causesOf s.stl[n] (updatedAt s.time (decided s.stl[n])) = []) : ∃ V L,
    stallUpdate n s = { s with stl := V, lpe := L } ∧ V[n].cmd = 0 ∧ V[n].run = false ∧ V[n].samp = none ∧
    V[n].joining = s.stl[n].en ∧ ∀ i, i ≠ n → causesOnly s.stl[i] V[i] := by
  obtain ⟨L, commits, -, -⟩ := committed_frame n s
  obtain ⟨V, left, ⟨C, stall⟩, others⟩ := leaveUpdate_live
    (s := { s with stl := upd s.stl n (fun t => updatedAt s.time (decided t)), lpe := L }) live
  have stops : (s.stl[n].en && !s.stl[n].leaving) = false := by
    rcases leaves with disabled | left
    · rw [disabled, Bool.false_and]
    · rw [left, Bool.not_true, Bool.and_false]
  have update : stallUpdate n s =
      if s.stl[n].en then updStl { s with stl := V, lpe := L } n (joinStall none) else { s with stl := V, lpe := L } := by
    have live' : pdkState { s with stl := V, lpe := L } (pdkOf n) = .live := live
    simp only [stallUpdate_eq, commits, upd_same, noCause, stops, left, live', List.isEmpty_nil, Bool.not_true, Bool.false_eq_true,
      decide_true, Bool.and_true, if_false]
  have others' (i : Fin 32) (other : i ≠ n) : causesOnly s.stl[i] V[i] :=
    upd_other s.stl n i _ other ▸ others i other
  rw [update]
  split
  · rename_i again
    refine ⟨upd V n (joinStall none), L, rfl, ?_⟩
    rw [upd_same, stall]
    exact ⟨rfl, rfl, rfl, again.symm, fun i other => by rw [upd_other _ _ _ _ other]; exact others' i other⟩
  · rename_i disabled
    refine ⟨V, L, rfl, ?_⟩
    rw [stall]
    exact ⟨rfl, rfl, rfl, (Bool.eq_false_iff.mpr disabled).symm, others'⟩

end

/-- Settles O18: which causes are present decides between `stallUpdate_stays`, `stallUpdate_faults` and `stallUpdate_leaves`. -/
theorem stallUpdates : Obligations.StallUpdates := by
  unfold Obligations.StallUpdates
  refine fun s n on live run settled => ⟨fun early => stallUpdate_early on run early,
    fun due en stays => ⟨fun r computed noCause => ?publishes, fun missing few => ?misses, fun missing limit => ?faults⟩,
    fun due leaves noCause few => ?leaves⟩
  case publishes =>
    have quiet := causesOf_none s.time settled (fun r' same => Option.some.inj (computed.symm.trans same) ▸ noCause)
      (fun missing => nomatch computed.symm.trans missing)
    obtain ⟨V, L, update, result, -, ⟨C, stall⟩, others⟩ := stallUpdate_stays live en stays quiet
    obtain rfl := result fun missing => nomatch computed.symm.trans missing
    rw [decided_result computed] at stall
    refine ⟨_, (stallUpdate_due on run due).trans (congrArg Host.Outcome.next update), rfl, ?_⟩
    dsimp only
    rw [stall]
    exact ⟨rfl, rfl, rfl, rfl, run, others⟩
  case misses =>
    have quiet := causesOf_none s.time settled (fun r computed => nomatch computed.symm.trans missing) (fun _ => few)
    obtain ⟨V, L, update, -, noted, ⟨C, stall⟩, others⟩ := stallUpdate_stays live en stays quiet
    obtain ⟨evt, missMap⟩ := noted missing
    obtain ⟨cmd, stillRuns, -, -, miss, missCnt, missRun⟩ := missStall_fields s.stl[n]
    rw [decided_miss missing] at stall
    refine ⟨_, (stallUpdate_due on run due).trans (congrArg Host.Outcome.next update), rfl, ?_⟩
    dsimp only
    rw [stall]
    exact ⟨cmd, miss, missCnt, stillRuns.trans run, missRun, evt, missMap, others⟩
  case faults =>
    have present := (causesOf_miss s.time settled missing).trans (if_pos limit)
    obtain ⟨V, L, E, W, update, evt, ⟨C, stall⟩, others⟩ := stallUpdate_faults live (present ▸ List.cons_ne_nil 8 [])
    obtain ⟨-, -, causes, -⟩ := missStall_fields s.stl[n]
    rw [present, decided_miss missing] at stall
    refine ⟨_, (stallUpdate_due on run due).trans (congrArg Host.Outcome.next update), rfl, ?_⟩
    dsimp only
    rw [stall]
    exact ⟨rfl, rfl, rfl, rfl, fun clear => if_pos (causes.trans clear), evt, others⟩
  case leaves =>
    obtain ⟨V, L, update, left⟩ := stallUpdate_leaves live leaves (causesOf_none s.time settled noCause few)
    exact ⟨_, (stallUpdate_due on run due).trans (congrArg Host.Outcome.next update), rfl, left⟩

end Sys2Proof.Machine

/-!
Loop block: the post mask, the table port and the load peak of the loop engine (R31, R123, R124, R127, R129, R137).
-/

namespace Sys2Proof.Machine

open Sys2Proof

/-! ## Posts -/

/-- A stall to which a scene is posted: it holds the post if its paddock is usable and the scene enabled (R31, R123). -/
def takePost (sc : Nat) (dead : Bool) (t : Stall) : Stall :=
  if dead = false ∧ bit (t.scn[sc % 8]'(by omega)) 31 = true then { t with posts := t.posts ||| (1#8 <<< (sc % 8)) } else t

/-- A post to a stall of an UNUSABLE paddock is discarded (R31). -/
theorem takePost_unusable (sc : Nat) (t : Stall) : takePost sc true t = t := if_neg fun h => nomatch h.1

/-- A post to a stall of a usable paddock is ignored if its scene is not enabled (R123). -/
theorem takePost_usable (sc : Nat) : takePost sc false = fun t =>
    if !bit (t.scn[sc % 8]'(by omega)) 31 then t else { t with posts := t.posts ||| (1#8 <<< (sc % 8)) } := by
  funext t
  rw [takePost]
  cases bit (t.scn[sc % 8]'(by omega)) 31 <;> rfl

/-- A post to a stall changes that stall, and the count of dropped actions (R31, R123). -/
theorem postScene_eq (sc : Nat) (s : State) (n : Fin 32) : ∃ D, postScene sc s n =
    { s with stl := upd s.stl n (takePost sc (pdkUnusable s (pdkOf n))), trg := { s.trg with dropCnt := D } } := by
  cases unusable : pdkUnusable s (pdkOf n) with
  | true =>
    refine ⟨satAdd s.trg.dropCnt 1 65535, (if_pos unusable).trans ?_⟩
    rw [upd_eq_self (takePost_unusable sc _)]
    rfl
  | false =>
    refine ⟨s.trg.dropCnt, (if_neg (Bool.eq_false_iff.mp unusable)).trans ?_⟩
    rw [takePost_usable]
    rfl

/-- Posts to a list of stalls: each stall of it takes its own (R31, R124). -/
theorem foldl_postScene (sc : Nat) (l : List (Fin 32)) (s : State) : ∃ D, l.foldl (postScene sc) s =
    { s with stl := l.foldl (fun v n => upd v n (takePost sc (pdkUnusable s (pdkOf n)))) s.stl, trg := { s.trg with dropCnt := D } } := by
  induction l generalizing s with
  | nil => exact ⟨s.trg.dropCnt, rfl⟩
  | cons n l ih =>
    obtain ⟨D, first⟩ := postScene_eq sc s n
    obtain ⟨D', rest⟩ := ih (postScene sc s n)
    refine ⟨D', ?_⟩
    rw [List.foldl_cons, rest, first]
    rfl

/-- A post to a mask: each stall of it takes its own (R31, R123, R124). -/
theorem postMask_stalls (sc : Nat) (mask : W32) (s : State) : ∃ V D,
    postMask sc mask s = { s with stl := V, trg := { s.trg with dropCnt := D } } ∧
    ∀ n : Fin 32, V[n] = if bit mask n.val = true then takePost sc (pdkUnusable s (pdkOf n)) s.stl[n] else s.stl[n] := by
  obtain ⟨D, posts⟩ := foldl_postScene sc ((idx 32).filter (fun n => bit mask n.val)) s
  refine ⟨_, D, posts, fun n => ?_⟩
  rw [foldl_upd_all _ _ _ _ ((idx_nodup 32).filter _)]
  simp only [List.mem_filter, mem_idx, true_and]

/-! ## The table port -/

/-- Which stalls hold a table closed looks at nothing that serving a transaction changes. -/
theorem tabClosed_served (m : Mid) (t : Target) (s : State) : tabClosed (served m t s) = tabClosed s := by
  obtain ⟨_, e⟩ := served_frame m t s
  rw [e]
  rfl

/-- The stalls that hold a table closed are listed once each (R129). -/
theorem tabClosed_nodup (s : State) (t : Nat) : (tabClosed s t).Nodup := (stallsOf_nodup _).filter _

section
variable {s : State} (d : W32) (inRange : (tabPtr s.lpe).2 < 33)
include inRange

/-- A table that no closed lane references takes a word, and the pointer moves on (R127, R137). -/
theorem tabWrite_open (isOpen : tabClosed s (tabPtr s.lpe).1 = []) : tabWrite d s = (true, { s with lpe := { s.lpe with
    table := tabPut ((tabPtr s.lpe).1 * 33 + (tabPtr s.lpe).2) (d.extractLsb' 0 16) s.lpe.table, tabSel := s.lpe.tabSel + 1 } }) := by
  rw [tabWrite, if_neg (Nat.not_le.mpr inRange), isOpen, if_neg (by simp)]
  rfl

/-- A table that a closed lane references refuses another word, in each such stall with COEF_REJ (R127, R129). -/
theorem tabWrite_closed (closed : tabClosed s (tabPtr s.lpe).1 ≠ [])
    (other : (d.extractLsb' 0 16).toNat ≠ tabAt s.lpe (tabPtr s.lpe).1 (tabPtr s.lpe).2) : tabWrite d s = (false, { s with
      stl := (tabClosed s (tabPtr s.lpe).1).foldl (fun v n => upd v n (fun t => { t with coefRej := true })) s.stl }) := by
  have refused : ((d.extractLsb' 0 16).toNat != tabAt s.lpe (tabPtr s.lpe).1 (tabPtr s.lpe).2 &&
      !(tabClosed s (tabPtr s.lpe).1).isEmpty) = true := by
    rw [bne_iff_ne.mpr other, List.isEmpty_eq_false_iff.mpr closed]
    rfl
  rw [tabWrite, if_neg (Nat.not_le.mpr inRange), if_pos refused, foldl_updStl]

/-- A read of the table port gives the word that the pointer names, and moves the pointer on (R137). -/
theorem tabRead_inRange : tabRead s = (some (put (tabAt s.lpe (tabPtr s.lpe).1 (tabPtr s.lpe).2) 0),
    { s with lpe := { s.lpe with tabSel := s.lpe.tabSel + 1 } }) :=
  if_neg (Nat.not_le.mpr inRange)

end

/-- Settles O20: what each register takes, from `postMask_stalls`, the two cases of `tabWrite` and `tabRead_inRange`; the table port is
no register of a paddock (log 28). -/
theorem loopBlockCommands : Obligations.LoopBlockCommands := by
  unfold Obligations.LoopBlockCommands
  refine fun s m => ⟨fun mask h => ?post, fun d h inRange => ⟨fun isOpen => ?writes, fun closed other => ?refuses⟩,
    fun h inRange => ?reads, fun h => ?peak⟩
  case post =>
    obtain ⟨V, D, posts, stalls⟩ := postMask_stalls s.lpe.postScene mask (served m .lpe s)
    have takes : lpeWrite 0x24 mask (served m .lpe s) = (true, postMask s.lpe.postScene mask (served m .lpe s)) := by
      rw [← served_lpe m .lpe s]
      rfl
    rw [posts, served_trg] at takes
    refine ⟨_, congrArg Host.Outcome.next (busWriteR_reaches h takes), rfl, fun n => (stalls n).trans ?_⟩
    rw [served_stl, pdkUnusable_served, takePost, ← ite_and]
  case writes =>
    have takes : lpeWrite 0x34 d (served m .lpe s) = _ :=
      tabWrite_open (s := served m .lpe s) d (by rwa [served_lpe]) (by rwa [served_lpe, tabClosed_served])
    rw [served_lpe] at takes
    exact congrArg Host.Outcome.next (busWriteR_reaches h takes)
  case refuses =>
    have refused : lpeWrite 0x34 d (served m .lpe s) = _ :=
      tabWrite_closed (s := served m .lpe s) d (by rwa [served_lpe]) (by rwa [served_lpe, tabClosed_served]) (by rwa [served_lpe])
    rw [served_lpe, tabClosed_served, served_stl] at refused
    refine ⟨_, congrArg Host.Outcome.next (busWriteR_refused h refused), rfl, rfl, served_mem m .lpe s, fun n holds => ?_⟩
    refine (congrArg Stall.coefRej (foldl_upd _ _ _ _ (tabClosed_nodup s _))).trans ?_
    rw [if_pos holds]
  case reads =>
    have answers : lpeRead 0x34 (served m .lpe s) = _ := tabRead_inRange (s := served m .lpe s) (by rwa [served_lpe])
    rw [served_lpe] at answers
    exact congrArg Host.Outcome.next (access_read h answers)
  case peak =>
    have takes : lpeWrite 0x08 0x80000000 (served m .lpe s) =
        (true, { served m .lpe s with lpe := { s.lpe with peak := 0 } }) := by
      rw [← served_lpe m .lpe s]
      rfl
    exact congrArg Host.Outcome.next (busWriteR_reaches h takes)

end Sys2Proof.Machine

/-!
Outputs: PWM periods, over-current trips, retries and their reset, each on one stall (R139, R143 to R145, R151).
-/

namespace Sys2Proof.Machine

open Sys2Proof

/-! ## Periods -/

/-- A driven stall whose period begins at the PWM base `b`: its last period is counted, and the gate rises for the on-time (R139, R145). -/
def periodBegun (now b : Nat) (t : Stall) : Stall :=
  { periodEnd t with
    periodAt := some b, rise := if (onTimeOf t).1 = 0 then t.rise else now
    onTime := (onTimeOf t).1, acc := (onTimeOf t).2, gate := (onTimeOf t).1 != 0, tripped := false }

/-- Without dither the on-time is rounded, and the accumulator stays (R139). -/
theorem onTimeOf_rounded {t : Stall} (noDither : bit (outOf t) 29 = false) :
    onTimeOf t = ((rhaDiv ((d20Of t * pwmPer t : Nat) : Int) 1048576).toNat, t.acc) := by
  simp [onTimeOf, noDither]

/-- PWM_PERIOD_START of a driven stall in PWM mode, where a period begins that has not begun yet (R139). -/
theorem pwmPeriodStart_eq {s : State} {n : Fin 32} {b : Nat} (pwm : fld (outOf s.stl[n]) 31 30 = 1) (driven : drives s n = true)
    (ready : domReady s .yard = true) (base : periodBase s s.stl[n] = some b) (isNew : s.stl[n].periodAt ≠ some b) :
    exec (.pwmPeriodStart n) s = .next { s with stl := upd s.stl n (periodBegun s.time b) } := by
  have begins : ((periodBase s s.stl[n]).isNone || periodBase s s.stl[n] = s.stl[n].periodAt || !domReady s .yard) = false := by
    simp [-Fin.getElem_fin, base, ready, isNew.symm]
  have inPwm : ¬ (fld (outOf s.stl[n]) 31 30 != 1) = true := by simp [-Fin.getElem_fin, pwm]
  refine congrArg Host.Outcome.next ((if_neg (Bool.eq_false_iff.mp begins)).trans ?_)
  refine congrArg (fun v => { s with stl := v }) (upd_congr ?_)
  dsimp only
  rw [if_neg inPwm, if_pos driven, base]
  rfl

/-! ## Trips -/

/-- A stall whose comparator trips: its gate falls, and the trip counts; RUN does not count it in LINEAR mode (R144, R145, log 29). -/
def cutShort (t : Stall) : Stall :=
  { t with
    gate := false, dac := 0, volt := 0, tripped := true, ocTrips := satInc t.ocTrips 65535
    ocRun := if fld (outOf t) 31 30 = 2 then t.ocRun else satInc t.ocRun 31 }

/-- What a trip makes of a stall: a cause is left pending once the count is complete, and by every LINEAR trip (R145). -/
def tripStall (t : Stall) : Stall :=
  if fld (outOf t) 31 30 = 2 || countDone (cutShort t) then { cutShort t with pendC := some (tripCause t) } else cutShort t

/-- A trip cuts the stall short and settles its pending cause, which the count does not depend on. -/
theorem tripStall_eq (t : Stall) : tripStall t = { cutShort t with
    pendC := if fld (outOf t) 31 30 = 2 || countDone (tripStall t) then some (tripCause t) else t.pendC } := by
  have done : countDone (tripStall t) = countDone (cutShort t) := by
    rw [tripStall]
    split <;> rfl
  rw [done, tripStall]
  split <;> rfl

/-- The comparator's threshold is (OCT + 1) × range / 32 (R143). -/
theorem overCurrent_iff (s : State) (n : Fin 32) (uv : Int) :
    overCurrent s n uv = true ↔ ((fld (protOf s.stl[n]) 29 24 : Nat) + 1) * rangeUv s n < 32 * uv := by
  rw [overCurrent, decide_eq_true_iff, Nat.cast_add_one]

/-- OC_TRIP beyond the threshold and after blanking, while the gate is up (R143 to R145). -/
theorem ocTrip_trips {s : State} {n : Fin 32} {uv : Int} (up : gateUp s n = true) (beyond : overCurrent s n uv = true)
    (unblanked : blankOver s s.stl[n] = true) : exec (.ocTrip n uv) s =
      .next { s with stl := upd s.stl n tripStall } := by
  have trips : (gateUp s n && overCurrent s n uv && blankOver s s.stl[n]) = true := by rw [up, beyond, unblanked]; rfl
  exact congrArg Host.Outcome.next (if_pos trips)

/-- OC_TRIP below the threshold or during blanking has no effect (R143, R144). -/
theorem ocTrip_ignored {s : State} {n : Fin 32} {uv : Int} (ignored : overCurrent s n uv = false ∨ blankOver s s.stl[n] = false) :
    exec (.ocTrip n uv) s = .next s := by
  refine congrArg Host.Outcome.next (if_neg ?_)
  rcases ignored with under | blanked
  · simp [under]
  · simp [-Fin.getElem_fin, blanked]

/-! ## Retries -/

/-- A stall whose retry comes: FAULT is over, and it is enabled anew (R151). -/
def retried (now : Nat) (tick : W32) (t : Stall) : Stall :=
  enableStall true now (some tick) { t with active := false, retryPend := false, waitCyc := 0 }

/-- A retry that finds no update owed lets the stall join the schedule (R125, R151). -/
theorem retried_joins {t : Stall} (now : Nat) (tick : W32) (owesNone : t.due = none) : retried now tick t = joinStall (some tick)
    { t with active := false, retryPend := false, waitCyc := 0, en := true, ocRun := 0, runCyc := 0, since := 0, rise := now, held := 0 } := by
  simp [retried, enableStall, owesNone]

/-- RETRY of a stall whose back-off is over, at a tick boundary in a LIVE paddock; it aborts an entry to SLUMBER (R151, R325). -/
theorem retry_eq {s : State} {n : Fin 32} (pends : s.stl[n].retryPend = true) (waited : s.stl[n].waitCyc = 0)
    (live : pdkState s (pdkOf n) = .live) (on : stallOn s n = true) (boundary : tickNow s = true) : ∃ P Q,
    exec (.retry n) s = .next { s with stl := upd s.stl n (retried s.time s.lpe.tick), pwr := P, pio := Q } := by
  obtain ⟨P, Q, fences⟩ := fence_frame s
  refine ⟨P, Q, congrArg Host.Outcome.next ((if_pos ?_).trans ?_)⟩
  · simp [-Fin.getElem_fin, pends, waited, live, on, boundary]
  · rw [fences]
    rfl

/-- RETRY_USED_RESET of a stall that has run for 10 s (R151). -/
theorem retryUsedReset_eq {s : State} {n : Fin 32} (enabled : s.stl[n].en = true) (noFault : s.stl[n].active = false)
    (ran : 10000 * 153600 ≤ s.stl[n].runCyc) :
    exec (.retryUsedReset n) s = .next { s with stl := upd s.stl n (fun t => { t with used := 0, runCyc := 0 }) } := by
  refine congrArg Host.Outcome.next (if_pos ?_)
  simp [-Fin.getElem_fin, enabled, noFault, msCyc, ran]

/-- Settles O21: the equation of each event, with `onTimeOf_rounded`, `tripStall_eq` and `retried_joins` for what becomes of the
stall; that a LINEAR trip leaves RUN is log 29. -/
theorem outputEvents : Obligations.OutputEvents := by
  unfold Obligations.OutputEvents
  refine fun s n => ⟨fun b pwm driven ready base isNew => ?period, fun uv driven up beyond unblanked => ?trips, fun uv ignored => ?ignored,
    fun pends waited live on boundary owesNone => ?retry, fun enabled noFault ran => ?reset⟩
  case period =>
    have stall : (upd s.stl n (periodBegun s.time b))[n] = periodBegun s.time b s.stl[n] := upd_same ..
    refine ⟨_, pwmPeriodStart_eq pwm driven ready base isNew, rfl, stall, fun noDither => ?_, fun i other => upd_other _ _ _ _ other⟩
    have rounded := onTimeOf_rounded noDither
    exact ⟨(congrArg Stall.onTime stall).trans (congrArg Prod.fst rounded), (congrArg Stall.acc stall).trans (congrArg Prod.snd rounded)⟩
  case trips =>
    have gate : gateUp s n = true := by
      rw [gateUp, driven, Bool.true_and, Bool.or_eq_true, decide_eq_true_iff]
      exact up
    have answer := ocTrip_trips gate ((overCurrent_iff s n uv).mpr beyond) (decide_eq_true unblanked)
    refine ⟨_, answer, rfl, ?_⟩
    dsimp only
    rw [upd_same]
    have cut := tripStall_eq s.stl[n]
    refine ⟨congrArg Stall.gate cut, congrArg Stall.tripped cut, congrArg Stall.ocTrips cut, fun linear => ⟨?_, ?_⟩,
      fun notLinear => ⟨?_, ?_⟩, fun i other => upd_other _ _ _ _ other⟩
    · exact (congrArg Stall.pendC cut).trans (if_pos (by rw [decide_eq_true linear, Bool.true_or]))
    · exact (congrArg Stall.ocRun cut).trans (if_pos linear)
    · exact (congrArg Stall.ocRun cut).trans (if_neg notLinear)
    · exact (congrArg Stall.pendC cut).trans (by rw [decide_eq_false notLinear, Bool.false_or])
  case ignored =>
    refine ocTrip_ignored (ignored.imp (fun under => ?_) (fun blanked => decide_eq_false (Nat.not_le.mpr blanked)))
    exact Bool.eq_false_iff.mpr fun beyond => Int.not_lt.mpr under ((overCurrent_iff s n uv).mp beyond)
  case retry =>
    obtain ⟨P, Q, answer⟩ := retry_eq pends waited live on boundary
    refine ⟨_, answer, rfl, ?_⟩
    dsimp only
    rw [upd_same, retried_joins _ _ owesNone]
    exact ⟨rfl, rfl, rfl, rfl, rfl, rfl, rfl, fun i other => upd_other _ _ _ _ other⟩
  case reset => exact ⟨_, retryUsedReset_eq enabled noFault ran, rfl, upd_same .., fun i other => upd_other _ _ _ _ other⟩

end Sys2Proof.Machine

/-!
Echo commands: an echo starts, stops, and ends at its end count (R155, R156, R162, R167).
-/

namespace Sys2Proof.Machine

open Sys2Proof

section
variable {e : Fin 4} {d : W32} {s : State}

/-- A write of ECHO_e_CTRL that sets RUN starts an echo that does not run: its status, its sums and its phase are cleared (R156, R167). -/
theorem echoCtrl_starts (sets : bit d 31 = true) (stopped : bit s.echo[e].ctrl 31 = false) :
    echoRegWrite e 0 d s = some (updEcho s e (fun x => { echoClear x with ctrl := d &&& 0x8333001F })) := by
  simp [-Fin.getElem_fin, echoRegWrite, sets, stopped]

/-- A write of ECHO_e_CTRL that sets RUN is refused while the echo runs (R162). -/
theorem echoCtrl_refused (sets : bit d 31 = true) (runs : bit s.echo[e].ctrl 31 = true) : echoRegWrite e 0 d s = none := by
  simp [-Fin.getElem_fin, echoRegWrite, sets, runs]

/-- A write of ECHO_e_CTRL that clears RUN is accepted whether or not the echo runs (R162). -/
theorem echoCtrl_stops (clears : bit d 31 = false) :
    echoRegWrite e 0 d s = some (updEcho s e (fun x => { x with ctrl := d &&& 0x8333001F })) := by
  simp [-Fin.getElem_fin, echoRegWrite, clears]

end

/-- A write that an echo takes changes this echo alone, and is answered OKAY. -/
theorem busWrite_updEcho {m : Mid} {a : Nat} {d : W32} {eff : State → Option State} {s : State} {e : Fin 4} {f : Echo → Echo}
    (h : reaches m .echo a d s = true) (takes : eff (served m .echo s) = some (updEcho (served m .echo s) e f)) :
    busWrite m .echo a d eff s = okay m 0 { served m .echo s with echo := upd s.echo e f } := by
  rw [busWrite_reaches h takes, updEcho, served_echo]

/-- ECHO_END of a running echo that has reached its end count (R155). -/
theorem echoEnd_eq {s : State} {e : Fin 4} (runs : bit s.echo[e].ctrl 31 = true) (done : s.echo[e].done = true)
    (usable : unusable s 41 = false) : exec (.echoEnd e) s = .next { s with
      echo := upd s.echo e (fun x => { x with ctrl := withBit x.ctrl 31 false, done := true })
      echoEvt := withBit s.echoEvt e.val true } := by
  refine congrArg Host.Outcome.next (if_pos ?_)
  simp [-Fin.getElem_fin, runs, done, usable]

/-- Settles O23: what ECHO_e_CTRL takes and refuses, and the equation of ECHO_END. -/
theorem echoCommands : Obligations.EchoCommands := by
  unfold Obligations.EchoCommands
  refine fun s e => ⟨fun m data h => ⟨fun stopped => ?starts, fun runs => ?refused⟩, fun m data h => ?stops, fun runs done usable => ?ends⟩
  case starts =>
    have sets : bit (withBit data 31 true) 31 = true := bit_withBit data 31 31 true (by decide)
    have takes := echoCtrl_starts (e := e) (s := served m .echo s) sets (by rwa [served_echo])
    exact ⟨_, congrArg Host.Outcome.next (busWrite_updEcho h takes), rfl, upd_same .., fun i other => upd_other _ _ _ _ other⟩
  case refused =>
    have sets : bit (withBit data 31 true) 31 = true := bit_withBit data 31 31 true (by decide)
    exact congrArg Host.Outcome.next (busWrite_refused h (echoCtrl_refused sets (by rwa [served_echo])))
  case stops =>
    have clears : bit (withBit data 31 false) 31 = false := bit_withBit data 31 31 false (by decide)
    have takes := echoCtrl_stops (e := e) (s := served m .echo s) clears
    exact ⟨_, congrArg Host.Outcome.next (busWrite_updEcho h takes), rfl, upd_same .., fun i other => upd_other _ _ _ _ other⟩
  case ends => exact ⟨_, echoEnd_eq runs done usable, rfl, upd_same .., fun i other => upd_other _ _ _ _ other⟩

end Sys2Proof.Machine

/-!
Radio commands: accesses that reach the radio and the air rules, and the boundaries of the air-time buckets (R181, R199, R203, R204, R212, R221).
-/

namespace Sys2Proof.Machine

open Sys2Proof

/-- A register write that reaches the radio and is taken there is answered OKAY. -/
theorem trxBus_reaches {m : Mid} {off : Nat} {d : W32} {s s' : State} (h : reaches m .trx (0x40200000 + off) d s = true)
    (takes : trxWrite off d (served m .trx s) = some s') : trxBus m off d s = okay m 0 s' := busWrite_reaches h takes

/-- TRX_TXQ_PROD takes its count (R181). -/
theorem trxWrite_txqProd (d : W32) (s : State) : trxWrite 0x074 d s = some (updTrx s (fun t => { t with txqProd := fld d 5 0 })) := rfl

/-- TRX_CNT_CLR clears the radio's counts (R203). -/
theorem trxWrite_cntClr (s : State) : trxWrite 0x11C 1 s = some (updTrx s (fun t => { t with
    cntCrc := 0, cntOk := 0, cntFilt := 0, cntOvf := 0, cntReplay := 0, cntAuth := 0, cntFail := 0, cntTxOk := 0
    cntFalse := 0, cntDet := 0 })) := rfl

/-- TRX_ARM_k_CTRL lies 4 above the descriptor address of its slot (R203). -/
theorem trxWrite_armCtrl (k : Fin 4) (d : W32) (s : State) : trxWrite (0x094 + 8 * k.val) d s = some (effArmCtrl k d s) := by
  match k with
  | 0 | 1 | 2 | 3 => rfl

/-- PT_i_ID is the first register of its entry (R204). -/
theorem trxWrite_ptId (i : Fin 64) (d : W32) (s : State) :
    trxWrite (0x800 + 0x20 * i.val) d s = some (updTrx s (fun t => { t with pt := upd t.pt i (ptWriteId d) })) := by
  have atEntry : ptAt (0x800 + 0x20 * i.val) = some i := by
    simp [ptAt, windowIdx]
  have first : (0x800 + 0x20 * i.val) % 0x20 = 0 := by omega
  simp only [trxWrite, atEntry, first]
  rfl

/-- RGY_CNT_CLR clears the counts of the air rules (R221). -/
theorem rgyWrite_cntClr (m : Mid) (s : State) : rgyWrite m 0x018 1 s =
    some (updRgy s (fun r => { r with cntDuty := 0, cntDwell := 0, cntSupp := 0, cntOvrun := 0, cntClamp := 0 })) := rfl

/-! ## Launches -/

/-- A channel that takes effect changes the channel and what waits for it only (R199). -/
theorem chanApply_channel (s : State) : ∃ C N, chanApply s = { s with trx := { s.trx with chan := C, chanPend := N } } := by
  unfold chanApply
  split
  · split
    · exact ⟨_, _, rfl⟩
    · exact ⟨s.trx.chan, s.trx.chanPend, rfl⟩
  · exact ⟨s.trx.chan, s.trx.chanPend, rfl⟩

/-- The attempt in hand after a launch: a queued one that is not on air is withdrawn (R199). -/
def afterLaunch (tx : Option TxRun) : Option TxRun :=
  match tx with
  | some x => if x.src = .queue ∧ x.stage ≠ .onAir ∧ x.stage ≠ .awaitAck then none else some x
  | none => none

theorem afterLaunch_withdraws {x : TxRun} (queued : x.src = .queue) (notOnAir : x.stage ≠ .onAir) (notAwaiting : x.stage ≠ .awaitAck) :
    afterLaunch (some x) = none := if_pos ⟨queued, notOnAir, notAwaiting⟩

theorem afterLaunch_keeps {x : TxRun} (h : x.src ≠ .queue ∨ x.stage = .onAir ∨ x.stage = .awaitAck) :
    afterLaunch (some x) = some x := by
  refine if_neg ?_
  rintro ⟨queued, notOnAir, notAwaiting⟩
  rcases h with slot | onAir | awaiting
  · exact slot queued
  · exact notOnAir onAir
  · exact notAwaiting awaiting

/-- A launch puts the slot in flight behind those launched before, withdraws a queued attempt, and may abort an entry to SLUMBER and let
a channel take effect (R181, R199, R325). -/
theorem launchSlot_eq (k : Fin 4) (s : State) : ∃ P Q C N, launchSlot k s = { s with pwr := P, pio := Q, trx := { s.trx with
    arm := upd s.trx.arm k (fun a => { a with inflight := true }), launched := s.trx.launched ++ [k], tx := afterLaunch s.trx.tx
    chan := C, chanPend := N } } := by
  obtain ⟨P, Q, fenced⟩ := fence_frame s
  obtain ⟨C, N, applied⟩ := chanApply_channel { s with pwr := P, pio := Q, trx := { s.trx with
    arm := upd s.trx.arm k (fun a => { a with inflight := true }), launched := s.trx.launched ++ [k], tx := afterLaunch s.trx.tx } }
  refine ⟨P, Q, C, N, ?_⟩
  rw [launchSlot, fenced]
  exact applied

/-- A slot that is armed and not in flight can be launched while the radio works (R32, R181). -/
theorem canLaunch_armed {s : State} {k : Fin 4} (armed : s.trx.arm[k].armed = true) (idle : s.trx.arm[k].inflight = false)
    (powered : domReady s .radio = true) (usable : unusable s 47 = false) (noTest : underTest s 47 = false) : canLaunch s k = true := by
  have free : (match s.bist.run with | some r => r.target.val != 47 | none => true) = true := by
    unfold underTest at noTest
    cases run : s.bist.run with
    | none => rfl
    | some r => simpa [run] using noTest
  simp only [canLaunch, armed, idle, powered, usable, Bool.not_false, Bool.and_true, Bool.true_and]
  exact free

/-- A write of TRX_ARM_k_CTRL that arms the slot and launches it (R181). -/
theorem effArmCtrl_launches {s : State} {k : Fin 4} {d : W32} (arms : bit d 31 = true) (launches : bit d 29 = true)
    (powered : domReady s .radio = true) (usable : unusable s 47 = false) (noTest : underTest s 47 = false)
    (idle : s.trx.arm[k].inflight = false) : effArmCtrl k d s =
      launchSlot k (updTrx s (fun t => { t with arm := upd t.arm k (fun a => { a with armed := true }) })) := by
  have can : canLaunch (updTrx s (fun t => { t with arm := upd t.arm k (fun a => { a with armed := true }) })) k = true :=
    canLaunch_armed (by simp [-Fin.getElem_fin]) (by simpa [-Fin.getElem_fin] using idle) powered usable noTest
  simp only [effArmCtrl, arms, launches, can, Bool.and_true, if_true]

/-- LAUNCH is a write of TRX_ARM_k_CTRL with LAUNCH set, whatever else its data hold. -/
theorem launch_bit (d : W32) : bit (d ||| 0x20000000) 29 = true ∧ bit (d ||| 0x20000000) 31 = bit d 31 := by
  simp [bit]

/-! ## Partner entries -/

section
variable (d : W32) (e : Partner)

theorem ptWriteId_valid : (ptWriteId d e).valid = bit d 31 := by
  unfold ptWriteId
  dsimp only
  split
  · rename_i other
    exact (Bool.and_eq_true _ _ ▸ other).1.symm
  · rfl

theorem ptWriteId_addr : (ptWriteId d e).addr = d.extractLsb' 0 16 := by
  unfold ptWriteId
  dsimp only
  split <;> rfl

variable {d e}

/-- A valid entry with a different address loses what the hardware learned (R204). -/
theorem ptWriteId_other (valid : bit d 31 = true) (other : d.extractLsb' 0 16 ≠ e.addr) :
    ptWriteId d e = { valid := true, parent := bit d 30, addr := d.extractLsb' 0 16 } :=
  if_pos (by simp [valid, other])

/-- An entry that keeps its address keeps what the hardware learned (R204). -/
theorem ptWriteId_same (same : d.extractLsb' 0 16 = e.addr) :
    ptWriteId d e = { e with valid := bit d 31, parent := bit d 30, addr := d.extractLsb' 0 16 } :=
  if_neg (by simp [same])

end

/-! ## Time reads and buckets -/

/-- The zone time looks at nothing that serving a transaction changes. -/
theorem zoneNow_served (m : Mid) (t : Target) (s : State) : zoneNow (served m t s) = zoneNow s := by
  obtain ⟨_, e⟩ := served_frame m t s
  rw [e]
  rfl

/-- Before a bucket's time BUCKET_BOUNDARY does nothing (R212). -/
theorem bucketBoundary_early {s : State} {b : BucketOf} (early : (s.pwr.ltime - bucketAt s.rgy b).toNat < bucketLen s.rgy b) :
    exec (.bucketBoundary b) s = .next s := congrArg Host.Outcome.next (if_pos early)

/-- A sub-band's bucket that has lasted its time (R212). -/
theorem bucketBoundary_sub {s : State} {k : Fin 8} (due : bucketLen s.rgy (.sub k) ≤ (s.pwr.ltime - s.rgy.subAt[k]).toNat) :
    exec (.bucketBoundary (.sub k)) s = .next { s with rgy := { s.rgy with
      sub := upd s.rgy.sub k (fun l => 0 :: l.take 32), subAt := s.rgy.subAt.set k.val s.pwr.ltime } } :=
  congrArg Host.Outcome.next (if_neg (Nat.not_lt.mpr due))

/-- A hop entry's bucket that has lasted its time (R212). -/
theorem bucketBoundary_hop {s : State} {h : Fin 128} (due : bucketLen s.rgy (.hop h) ≤ (s.pwr.ltime - s.rgy.hopAt[h]).toNat) :
    exec (.bucketBoundary (.hop h)) s = .next { s with rgy := { s.rgy with
      hop := upd s.rgy.hop h (fun l => 0 :: l.take 8), hopAt := s.rgy.hopAt.set h.val s.pwr.ltime } } :=
  congrArg Host.Outcome.next (if_neg (Nat.not_lt.mpr due))

/-- Settles O25: each command is one register access, whose effect the lemmas above name; a bucket's boundary is the time of its bucket. -/
theorem radioCommands : Obligations.RadioCommands := by
  unfold Obligations.RadioCommands
  refine fun s m => ⟨fun d h => ?prod, fun k d h arms powered usable noTest idle => ?launch, fun i d h => ?entry, fun h => ?counts,
    fun h => ?time, fun h => ?zone, fun h => ?airCounts, fun k due => ?sub, fun k due => ?hop, fun b early => bucketBoundary_early early⟩
  case prod =>
    have takes := trxWrite_txqProd d (served m .trx s)
    rw [updTrx, served_trx] at takes
    exact congrArg Host.Outcome.next (trxBus_reaches (off := 0x074) h takes)
  case launch =>
    obtain ⟨launches, arms'⟩ := launch_bit d
    have effect := effArmCtrl_launches (s := served m .trx s) (k := k) (arms'.trans arms) launches
      (by rwa [domReady, served_pwr]) (by rwa [unusable_served]) (by rwa [underTest_served]) (by rwa [served_trx])
    obtain ⟨P, Q, C, N, launched⟩ := launchSlot_eq k
      (updTrx (served m .trx s) (fun t => { t with arm := upd t.arm k (fun a => { a with armed := true }) }))
    have answer := trxBus_reaches h ((trxWrite_armCtrl k _ _).trans (congrArg some (effect.trans launched)))
    simp only [updTrx, served_trx] at answer
    refine ⟨_, congrArg Host.Outcome.next answer, rfl, ?slot, rfl, fun x inHand queued notOnAir notAwaiting => ?withdrawn,
      fun x inHand stays => ?kept, fun j other => ?others⟩
    case slot => exact (upd_same _ k _).trans (congrArg (fun a : Arm => { a with inflight := true }) (upd_same _ k _))
    case withdrawn => exact (congrArg afterLaunch inHand).trans (afterLaunch_withdraws queued notOnAir notAwaiting)
    case kept => exact (congrArg afterLaunch inHand).trans (afterLaunch_keeps stays)
    case others => exact (upd_other _ k j _ other).trans (upd_other _ k j _ other)
  case entry =>
    have answer := trxBus_reaches h (trxWrite_ptId i d _)
    simp only [updTrx, served_trx] at answer
    have written : (upd s.trx.pt i (ptWriteId d))[i] = ptWriteId d s.trx.pt[i] := upd_same s.trx.pt i _
    refine ⟨_, congrArg Host.Outcome.next answer, rfl, ?valid, ?addr, fun valid other => ?cleared, fun same => ?kept,
      fun j other => upd_other s.trx.pt i j _ other⟩
    case valid => exact (congrArg Partner.valid written).trans (ptWriteId_valid d _)
    case addr => exact (congrArg Partner.addr written).trans (ptWriteId_addr d _)
    case cleared =>
      have fresh := written.trans (ptWriteId_other valid other)
      exact ⟨congrArg Partner.upd fresh, congrArg Partner.drift fresh, congrArg Partner.fcnt fresh⟩
    case kept =>
      have learned := written.trans (ptWriteId_same same)
      exact ⟨(congrArg Partner.upd learned :), (congrArg Partner.fcnt learned :)⟩
  case counts =>
    have takes := trxWrite_cntClr (served m .trx s)
    rw [updTrx, served_trx] at takes
    exact congrArg Host.Outcome.next (trxBus_reaches (off := 0x11C) h takes)
  case time =>
    refine congrArg Host.Outcome.next ((busRead_reaches h).trans ?_)
    simp only [trxRead, updTrx, served_trx]
  case zone =>
    refine congrArg Host.Outcome.next ((busRead_reaches h).trans ?_)
    simp only [trxRead, updTrx, served_trx, zoneNow_served]
  case airCounts =>
    refine congrArg Host.Outcome.next ((busWrite_reaches h (rgyWrite_cntClr m _)).trans ?_)
    rw [updRgy, served_rgy]
  case sub => exact ⟨_, bucketBoundary_sub due, rfl, upd_same _ k _, fun j other => upd_other _ k j _ other⟩
  case hop => exact ⟨_, bucketBoundary_hop due, rfl, upd_same _ k _, fun j other => upd_other _ k j _ other⟩

end Sys2Proof.Machine

/-!
Radio: what the operations that the radio's events share change: the end of a frame or an attempt, a completed descriptor, a preamble that
starts, the airtime charged, and when an event that accesses the yard is carried out at once (R180, R184, R199, R214, R216, log 20).
-/

namespace Sys2Proof.Machine

open Sys2Proof

/-! ## The end of a frame or an attempt -/

/-- Event flags that none was taken from. -/
def keepsEvt (e f : W32) : Prop := ∀ i, i < 32 → bit e i = true → bit f i = true

theorem keepsEvt_refl (e : W32) : keepsEvt e e := fun _ _ set => set

theorem keepsEvt_withBit (e : W32) (i : Nat) : keepsEvt e (withBit e i true) := by
  intro j inRange set
  rw [bit_withBit e i j true inRange]
  split
  · rfl
  · exact set

/-- The RFPLL that follows the radio's state changes the clocks, and may set an event flag (R169, R300). -/
theorem rfFollow_frame (s : State) : ∃ E K, rfFollow s = { s with trx := { s.trx with evt := E }, clk := K } ∧ keepsEvt s.trx.evt E := by
  unfold rfFollow
  dsimp only
  split
  · split
    · exact ⟨s.trx.evt, s.clk, rfl, keepsEvt_refl _⟩
    · exact ⟨s.trx.evt, _, rfl, keepsEvt_refl _⟩
  · split
    · exact ⟨s.trx.evt, s.clk, rfl, keepsEvt_refl _⟩
    · split
      · exact ⟨s.trx.evt, _, rfl, keepsEvt_refl _⟩
      · exact ⟨_, s.clk, rfl, keepsEvt_withBit _ _⟩

/-- What the end of a frame or an attempt changes: the channel, the clocks, and event flags that are set (R199, R300). -/
theorem radioEnd_frame (s : State) : ∃ C N E K, radioEnd s =
    { s with trx := { s.trx with chan := C, chanPend := N, evt := E }, clk := K } ∧ keepsEvt s.trx.evt E := by
  obtain ⟨C, N, applied⟩ := chanApply_channel s
  obtain ⟨E, K, follows, kept⟩ := rfFollow_frame { s with trx := { s.trx with chan := C, chanPend := N } }
  refine ⟨C, N, E, K, ?_, kept⟩
  rw [radioEnd, applied]
  exact follows

/-! ## Completion -/

theorem trx_of_stores {lo hi : Nat} {s t : State} (h : stores lo hi s t) : t.trx = s.trx := by
  obtain ⟨⟨_, _, _, _, rfl⟩, -⟩ := h
  rfl

/-- The radio after a descriptor completes with a code (R180, R181). -/
def completedTrx (src : TxSrc) (code : Nat) (t : Trx) : Trx :=
  let t := match src with
    | .queue => { t with txqCons := (t.txqCons + 1) % 64, qTries := 0 }
    | .slot k => { t with arm := upd t.arm k (fun a => { a with last := code, inflight := false }) }
  let t := if code = 0 then { t with cntTxOk := satInc t.cntTxOk 65535 } else { t with cntFail := satInc t.cntFail 65535 }
  { t with evt := withBit t.evt 0 true }

/-- The stores of a completion leave the radio's registers alone (R180). -/
theorem completeDesc_trx (src : TxSrc) (addr code tries len : Nat) (sfd : Option (BitVec 48)) (s : State) :
    (completeDesc src addr code tries len sfd s).trx = completedTrx src code s.trx := by
  unfold completeDesc
  dsimp only
  generalize stored : (if sfd.isSome = true then s else { s with free := s.free + 6 }) = u
  have same : u.trx = s.trx := by
    rw [← stored]
    split <;> rfl
  cases src with
  | queue =>
    simp only [completedTrx, trxEvt, updTrx, trx_of_stores (post_store ..), trx_of_stores (post_setBit ..), same]
  | slot k =>
    simp only [completedTrx, trxEvt, updTrx, trx_of_stores (post_store ..), same]

/-- An attempt that fails leaves the radio free; the failure is counted, TX_DONE is set, and an armed slot shows the code (R180, R181). -/
theorem completeTx_failed {code : Nat} (failed : code ≠ 0) (x : TxRun) (s : State) :
    (completeTx x code s).trx.tx = none ∧ bit (completeTx x code s).trx.evt 0 = true ∧
    (completeTx x code s).trx.cntFail = satInc s.trx.cntFail 65535 ∧
    ∀ k, x.src = .slot k → (completeTx x code s).trx.arm[k] = { s.trx.arm[k] with last := code, inflight := false } := by
  have done := completeDesc_trx x.src x.addr code x.tries x.sent x.sfd (updTrx s (fun t => { t with tx := none }))
  obtain ⟨C, N, E, K, ended, kept⟩ :=
    radioEnd_frame (completeDesc x.src x.addr code x.tries x.sent x.sfd (updTrx s (fun t => { t with tx := none })))
  rw [completeTx, ended, done]
  rw [done] at kept
  have flag : bit E 0 = true := kept 0 (by decide) (bit_withBit _ 0 0 true (by decide))
  cases src : x.src with
  | queue => simp [completedTrx, failed, flag]
  | slot k =>
    simp only [completedTrx, failed, if_false, flag, TxSrc.slot.injEq]
    refine ⟨rfl, trivial, rfl, ?_⟩
    rintro _ rfl
    exact upd_same _ _ _

/-! ## Sending -/

/-- The air rules after an attempt that asks for a power: one above PMAX is counted and flagged (R216). -/
def clampRgy (b : Fin 8) (power : W32) (r : Rgy) : Rgy :=
  if sbPmax r b < (power.setWidth 8).toInt then rgyEvt 2 { r with cntClamp := satInc r.cntClamp 255 } else r

/-- An attempt that asks for a power changes the air rules only (R216). -/
theorem clampPower_eq (b : Fin 8) (s : State) : clampPower b s = { s with rgy := clampRgy b s.trx.pwr s.rgy } := by
  unfold clampPower clampRgy
  split <;> rfl

theorem clampRgy_prof (b : Fin 8) (power : W32) (r : Rgy) : (clampRgy b power r).prof = r.prof := by
  unfold clampRgy
  split <;> rfl

theorem clampRgy_sub (b : Fin 8) (power : W32) (r : Rgy) : (clampRgy b power r).sub = r.sub := by
  unfold clampRgy
  split <;> rfl

/-- The power of an attempt is the same before and after it is counted as clamped (R216). -/
theorem sendPower_clampRgy (a b : Fin 8) (power : W32) (s : State) :
    sendPower a { s with rgy := clampRgy b power s.rgy } = sendPower a s := by
  simp only [sendPower, sbPmax, sbAt, profAt, clampRgy_prof]

/-- What an ended attempt charges: its airtime to the current bucket of its sub-band, and no part but the air rules (R214). -/
theorem charge_frame (r : Resv) (us : Nat) (s : State) :
    ∃ R, charge r us s = { s with rgy := R } ∧ R.sub[r.sub] = addUs us s.rgy.sub[r.sub] := by
  unfold charge
  refine ⟨_, rfl, ?_⟩
  dsimp only
  split <;> exact upd_same _ _ _

/-- The power that an attempt is sent at (R216). -/
def runPower (x : TxRun) (s : State) : Int :=
  match x.resv with
  | some r => sendPower r.sub s
  | none => (s.trx.pwr.setWidth 8).toInt

/-- The air rules once an attempt's preamble has started (R216). -/
def runRgy (x : TxRun) (s : State) : Rgy :=
  match x.resv with
  | some r => clampRgy r.sub s.trx.pwr s.rgy
  | none => s.rgy

/-- An attempt that the test admits has its reservation, and nothing is recorded (R213). -/
theorem rgyAdmit_ok {ack : Bool} {hz us : Nat} {r : Resv} {s : State} (usable : unusable s 49 = false)
    (admitted : admissionTest s ack hz us = .ok r) : rgyAdmit ack hz us s = (.ok r, s) := by
  simp only [rgyAdmit, usable, admitted, Bool.false_eq_true, if_false]

theorem sniffLost_time (t : Trx) : (sniffLost t).time = t.time := by
  unfold sniffLost
  split <;> rfl

/-- The preamble starts of a frame that the engine does not secure (R184, R216). -/
theorem commitTx_plain {x : TxRun} (plain : txBit x.w 27 = false) (start : Nat) (s : State) : commitTx x start s =
    { s with rgy := runRgy x s, trx := { sniffLost s.trx with rxOn := false, tx := some { x with
      stage := .onAir, start := start, since := s.trx.time, power := runPower x s } } } := by
  cases resv : x.resv with
  | none => simp [commitTx, plain, resv, atStage, updTrx, runRgy, runPower, sniffLost_time]
  | some r =>
    simp [commitTx, plain, resv, atStage, updTrx, runRgy, runPower, clampPower_eq, sendPower_clampRgy, sniffLost_time]

/-! ## What goes on air -/

section
variable (t : Trx) (x : Option TxRun) (a : Option AckRun) (on : Bool)

/-- What goes on air depends on the radio's settings, not on what it has in hand (R170, R173, R177). -/
theorem airOf_inHand (sun long white : Bool) (n : Nat) (psdu : List Byte) :
    airOf { t with tx := x, ackDue := a, rxOn := on } sun long white n psdu = airOf t sun long white n psdu := rfl

theorem preOf_inHand : preOf { t with tx := x, ackDue := a, rxOn := on } = preOf t := rfl

theorem airDevs_inHand (l : List Byte) : airDevs { t with tx := x, ackDue := a, rxOn := on } l = airDevs t l := rfl

end

/-! ## Events that access the yard -/

/-- With nothing returned by the cipher engine the radio takes nothing from it. -/
theorem portReturn_none {s : State} (none : s.cry.ret = []) : portReturn s = s := by
  have same : updCry s (fun c => { c with ret := [] }) = s := by
    unfold updCry
    rw [← none]
  rw [portReturn, none, List.foldl_nil, same]

/-- Where nothing waits no task of an engine waits. -/
theorem taskWaits_idle {s : State} (idle : yardIdle s) (k : Task) : taskWaits s k = false := by
  obtain ⟨waiting, port, -⟩ := idle
  simp [taskWaits, waiting, port]

theorem updEng_same {s : State} {f : EngRun → EngRun} (same : f s.yard.eng = s.yard.eng) : updEng s f = s := by
  rw [updEng, same]

/-- An event of an engine, where nothing waits and its own accesses are answered, has its effect; what has come to wait goes on. -/
theorem engineEvent_answered {c : Instr} {s : State} (idle : yardIdle s) (done : (runEvent c s).yard.eng.stuck = none) :
    engineEvent c s = settle (updEng (runEvent c s) (fun _ => {})) := by
  have starts := engine_starts (f := runEvent c) (taskWaits_idle idle (.event c))
  obtain ⟨-, -, noTask⟩ := idle
  have fresh : updEng s (fun e => { e with got := [], stuck := none }) = s := updEng_same (by rw [noTask])
  rw [engineEvent, starts, engineRun_done (by rwa [fresh]), fresh, noTask]

/-- An event of an engine that leaves the yard idle has its effect and nothing more. -/
theorem engineEvent_idle {c : Instr} {s : State} (idle : yardIdle s) (same : (runEvent c s).yard = s.yard) :
    engineEvent c s = runEvent c s := by
  have effect := engineEvent_answered (c := c) idle
  obtain ⟨waiting, port, noTask⟩ := idle
  have fresh : updEng (runEvent c s) (fun _ => {}) = runEvent c s := updEng_same (by rw [same, noTask])
  rw [effect (by rw [same, noTask]), fresh, settle_idle (by rw [same, waiting]) (by rw [same, port])]

end Sys2Proof.Machine

/-!
Attempts: the stages that an attempt goes through, from its assessment to the end of its frame (R181 to R184, R188, R213, R214, R216).
-/

namespace Sys2Proof.Machine

open Sys2Proof

/-! ## Assessment and back-off -/

section
variable {s : State} {x : TxRun} {draw : Nat}

/-- The finding of an assessment, by the MODE that R183 lists. -/
theorem ccaBusy_eq (rssi : Byte) (heard : Bool) (listed : fld s.trx.lbt 31 30 < 3) : ccaBusy s rssi heard =
    let loud : Bool := 2 * (BitVec.ofNat 8 (fld s.trx.lbt 19 12)).toInt < rssi.toInt
    if fld s.trx.lbt 31 30 = 0 then loud else if fld s.trx.lbt 31 30 = 1 then heard else loud || heard := by
  unfold ccaBusy
  obtain mode | mode | mode : fld s.trx.lbt 31 30 = 0 ∨ fld s.trx.lbt 31 30 = 1 ∨ fld s.trx.lbt 31 30 = 2 := by omega
  all_goals simp [mode]

/-- CHANNEL_ASSESSMENT of an attempt that has listened for CCA_TIME, with no acknowledgement due (R183). -/
theorem channelAssessment_listened (rssi : Byte) (heard : Bool) (inHand : s.trx.tx = some x) (stage : x.stage = .assess)
    (listened : usCyc (ccaUs s.trx) ≤ sinceT s.trx x.since) (noAck : s.trx.ackDue = none) :
    exec (.channelAssessment rssi heard draw) s = .next (assessed (ccaBusy s rssi heard) draw x { s with free := s.free + 1 }) := by
  simp only [exec, execChannelAssessment, inHand, stage, listened, noAck, decide_true, Option.isNone_none, Bool.and_true, if_true]

/-- A busy finding that is not the last one backs off (R183). -/
theorem assessed_backoff (stage : x.stage = .assess) (more : x.busies < fld s.trx.lbt 5 3) : assessed true draw x s =
    { s with trx := { s.trx with tx := some { x with
        busies := x.busies + 1, resv := none, stage := .backoff, since := s.trx.time
        wait := draw % 2 ^ min (fld s.trx.lbt 11 9 + x.busies) (fld s.trx.lbt 8 6) * boUnit s.trx } } } := by
  simp [assessed, stage, Nat.not_le.mpr more, atStage, updTrx, ← Nat.add_assoc]

/-- The last busy finding ends the attempt with TX_BUSY (R180, R183). -/
theorem assessed_busy (stage : x.stage = .assess) (last : fld s.trx.lbt 5 3 ≤ x.busies) :
    assessed true draw x s = completeTx { x with busies := x.busies + 1, resv := none } 2 s := by
  simp [assessed, stage, last]

/-- A clear finding starts the preamble (R183). -/
theorem assessed_clear (stage : x.stage = .assess) (locked : s.clk.rf.st = .locked) :
    assessed false draw x s = commitTx x s.trx.time s := by
  simp [assessed, stage, locked]

/-- An attempt that is admitted, and whose carrier is at hand, assesses the channel (R182, R213). -/
theorem admitTx_assess {r : Resv} (usable : unusable s 49 = false) (synth : unusable s 48 = false)
    (locked : (tune x.carrier s.clk).rf.st = .locked) (untimed : txTimed x.w = false) (lbt : txBit x.w 29 = true)
    (admitted : admissionTest s false x.carrier (airUs s.trx (frameOctets s.trx (txSun x.w)
      (x.preExt + if txBit x.w 27 && txBit x.w 26 then octetsFor s.trx 256 else 0) (txDone x.w))) = .ok r) :
    admitTx x s = { s with
      clk := tune x.carrier s.clk
      trx := { s.trx with tx := some { x with resv := some r, stage := .assess, since := s.trx.time } } } := by
  simp only [admitTx, rgyAdmit_ok usable admitted, synth, Bool.false_eq_true, if_false, carryOn, untimed]
  simp [updClk, locked, lbt, atStage, updTrx]

end

/-! ## Timed launches, ready attempts, and the end of the frame -/

/-- TIMED_LAUNCH of an attempt that may go at its time (R184). -/
theorem timedLaunch_goes {s : State} {x : TxRun} (inHand : s.trx.tx = some x) (stage : x.stage = .timed)
    (due : untilT s.trx x.start ≤ 0) (locked : s.clk.rf.st = .locked) (quiet : s.trx.rxOn = false)
    (clear : txBit x.w 29 = true → x.clear = true) : exec .timedLaunch s = .next (commitTx x x.start s) := by
  have lbt : (txBit x.w 29 && !x.clear) = false := by
    cases asked : txBit x.w 29 with
    | false => rfl
    | true => simp [clear asked]
  simp [exec, execTimedLaunch, inHand, stage, Int.not_lt.mpr due, locked, quiet, lbt]

/-- TX_ATTEMPT of an attempt whose tune is over goes on to its assessment (R182). -/
theorem txAttempt_ready {s : State} {x : TxRun} (inHand : s.trx.tx = some x) (stage : x.stage = .ready) (works : radioOn s = true)
    (noAck : s.trx.ackDue = none) (quiet : s.trx.rxOn = false) (awake : s.pwr.state ≠ .slumber) (locked : s.clk.rf.st = .locked)
    (untimed : txTimed x.w = false) (lbt : txBit x.w 29 = true) :
    txAttempt s = { s with trx := { s.trx with tx := some { x with stage := .assess, since := s.trx.time } } } := by
  simp [txAttempt, inHand, stage, works, noAck, quiet, awake, locked, carryOn, untimed, lbt, atStage, updTrx]

theorem extOf_ended (x : TxRun) (r : Option Resv) (f : Option (BitVec 48)) (n ext : Nat) :
    extOf { x with resv := r, sfd := f, sent := n } ext = extOf x ext := rfl

/-- TX_FRAME_END of a frame that asks for an acknowledgement: it is on air, its airtime is charged, and the attempt awaits (R181, R188, R214). -/
theorem txFrameEnd_awaits {s : State} {x : TxRun} (sfd : BitVec 48) (ext : Nat) (inHand : s.trx.tx = some x) (stage : x.stage = .onAir)
    (noSeal : x.sealing = none) (ackReq : txBit x.w 28 = true) :
    let psdu := framePsdu s x sfd
    let us := airUs s.trx (frameOctets s.trx (txSun x.w) (extOf x ext) psdu.length)
    let air := airOf s.trx (txSun x.w) (txBit x.w 15) (txBit x.w 14) (preOf s.trx + extOf x ext) psdu
    ∃ R, exec (.txFrameEnd sfd ext) s = .next { s with
        rgy := R
        trx := { s.trx with
          tx := some { x with resv := none, sfd := some sfd, sent := psdu.length, stage := .awaitAck, since := s.trx.time }
          air := air, airDev := airDevs s.trx air, airPwr := x.power } } ∧
      ∀ r, x.resv = some r → R.sub[r.sub] = addUs us s.rgy.sub[r.sub] := by
  intro psdu us air
  have goes : (x.stage != .onAir || x.sealing.isSome) = false := by simp [stage, noSeal]
  cases resv : x.resv with
  | none =>
    refine ⟨s.rgy, ?_, fun r held => nomatch held⟩
    simp only [exec, execTxFrameEnd, inHand, goes, ackReq, resv, Bool.false_eq_true, if_false, if_true, atStage, updTrx, sendAir,
      airOf_inHand, preOf_inHand, airDevs_inHand, psdu, air, extOf_ended]
  | some q =>
    obtain ⟨R, charged, airtime⟩ := charge_frame q us s
    refine ⟨R, ?_, fun r held => Option.some.inj held ▸ airtime⟩
    simp only [us, psdu] at charged
    simp only [exec, execTxFrameEnd, inHand, goes, ackReq, resv, charged, Bool.false_eq_true, if_false, if_true, atStage, updTrx, sendAir,
      airOf_inHand, preOf_inHand, airDevs_inHand, psdu, air, extOf_ended]

/-- Settles O27, stage by stage: each event's equation says what it makes of the attempt, `commitTx_plain` what starts a preamble, and
`completeTx_failed` what TX_BUSY leaves. -/
theorem transmitStages : Obligations.TransmitStages := by
  unfold Obligations.TransmitStages
  refine fun s x inHand => ⟨fun rssi heard draw stage listened noAck listed => ?assessment,
    fun stage due locked quiet clear plain => ?launch, fun r stage waited noAck works usable synth locked untimed lbt admitted => ?backoff,
    fun idle noReturn stage works noAck quiet awake locked untimed lbt => ?attempt, fun sfd ext stage noSeal ackReq => ?frameEnd⟩
  case assessment =>
    intro loud busy
    have answer := channelAssessment_listened (draw := draw) rssi heard inHand stage listened noAck
    have finding : ccaBusy s rssi heard = busy := ccaBusy_eq rssi heard listed
    rw [finding] at answer
    refine ⟨fun isBusy more => ?again, fun isBusy last => ?busy, fun isClear locked plain => ?clear⟩
    case again =>
      rw [isBusy, assessed_backoff (s := { s with free := s.free + 1 }) stage more] at answer
      exact answer
    case busy =>
      rw [isBusy, assessed_busy (s := { s with free := s.free + 1 }) stage last] at answer
      exact ⟨_, answer, completeTx_failed (by decide) _ _⟩
    case clear =>
      rw [isClear, assessed_clear (s := { s with free := s.free + 1 }) stage locked, commitTx_plain plain] at answer
      refine ⟨_, answer, rfl, rfl, ?_⟩
      cases resv : x.resv with
      | none => simp only [runRgy, resv]
      | some r => simp only [runRgy, resv, clampPower_eq]
  case launch =>
    have answer := timedLaunch_goes inHand stage due locked quiet clear
    rw [commitTx_plain plain] at answer
    exact ⟨_, answer, rfl, rfl⟩
  case backoff =>
    refine congrArg Host.Outcome.next ?_
    rw [inHand]
    refine Eq.trans ?_ (admitTx_assess usable synth locked untimed lbt admitted)
    simp [stage, waited, noAck, works]
  case attempt =>
    have effect : runEvent .txAttempt s = { s with trx := { s.trx with tx := some { x with stage := .assess, since := s.trx.time } } } := by
      refine (congrArg txAttempt (portReturn_none noReturn)).trans ?_
      exact txAttempt_ready inHand stage works noAck quiet awake locked untimed lbt
    refine congrArg Host.Outcome.next ((engineEvent_idle idle ?_).trans effect)
    rw [effect]
  case frameEnd =>
    obtain ⟨R, answer, airtime⟩ := txFrameEnd_awaits sfd ext inHand stage noSeal ackReq
    exact ⟨_, answer, rfl, rfl, rfl, rfl, airtime⟩

end Sys2Proof.Machine

/-!
Reception: what becomes of a frame that the receiver takes, up to the RX ring (R173, R177, R185, R186, R189, R201).
-/

namespace Sys2Proof.Machine

open Sys2Proof

/-! ## Accesses of the receiver -/

/-- A read by an engine leaves memory and the power controller as they are. -/
theorem dmaRead_rest (m : Mid) (a n : Nat) (s : State) : ∃ A Y, (dmaRead m a n s).2 = { s with act := A, yard := Y } := by
  unfold dmaRead
  generalize pieces n a n = l
  induction l generalizing s with
  | nil => exact ⟨s.act, s.yard, rfl⟩
  | cons piece rest ih =>
    obtain ⟨a, n⟩ := piece
    obtain ⟨A, Y, read⟩ := dmaPiece_read m a n s
    simp only [dmaReadL]
    generalize dmaPiece m .read a n [] s = p at read
    obtain ⟨⟨c, b⟩, s1⟩ := p
    obtain rfl := read
    cases c with
    | okay =>
      obtain ⟨A', Y', after⟩ := ih { s with act := A, yard := Y }
      exact ⟨A', Y', after⟩
    | _ => exact ⟨A, Y, rfl⟩

/-- The read of an RX descriptor changes of the radio its event flags at most (R185, R201). -/
theorem rxDesc_frame (s : State) : ∃ A Y E, (rxDesc s).2 = { s with act := A, yard := Y, trx := { s.trx with evt := E } } := by
  obtain ⟨A, Y, read⟩ := dmaRead_rest .trxDma (s.trx.rxrBase.toNat + 32 * s.trx.rxrNext) 8 s
  unfold rxDesc
  dsimp only
  generalize dmaRead .trxDma (s.trx.rxrBase.toNat + 32 * s.trx.rxrNext) 8 s = p at read
  obtain ⟨⟨c, l⟩, s1⟩ := p
  obtain rfl := read
  cases c with
  | okay => exact ⟨A, Y, s.trx.evt, rfl⟩
  | _ => exact ⟨A, Y, _, rfl⟩

/-- Two states that differ at most in what stores of the receiver change: memory where `R` allows it, what an access changes, and event flags. -/
def storesEvt (R : Nat → Prop) (s t : State) : Prop :=
  (∃ M P A Y E, t = { s with mem := M, pwr := P, act := A, yard := Y, trx := { s.trx with evt := E } }) ∧
  (memOk s → memOk t ∧ ∀ b, ¬ R b → t.mem.read b = s.mem.read b)

theorem storesEvt.trans {R : Nat → Prop} {s t u : State} (first : storesEvt R s t) (second : storesEvt R t u) : storesEvt R s u := by
  obtain ⟨⟨M, P, A, Y, E, rfl⟩, reads⟩ := first
  obtain ⟨⟨M', P', A', Y', E', rfl⟩, reads'⟩ := second
  refine ⟨⟨M', P', A', Y', E', rfl⟩, fun formed => ?_⟩
  obtain ⟨formed1, same1⟩ := reads formed
  obtain ⟨formed2, same2⟩ := reads' formed1
  exact ⟨formed2, fun b outside => (same2 b outside).trans (same1 b outside)⟩

/-- An access that an engine's store is, with YARD_ERR set if it is refused (R201). -/
theorem storesEvt_noted {R : Nat → Prop} {lo hi : Nat} {s t : State} (c : RespCode) (h : stores lo hi s t)
    (within : ∀ b, lo ≤ b → b < hi → R b) : storesEvt R s (if c = .okay then t else trxEvt 5 t) := by
  obtain ⟨⟨M, P, A, Y, rfl⟩, reads⟩ := h
  have same : memOk s → M.wf = true ∧ ∀ b, ¬ R b → M.read b = s.mem.read b := by
    intro formed
    obtain ⟨formed', outside⟩ := reads formed
    refine ⟨formed', fun b notIn => outside b ?_⟩
    by_contra inside
    exact notIn (within b (by omega) (by omega))
  split
  · exact ⟨⟨M, P, A, Y, s.trx.evt, rfl⟩, same⟩
  · exact ⟨⟨M, P, A, Y, _, rfl⟩, same⟩

/-- The octets of memory that the delivery of a frame writes: its PSDU at BUF, and its descriptor from word 1 on (R185). -/
def rxRange (a : Nat) (w0 : W32) (f : RxAir) (b : Nat) : Prop :=
  (w0.toNat ≤ b ∧ b < w0.toNat + (rxPsdu f).length) ∨ (a + 4 ≤ b ∧ b < a + 32)

/-- A frame written to the RX ring: stores to its buffer and its descriptor, the ring one further, and RX_DONE (R185). -/
theorem rxWrite_frame (a : Nat) (w0 w1 : W32) (f : RxAir) (slot : Option (Fin 8)) (s : State) : ∃ u, storesEvt (rxRange a w0 f) s u ∧
    rxWrite a w0 w1 f slot s = trxEvt 1 (updTrx u (fun t => { t with rxrNext := (t.rxrNext + 1) % 32 })) := by
  have buffer := dmaWrite_frame .trxDma w0.toNat ((rxPsdu f).take (fld w1 10 0)) s
  unfold rxWrite
  dsimp only
  generalize dmaWrite .trxDma w0.toNat ((rxPsdu f).take (fld w1 10 0)) s = p at buffer
  obtain ⟨⟨c, n⟩, s1⟩ := p
  refine ⟨_, ((storesEvt_noted c buffer ?psdu).trans (storesEvt_noted _ (dmaWrite_frame _ _ _ _) ?words)).trans
    (storesEvt_noted _ (dmaWrite_frame _ _ _ _) ?own), rfl⟩
  case psdu =>
    intro b from_ below
    have short : ((rxPsdu f).take (fld w1 10 0)).length ≤ (rxPsdu f).length := List.length_take_le' _ _
    exact .inl ⟨from_, by omega⟩
  case words =>
    intro b from_ below
    simp only [List.length_append, length_leBytes, List.length_cons, List.length_nil] at below
    exact .inr ⟨by omega, by omega⟩
  case own =>
    intro b from_ below
    rw [length_leBytes] at below
    exact .inr ⟨from_, by omega⟩

/-! ## The judgement of a frame -/

/-- The radio once a frame has ended: no frame is on, and its SFD instant and RSSI are shown (R189, R203). -/
def received (f : RxAir) (s : State) : State :=
  updTrx s (fun t => { t with rxOn := false, sniffing := false, sfd := f.sfd, rssi := f.rssi })

section
variable {f : RxAir} {s : State}

/-- A frame received awake, and not after a sniff, is judged, and reception ends (R185). -/
theorem rxFrame_awake (listens : rxListens f.sun f.sync s = true) (awake : s.pwr.state ≠ .slumber) (noSniff : f.sniffed = false) :
    rxFrame f s = radioEnd (rxJudge f (received f s)) := by
  have awake' : (received f s).pwr.state ≠ .slumber := awake
  rw [rxFrame]
  simp only [listens, noSniff, Bool.not_true, Bool.false_eq_true, if_false]
  exact if_neg awake'

section
variable (noSwitch : (f.sun && f.phr.getLsbD 15) = false) (phr : rxPhrOk f = true)
include noSwitch phr

/-- A frame whose FCS fails is counted under CRC while FCSBAD is 0 (R186). -/
theorem rxJudge_crc (bad : rxFcsOk f = false) (drop : bit s.trx.ctrl 25 = false) : rxJudge f s = countCrc s := by
  simp only [rxJudge, noSwitch, phr, bad, drop, Bool.not_true, Bool.not_false, Bool.and_true, Bool.false_eq_true, if_false, if_true]

variable (good : rxFcsOk f = true) (noAck : rxIsAck s f = false)
include good noAck

/-- A frame that the filters refuse is counted under FILT (R186). -/
theorem rxJudge_filt (refused : rxPasses s.trx (bit s.trx.ctrl 28) f = false) : rxJudge f s = countFilt s := by
  simp only [rxJudge, noSwitch, phr, good, noAck, refused, Bool.not_true, Bool.not_false, Bool.false_and, Bool.false_eq_true, if_false,
    if_true]

/-- A frame that passes is delivered (R185, R186). -/
theorem rxJudge_delivers (passes : rxPasses s.trx (bit s.trx.ctrl 28) f = true) : rxJudge f s = rxDeliver f true s := by
  simp only [rxJudge, noSwitch, phr, good, noAck, passes, Bool.not_true, Bool.false_and, Bool.false_eq_true, if_false]

end

section
variable (sun : f.sun = true) (good : rxFcsOk f = true) (noAck : rxWantsAck s.trx f = false)
include sun

/-- The matcher takes NATIVE frames only (R196). -/
theorem matchSlot_sun (t : Trx) : matchSlot t f = none := by
  simp [matchSlot, sun]

/-- A SUNFSK frame brings nothing to the partner table (R193). -/
theorem rxPartner_sun (s : State) : rxPartner f s = s := by
  simp [rxPartner, sun]

include noAck

/-- A SUNFSK frame for which the hardware owns no descriptor is counted under OVF (R201). -/
theorem rxDeliver_none {s1 : State} (owned : rxDesc s = (none, s1)) :
    rxDeliver f true s = trxEvt 3 (updTrx s1 (fun t => { t with cntOvf := satInc t.cntOvf 65535 })) := by
  simp [rxDeliver, matchSlot_sun sun, noAck, owned]

include good

/-- A SUNFSK frame that asks for no acknowledgement is counted under OK and written to the descriptor that the hardware owns (R185). -/
theorem rxDeliver_some {s1 : State} {a : Nat} {w0 w1 : W32} (owned : rxDesc s = (some (a, w0, w1), s1)) :
    rxDeliver f true s = rxWrite a w0 w1 f none (countOk s1) := by
  simp [rxDeliver, matchSlot_sun sun, noAck, owned, rxPartner_sun sun, good]

end

/-- RX_FRAME where nothing waits and each of its accesses is answered (log 20). -/
theorem rxFrame_answered (idle : yardIdle s) (done : answered (.rxFrame f) s = true) :
    exec (.rxFrame f) s = .next (settle (updEng (rxFrame f s) (fun _ => {}))) :=
  congrArg Host.Outcome.next (engineEvent_answered idle (Option.isNone_iff_eq_none.mp done))

/-- RX_FRAME of a frame that brings the yard nothing to do. -/
theorem rxFrame_dropped (idle : yardIdle s) {t : State} (effect : rxFrame f s = radioEnd t) (same : t.yard = s.yard) :
    exec (.rxFrame f) s = .next (radioEnd t) := by
  obtain ⟨C, N, E, K, ended, -⟩ := radioEnd_frame t
  refine congrArg Host.Outcome.next ((engineEvent_idle idle ?_).trans effect)
  rw [runEvent, effect, ended, same]

end

/-- SFD_DETECTED with the sync word or SFD in force (R173, R177, R189). -/
theorem sfdDetected_listens {sun : Bool} {sync : W32} {sfd : BitVec 48} {s : State} (listens : rxListens sun sync s = true) :
    exec (.sfdDetected sun sync sfd) s = .next { s with trx := { s.trx with rxOn := true, sniffing := false, sfd := sfd } } :=
  congrArg Host.Outcome.next (if_pos listens)

/-- Settles O29: a frame is judged, and for each judgement what it leaves is read off; `rxWrite_frame` says what a delivery stores. -/
theorem reception : Obligations.Reception := by
  unfold Obligations.Reception
  refine fun s => ⟨fun sun sync sfd listens => sfdDetected_listens listens, fun f idle listens awake noSniff noSwitch phr => ?_⟩
  have judged := rxFrame_awake listens awake noSniff
  refine ⟨fun bad drop => ?crc, fun good noAck refused => ?filt, fun sun good noAck passes noWant done => ⟨fun a w0 w1 s1 owned => ?delivered,
    fun s1 owned => ?overflow⟩⟩
  case crc =>
    rw [rxJudge_crc (s := received f s) noSwitch phr bad drop] at judged
    have answer := rxFrame_dropped idle judged rfl
    obtain ⟨C, N, E, K, ended, -⟩ := radioEnd_frame (countCrc (received f s))
    rw [ended] at answer
    simp only [countCrc, received, updTrx] at answer
    exact ⟨_, answer, rfl, rfl, rfl, rfl, rfl, rfl, rfl⟩
  case filt =>
    rw [rxJudge_filt (s := received f s) noSwitch phr good noAck refused] at judged
    have answer := rxFrame_dropped idle judged rfl
    obtain ⟨C, N, E, K, ended, -⟩ := radioEnd_frame (countFilt (received f s))
    rw [ended] at answer
    simp only [countFilt, received, updTrx] at answer
    exact ⟨_, answer, rfl, rfl, rfl, rfl, rfl⟩
  case delivered =>
    rw [rxJudge_delivers (s := received f s) noSwitch phr good noAck passes,
      rxDeliver_some (s := received f s) sun good noWant owned] at judged
    have answer := rxFrame_answered idle done
    obtain ⟨A, Y, E, read⟩ := rxDesc_frame (received f s)
    obtain rfl := (congrArg Prod.snd owned).symm.trans read
    obtain ⟨u, ⟨⟨M, P, A', Y', E', rfl⟩, reads⟩, written⟩ := rxWrite_frame a w0 w1 f none (countOk _)
    rw [judged, written] at answer
    obtain ⟨C, N, E'', K, ended, kept⟩ := radioEnd_frame (trxEvt 1 (updTrx _ (fun t => { t with rxrNext := (t.rxrNext + 1) % 32 })))
    rw [ended] at answer
    simp only [trxEvt, countOk, received, updTrx, updEng] at answer
    have flag : bit E'' 1 = true := kept 1 (by decide) (bit_withBit _ 1 1 true (by decide))
    refine ⟨_, answer, rfl, flag, rfl, rfl, rfl, rfl, rfl, fun formed b outBuf outDesc => (reads formed).2 b ?_⟩
    rintro (inBuf | inDesc) <;> omega
  case overflow =>
    rw [rxJudge_delivers (s := received f s) noSwitch phr good noAck passes,
      rxDeliver_none (s := received f s) sun noWant owned] at judged
    have answer := rxFrame_answered idle done
    obtain ⟨A, Y, E, read⟩ := rxDesc_frame (received f s)
    obtain rfl := (congrArg Prod.snd owned).symm.trans read
    obtain ⟨C, N, E', K, ended, kept⟩ := radioEnd_frame (trxEvt 3 (updTrx _ (fun t => { t with cntOvf := satInc t.cntOvf 65535 })))
    rw [judged, ended] at answer
    simp only [received, updTrx, updEng] at answer
    have flag : bit E' 3 = true := kept 3 (by decide) (bit_withBit _ 3 3 true (by decide))
    exact ⟨_, answer, rfl, flag, rfl, rfl, rfl, rfl, rfl⟩

end Sys2Proof.Machine

/-!
Sniffs, the scene matcher's verdicts, and the acknowledgement that is sent (R187, R194, R196, R203, R214, R300).
-/

namespace Sys2Proof.Machine

open Sys2Proof

/-! ## Sniffs -/

theorem sniffLost_listening {t : Trx} (listening : t.sniffing = false) : sniffLost t = t := if_neg (by simp [listening])

/-- A radio in which nothing is being sent, received or acknowledged, and which waits for a sniff, reads as off (R203). -/
theorem trxState_betweenSniffs {s : State} (noTx : s.trx.tx = none) (noAck : s.trx.ackDue = none) (quiet : s.trx.rxOn = false)
    (noSniff : s.trx.sniffing = false) (sniffs : bit s.trx.ctrl 29 = true) (notOn : bit s.trx.ctrl 30 = false) : trxState s = 0 := by
  simp [trxState, noTx, noAck, quiet, noSniff, sniffs, notOn]

/-- Between sniffs the RFPLL is off once it is not powered for one (R194, R300). -/
theorem rfFollow_off {s : State} (off : trxState s = 0) (unpowered : s.clk.rfPower = false) :
    ∃ K, rfFollow s = { s with clk := K } ∧ K.rf.st = .off ∧ K.rfPower = false := by
  simp only [rfFollow, off, decide_true, Bool.or_true, if_true, unpowered, Bool.false_or]
  split
  · rename_i isOff
    exact ⟨s.clk, rfl, of_decide_eq_true isOff, unpowered⟩
  · exact ⟨rfOff s.clk, rfl, rfl, rfl⟩

/-- What a listening receiver does at a sniff instant, by whether it hears a preamble (R194). -/
def sniffed (preamble : Option Nat) (s : State) : State :=
  match preamble with
  | some n => trxEvt 2 (updTrx s (fun t => { sniffLost t with
      sniffing := true, sniffEnd := n + fourOctets t, cntDet := satInc t.cntDet 65535 }))
  | none => sniffOff (updTrx s sniffLost)

section
variable {s : State} (due : sniffDue s = true) (works : radioOn s = true) (enabled : trxEn s = true) (sniffs : bit s.trx.ctrl 29 = true)
  (notOn : bit s.trx.ctrl 30 = false) (quiet : s.trx.rxOn = false) (noAck : s.trx.ackDue = none) (noTx : s.trx.tx = none)
include due works enabled sniffs notOn quiet noAck noTx

/-- SNIFF of an idle receiver at a sniff instant: the instant is taken, and the receiver listens (R194). -/
theorem sniff_listens (preamble : Option Nat) :
    exec (.sniff preamble) s = .next (sniffed preamble (updTrx s (fun t => { t with sniffAt := sniffSlot s }))) := by
  have works' : radioOn (updTrx s (fun t => { t with sniffAt := sniffSlot s })) = true := works
  have enabled' : trxEn (updTrx s (fun t => { t with sniffAt := sniffSlot s })) = true := enabled
  simp only [exec, execSniff, due, works', enabled', updTrx_trx, sniffs, notOn, quiet, noAck, noTx, Bool.not_true, Option.isSome_none,
    Bool.or_self, Bool.false_eq_true, if_false]
  rfl

variable (noSniff : s.trx.sniffing = false)
include noSniff

/-- SNIFF that hears a preamble (R194). -/
theorem sniff_hears (n : Nat) : exec (.sniff (some n)) s = .next { s with trx := { s.trx with
    sniffAt := sniffSlot s, sniffing := true, sniffEnd := n + fourOctets s.trx, cntDet := satInc s.trx.cntDet 65535
    evt := withBit s.trx.evt 2 true } } := by
  have kept : sniffLost { s.trx with sniffAt := sniffSlot s } = { s.trx with sniffAt := sniffSlot s } := sniffLost_listening noSniff
  rw [sniff_listens due works enabled sniffs notOn quiet noAck noTx, sniffed, trxEvt, updTrx, updTrx, updTrx, kept]
  rfl

/-- SNIFF that hears nothing: the RFPLL goes off (R194). -/
theorem sniff_silent (awake : s.pwr.state ≠ .slumber) : ∃ K, exec (.sniff none) s = .next { s with
    trx := { s.trx with sniffAt := sniffSlot s }, clk := K } ∧ K.rf.st = .off ∧ K.rfPower = false := by
  have kept : sniffLost { s.trx with sniffAt := sniffSlot s } = { s.trx with sniffAt := sniffSlot s } := sniffLost_listening noSniff
  obtain ⟨K, follows, off, unpowered⟩ := rfFollow_off
    (s := { s with trx := { s.trx with sniffAt := sniffSlot s }, clk := { s.clk with rfPower := false } })
    (trxState_betweenSniffs noTx noAck quiet noSniff sniffs notOn) rfl
  refine ⟨K, ?_, off, unpowered⟩
  rw [sniff_listens due works enabled sniffs notOn quiet noAck noTx, sniffed, sniffOff, if_neg (by exact awake), updTrx, updTrx, kept]
  exact congrArg Host.Outcome.next follows

end

/-- A tune keeps the RFPLL powered; from off it is a band search on the carrier asked for (R300, R302). -/
theorem tune_powered (hz : Nat) (c : Clk) : (tune hz c).rfPower = c.rfPower ∧
    (c.rf.st = .off → (tune hz c).carrier = hz ∧ (tune hz c).rf.st = .search) := by
  unfold tune
  dsimp only
  split
  · rename_i busy
    refine ⟨rfl, fun off => ?_⟩
    rw [off] at busy
    exact absurd busy (by decide)
  · exact ⟨rfl, fun off => ⟨rfl, by simp [off]⟩⟩

/-- SNIFF_RFPLL_START within 100 µs of a sniff instant (R194, R300). -/
theorem sniffRfpllStart_due {s : State} (works : radioOn s = true) (enabled : trxEn s = true) (sniffs : bit s.trx.ctrl 29 = true)
    (notOn : bit s.trx.ctrl 30 = false) (awake : s.pwr.state ≠ .slumber) (off : trxState s = 0) (soon : sniffIn s ≤ usCyc 100)
    (inRange : carrierOk (carrierOf s.trx (fld s.trx.chan 15 0)) = true) : exec .sniffRfpllStart s =
      .next { s with clk := tune (carrierOf s.trx (fld s.trx.chan 15 0)) { s.clk with rfPower := true } } := by
  simp [exec, execSniffRfpllStart, works, enabled, sniffs, notOn, awake, off, soon, inRange, updClk]

/-! ## The matcher -/

section
variable {s : State} {x : MatchRun}

theorem matchNext_empty (empty : s.trx.matching = []) : matchNext s = s := by
  simp only [matchNext, empty]

section
variable (one : s.trx.matching = [x]) (noReturn : s.cry.ret = [])
include one noReturn

/-- MATCHER_RESULT of a failed check of the only frame in hand counts it for its slot and by its reason (R196). -/
theorem matcherResult_fails (replay : Bool) (failed : x.check = if replay then .replay else .bad) :
    exec .matcherResult s = .next { s with trx := { s.trx with
      matching := []
      matcher := upd s.trx.matcher x.slot (fun c => { c with fails := satInc c.fails 65535 })
      cntReplay := if replay then satInc s.trx.cntReplay 65535 else s.trx.cntReplay
      cntAuth := if replay then s.trx.cntAuth else satInc s.trx.cntAuth 65535
      evt := withBit s.trx.evt 6 true } } := by
  refine congrArg Host.Outcome.next ((congrArg matchEnd (portReturn_none noReturn)).trans ?_)
  have none_left : (matchFail x.slot replay (updTrx s (fun t => { t with matching := [] }))).trx.matching = [] := rfl
  cases replay with
  | false =>
    simp only [matchEnd, one, failed, matchNext_empty none_left, Bool.false_eq_true, if_false]
    simp only [matchFail, trxEvt, updTrx, Bool.false_eq_true, if_false]
  | true =>
    simp only [matchEnd, one, failed, matchNext_empty none_left, if_true]
    simp only [matchFail, trxEvt, updTrx, if_true]

/-- MATCHER_RESULT of a passed check of the only frame in hand (R196). -/
theorem matcherResult_passes {pay : List Byte} (passed : x.check = .good pay) :
    exec .matcherResult s = .next (matchNext (matchPass x pay (updTrx s (fun t => { t with matching := [] })))) := by
  refine congrArg Host.Outcome.next ((congrArg matchEnd (portReturn_none noReturn)).trans ?_)
  simp [matchEnd, one, passed]

end

/-- A passed check raises the partner's frame counter, counts the hit, and fires the slot's source, while no update waits for the check
(R193, R196). -/
theorem matchPass_known {pay : List Byte} {i : Fin 64} (known : ptFind s.trx (BitVec.ofNat 16 (natSrc x.psdu)) = some i)
    (anyFrame : bit s.trx.ptCfg 6 = false) : matchPass x pay s = fire (0x08 + x.slot.val) { s with trx := { s.trx with
      pt := upd s.trx.pt i (fun e => { e with fcnt := BitVec.ofNat 32 (natFcnt x.psdu) })
      matcher := upd s.trx.matcher x.slot (fun c => { c with hits := satInc c.hits 65535 }) } } := by
  simp [matchPass, updTrx, known, anyFrame]

section
variable (usable : unusable s 50 = false)
include usable

/-- The check of a frame from an unknown partner fails (R196). -/
theorem beginCheck_unknown (unknown : ptFind s.trx (BitVec.ofNat 16 (natSrc x.psdu)) = none) : beginCheck x s = (.bad, s) := by
  simp only [beginCheck, usable, unknown, Bool.false_eq_true, if_false]

/-- The check of a frame whose counter is not above its partner's last one fails as a replay (R196). -/
theorem beginCheck_replay {i : Fin 64} (known : ptFind s.trx (BitVec.ofNat 16 (natSrc x.psdu)) = some i)
    (old : natFcnt x.psdu ≤ s.trx.pt[i].fcnt.toNat) : beginCheck x s = (.replay, s) := by
  simp only [beginCheck, usable, known, old, Bool.false_eq_true, if_false, if_true]

end
end

/-! ## Acknowledgements -/

/-- The radio takes up the acknowledgement that is due: it is due no more, and no frame is being received (R187). -/
def takesAck (s : State) : State := updTrx s (fun t => { t with ackDue := none, rxOn := false })

section
variable {s : State} {k : AckRun} {r : Resv} (due : s.trx.ackDue = some k) (noDesc : k.desc = none)
  (works : radioOn s = true) (time : ackAfter s.trx k ≤ sinceT s.trx k.since) (locked : s.clk.rf.st = .locked)
  (usable : unusable s 49 = false)
  (admitted : admissionTest (takesAck s) true (carrierOf s.trx (fld s.trx.chan 15 0))
    (airUs s.trx (frameOctets s.trx k.sun 0 k.psdu.length)) = .ok r)
include due noDesc works time locked usable admitted

/-- ACK_SEND of an acknowledgement that is due and admitted charges its airtime and sends it (R187, R214). -/
theorem ackSend_admitted : exec .ackSend s = .next (radioEnd
    (updTrx (charge r (airUs s.trx (frameOctets s.trx k.sun 0 k.psdu.length)) (clampPower r.sub (takesAck s)))
      (fun t => sendAir (sendPower r.sub (takesAck s))
        (airOf t k.sun (if k.sun then k.psdu.length = 7 else k.psdu.length = 12) k.white (preOf t) k.psdu) t))) := by
  have goes : (!radioOn s || decide (sinceT s.trx k.since < ackAfter s.trx k)) = false := by simp [works, time]
  have locked' : ((takesAck s).clk.rf.st != .locked) = false := by simp [takesAck, locked]
  have asked : rgyAdmit true (carrierOf (takesAck s).trx (fld (takesAck s).trx.chan 15 0))
      (airUs s.trx (frameOctets s.trx k.sun 0 k.psdu.length)) (takesAck s) = (.ok r, takesAck s) := rgyAdmit_ok usable admitted
  rw [takesAck] at locked' asked
  simp only [exec, execAckSend, takesAck, due, goes, locked', asked, noDesc, decide_ite, Bool.false_eq_true, if_false]

/-- What an acknowledgement that is sent leaves, its airtime charged to its sub-band (R187, R214, R216). -/
theorem ackSend_eq :
    let us := airUs s.trx (frameOctets s.trx k.sun 0 k.psdu.length)
    let air := airOf s.trx k.sun (if k.sun then k.psdu.length = 7 else k.psdu.length = 12) k.white (preOf s.trx) k.psdu
    ∃ R, R.sub[r.sub] = addUs us s.rgy.sub[r.sub] ∧ exec .ackSend s = .next (radioEnd { s with rgy := R, trx := { s.trx with
      ackDue := none, rxOn := false, air := air, airDev := airDevs s.trx air, airPwr := sendPower r.sub s } }) := by
  intro us air
  obtain ⟨R, charged, airtime⟩ := charge_frame r us (clampPower r.sub (takesAck s))
  rw [clampPower_eq, clampRgy_sub] at airtime
  refine ⟨R, airtime, ?_⟩
  have power : sendPower r.sub (takesAck s) = sendPower r.sub s := rfl
  rw [ackSend_admitted due noDesc works time locked usable admitted, charged, clampPower_eq, power]
  simp only [updTrx, takesAck, sendAir, airOf_inHand, preOf_inHand, airDevs_inHand, air]

end

/-- Settles O30: the two outcomes of a sniff, the tune before it, each verdict of the matcher with its counts, and the acknowledgement sent. -/
theorem sniffAndMatcher : Obligations.SniffAndMatcher := by
  unfold Obligations.SniffAndMatcher
  refine fun s => ⟨fun due works enabled sniffs notOn quiet noAck noTx noSniff => ⟨fun n => ?hears, fun awake => ?silent⟩,
    fun works enabled sniffs notOn awake off soon inRange => ?start,
    fun x one noReturn => ⟨fun bad => ?auth, fun old => ?replay, fun pay i passed known anyFrame => ?passes⟩,
    fun x usable => ⟨beginCheck_unknown usable, fun i known old => beginCheck_replay usable known old⟩,
    fun k r due noDesc works time locked usable admitted => ?ack⟩
  case hears => exact sniff_hears due works enabled sniffs notOn quiet noAck noTx noSniff n
  case silent =>
    obtain ⟨K, answer, off, unpowered⟩ := sniff_silent due works enabled sniffs notOn quiet noAck noTx noSniff awake
    exact ⟨_, answer, rfl, rfl, noSniff, rfl, off, unpowered⟩
  case start =>
    obtain ⟨powered, tuned⟩ := tune_powered (carrierOf s.trx (fld s.trx.chan 15 0)) { s.clk with rfPower := true }
    exact ⟨_, sniffRfpllStart_due works enabled sniffs notOn awake off soon inRange, rfl, powered, tuned⟩
  case auth =>
    have answer := matcherResult_fails one noReturn false bad
    refine ⟨_, answer, rfl, rfl, bit_withBit _ 6 6 true (by decide), rfl, rfl, ?_, rfl⟩
    exact congrArg Matcher.fails (upd_same s.trx.matcher x.slot _)
  case replay =>
    have answer := matcherResult_fails one noReturn true old
    refine ⟨_, answer, rfl, rfl, bit_withBit _ 6 6 true (by decide), rfl, rfl, ?_, rfl⟩
    exact congrArg Matcher.fails (upd_same s.trx.matcher x.slot _)
  case passes =>
    have answer := matcherResult_passes one noReturn passed
    rw [matchPass_known (s := updTrx s (fun t => { t with matching := [] })) known anyFrame] at answer
    refine ⟨_, answer, rfl, rfl, upd_same s.trx.pt i _, fun j other => upd_other s.trx.pt i j _ other, ?_⟩
    exact congrArg Matcher.hits (upd_same s.trx.matcher x.slot _)
  case ack =>
    obtain ⟨R, airtime, answer⟩ := ackSend_eq due noDesc works time locked usable admitted
    obtain ⟨C, N, E, K, ended, -⟩ := radioEnd_frame { s with rgy := R, trx := _ }
    rw [ended] at answer
    exact ⟨_, answer, rfl, rfl, rfl, rfl, airtime, rfl⟩

end Sys2Proof.Machine

/-!
Queues: what the operations that the cipher engine's events share change: the accepted jobs, and a job that ends (R228, R233, R234, R250).
-/

namespace Sys2Proof.Machine

open Sys2Proof

/-- The notes of which job is at the head of its queue leave the queues otherwise as they are (R228). -/
theorem queued_markHeads (now : Nat) (seen l : List Job) : queued (markHeads now seen l) = queued l := by
  induction l generalizing seen with
  | nil => rfl
  | cons j rest ih =>
    simp only [queued] at ih
    simp only [markHeads, queued, List.map_cons, ih]
    congr 1
    split <;> rfl

/-- The completion of a job (R233, R234). -/
def completionOf (j : Job) (st unit outLen : Nat) : Cpl :=
  { status := st, tag := j.tag, seq := j.seq, cls := j.cls, unit := unit, cookie := j.w[7], outLen := if st = 0 then outLen else 0
    accept := j.accept }

/-- Dispatch that stops while completions wait for a full ring shows in CPL_STALL and its event flag only (R233). -/
theorem cplStall_frame (s : State) : ∃ S E, cplStall s = { s with cry := { s.cry with stall := S, evt := E } } := by
  unfold cplStall
  split
  · exact ⟨_, _, rfl⟩
  · exact ⟨s.cry.stall, s.cry.evt, rfl⟩

/-- A firmware job's status goes to one of the counts (R250). -/
theorem countStatus_frame (st : Nat) (c : Cry) : ∃ F A O, countStatus false st c = { c with cntFw := F, cntAuth := A, cntOther := O } := by
  unfold countStatus
  split
  · exact ⟨_, c.cntAuth, c.cntOther, rfl⟩
  · split
    · exact ⟨c.cntFw, _, c.cntOther, rfl⟩
    · exact ⟨c.cntFw, c.cntAuth, _, rfl⟩

/-- The event flag of a status (R234, R250). -/
def statusEvt (st : Nat) (s : State) : State := if st = 1 then cryEvt 1 s else if 2 ≤ st then cryEvt 2 s else s

theorem statusEvt_frame (st : Nat) (s : State) : ∃ E, statusEvt st s = { s with cry := { s.cry with evt := E } } := by
  unfold statusEvt
  split
  · exact ⟨_, rfl⟩
  · split
    · exact ⟨_, rfl⟩
    · exact ⟨s.cry.evt, rfl⟩

theorem finishJob_eq (j : Job) (st unit outLen : Nat) (s : State) : finishJob j st unit outLen s = cplStall (statusEvt st
    (updCry s (fun c => countStatus false st { c with done := c.done ++ [completionOf j st unit outLen] }))) := rfl

/-- A firmware job that ends adds its completion to those that wait, and changes the counts, event flags and CPL_STALL at most (R233, R250). -/
theorem finishJob_frame (j : Job) (st unit outLen : Nat) (s : State) : ∃ F A O S E, finishJob j st unit outLen s = { s with cry := { s.cry with
    done := s.cry.done ++ [completionOf j st unit outLen], cntFw := F, cntAuth := A, cntOther := O, stall := S, evt := E } } := by
  obtain ⟨F, A, O, counted⟩ := countStatus_frame st { s.cry with done := s.cry.done ++ [completionOf j st unit outLen] }
  obtain ⟨E, flagged⟩ := statusEvt_frame st { s with cry := _ }
  obtain ⟨S, E', stalls⟩ := cplStall_frame { s with cry := _ }
  rw [finishJob_eq, updCry, counted, flagged, stalls]
  exact ⟨F, A, O, S, E', rfl⟩

/-- Firmware jobs that end one after another add their completions in that order (R233, R246). -/
theorem foldl_finishJob (l : List Job) (st unit outLen : Nat) (s : State) : ∃ F A O S E,
    l.foldl (fun s j => finishJob j st unit outLen s) s = { s with cry := { s.cry with
      done := s.cry.done ++ l.map (completionOf · st unit outLen), cntFw := F, cntAuth := A, cntOther := O, stall := S, evt := E } } := by
  induction l generalizing s with
  | nil => exact ⟨s.cry.cntFw, s.cry.cntAuth, s.cry.cntOther, s.cry.stall, s.cry.evt, by simp⟩
  | cons j rest ih =>
    obtain ⟨F, A, O, S, E, first⟩ := finishJob_frame j st unit outLen s
    obtain ⟨F', A', O', S', E', others⟩ := ih (finishJob j st unit outLen s)
    exact ⟨F', A', O', S', E', by rw [List.foldl_cons, others, first, List.map_cons, List.append_assoc, List.singleton_append]⟩

end Sys2Proof.Machine

/-!
Engine commands: accesses that reach the cipher engine, and the end of a known-answer test (R223, R232, R233, R242, R243, R246, R250, R325).
-/

namespace Sys2Proof.Machine

open Sys2Proof

/-- A register write that reaches the cipher engine and is taken there is answered OKAY. -/
theorem cryBus_reaches {m : Mid} {off : Nat} {d : W32} {s s' : State} (h : reaches m .cry (0x40300000 + off) d s = true)
    (takes : cryWrite m off d (served m .cry s) = some s') : cryBus m off d s = okay m 0 s' := busWrite_reaches h takes

section
variable (m : Mid) (d : W32) (s : State)

/-- CRY_Q_c_PROD lies 8 above the base register of its ring (R250). -/
theorem cryWrite_prod (c : Fin 4) : cryWrite m (0x028 + 0x10 * c.val) d s = some (effCryProd m c d s) := by
  match c with
  | 0 | 1 | 2 | 3 => rfl

/-- CRY_CPL_CONS takes its count (R233). -/
theorem cryWrite_cplCons : cryWrite m 0x07C d s = some (updCry s (fun c => { c with cplCons := fld d 8 0 })) := rfl

/-- CRY_FLUSH flushes the classes of its mask (R246). -/
theorem cryWrite_flush : cryWrite m 0x060 d s = some (effFlush (fld d 3 0) s) := rfl

/-- CRY_UNIT_u with OUT_REQ alone (R242). -/
theorem cryWrite_outReq (u : Fin 5) : cryWrite m (0x080 + 4 * u.val) 0x80000000 s = some (effOut u s) := by
  match u with
  | 0 | 1 | 2 | 3 | 4 => rfl

/-- CRY_UNIT_u with IN_REQ alone (R242). -/
theorem cryWrite_inReq (u : Fin 5) : cryWrite m (0x080 + 4 * u.val) 0x40000000 s = some (effIn u s) := by
  match u with
  | 0 | 1 | 2 | 3 | 4 => rfl

/-- CRY_CNT_CLR clears the counts of the cipher engine (R250). -/
theorem cryWrite_cntClr : cryWrite m 0x0A8 1 s = some (updCry s (fun c => { c with
    cntInt := 0, cntFw := 0, cntAuth := 0, cntOther := 0, cntLost := 0 })) := rfl

end

/-- The mask of a flush, as CRY_FLUSH holds it. -/
theorem fld_flushMask (mask : BitVec 4) : fld (put mask.toNat 0) 3 0 = mask.toNat := by
  have inRange := mask.isLt
  simp only [fld, put, BitVec.toNat_ofNat, Nat.shiftLeft_zero, Nat.shiftRight_zero]
  omega

/-- A ring once a master has written its PROD: the descriptors made available are its writer's (R223, R232). -/
def ringProduced (m : Mid) (p : Nat) (r : JobRing) : JobRing :=
  { r with
    prod := p
    writer := r.writer.take (ringAvail r.size p r.cons) ++ List.replicate (ringAvail r.size p r.cons - r.writer.length) m }

/-- A write of PROD changes its ring, and aborts an entry to SLUMBER (R223, R232, R325). -/
theorem effCryProd_eq (m : Mid) (c : Fin 4) (d : W32) (s : State) : ∃ P Q, effCryProd m c d s = { s with
    cry := { s.cry with ring := upd s.cry.ring c (ringProduced m (fld d 8 0)) }, pwr := P, pio := Q } :=
  fence_frame (updCry s (fun q => { q with ring := upd q.ring c (ringProduced m (fld d 8 0)) }))

/-- Descriptors that were available before stay their writer's while PROD does not go back (R232). -/
theorem ringProduced_writer {m : Mid} {p : Nat} {r : JobRing} (more : r.writer.length ≤ ringAvail r.size p r.cons) :
    (ringProduced m p r).writer = r.writer ++ List.replicate (ringAvail r.size p r.cons - r.writer.length) m := by
  rw [ringProduced, List.take_of_length_le more]

/-- Whether FLUSH of a mask of classes takes a job: the radio's jobs stay (R246). -/
def flushes (mask : Nat) (j : Job) : Bool := j.user != .trx && mask.testBit j.cls.val

/-- FLUSH takes the jobs that it flushes from the queues and completes them FLUSHED (R246). -/
theorem effFlush_eq (mask : Nat) (s : State) : ∃ F A O S E, effFlush mask s = { s with cry := { s.cry with
    jobs := markHeads s.time [] (s.cry.jobs.filter (fun j => !flushes mask j))
    done := s.cry.done ++ (s.cry.jobs.filter (flushes mask)).map (completionOf · 0x40 7 0)
    cntFw := F, cntAuth := A, cntOther := O, stall := S, evt := E } } :=
  foldl_finishJob (s.cry.jobs.filter (flushes mask)) 0x40 7 0 (setJobs (s.cry.jobs.filter (fun j => !flushes mask j)) s)

section
variable {u : Fin 5} {s : State}

/-- An update of a unit looks at nothing but that unit. -/
theorem updUnit_congr {f g : CUnit → CUnit} (same : f s.cry.unit[u] = g s.cry.unit[u]) : updUnit s u f = updUnit s u g := by
  rw [updUnit, updUnit, updCry, updCry, upd_congr same]

/-- OUT_REQ of a unit in service: it leaves service, once what it runs or holds has ended (R242). -/
theorem effOut_inSvc (noTest : underTest s (51 + u.val) = false) (inSvc : s.cry.unit[u].st = .inSvc) : effOut u s =
    updUnit s u (fun x => { x with st := if x.run.isSome || x.susp.isSome then .draining else .out }) := by
  rw [effOut, noTest, if_neg Bool.false_ne_true]
  exact updUnit_congr (by simp only [inSvc])

/-- IN_REQ of a unit that is out or has failed starts its known-answer test (R242). -/
theorem effIn_out (noTest : underTest s (51 + u.val) = false) (isOut : s.cry.unit[u].st = .out ∨ s.cry.unit[u].st = .failed) :
    effIn u s = updUnit s u (fun x => { x with st := .testing }) := by
  rw [effIn, noTest, if_neg Bool.false_ne_true]
  exact updUnit_congr (if_pos (by simpa using isOut))

/-- KAT_END of a unit under its known-answer test (R243). -/
theorem katEnd_testing (pass : Bool) (tests : s.cry.unit[u].st = .testing) : exec (.katEnd u pass) s =
    .next (cryEvt (if pass then 6 else 5) (updUnit s u (fun x => { x with
      st := if pass then .inSvc else .failed, inAt := if pass then some s.time else x.inAt }))) :=
  congrArg Host.Outcome.next (if_pos tests)

end

/-- Settles O31: each register write by what the engine's register does with it, and the end of a known-answer test. -/
theorem engineCommands : Obligations.EngineCommands := by
  unfold Obligations.EngineCommands
  refine fun s m => ⟨fun c d h => ?prod, fun d h => ?cons, fun mask h => ?flush, fun u noTest h inSvc => ?out,
    fun u noTest h isOut => ?into, fun u pass tests => ?test, fun h => ?counts⟩
  case prod =>
    obtain ⟨P, Q, produced⟩ := effCryProd_eq m c d (served m .cry s)
    have answer := cryBus_reaches h ((cryWrite_prod m d _ c).trans (congrArg some produced))
    simp only [served_cry] at answer
    have ring : (upd s.cry.ring c (ringProduced m (fld d 8 0)))[c] = ringProduced m (fld d 8 0) s.cry.ring[c] := upd_same _ c _
    exact ⟨_, congrArg Host.Outcome.next answer, rfl, congrArg JobRing.prod ring, (congrArg JobRing.cons ring :),
      fun more => (congrArg JobRing.writer ring).trans (ringProduced_writer more), fun j other => upd_other _ c j _ other⟩
  case cons =>
    have takes := cryWrite_cplCons m d (served m .cry s)
    rw [updCry, served_cry] at takes
    exact congrArg Host.Outcome.next (cryBus_reaches (off := 0x07C) h takes)
  case flush =>
    obtain ⟨F, A, O, S, E, flushed⟩ := effFlush_eq mask.toNat (served m .cry s)
    have takes := cryWrite_flush m (put mask.toNat 0) (served m .cry s)
    rw [fld_flushMask, flushed] at takes
    have answer := cryBus_reaches (off := 0x060) h takes
    simp only [served_cry] at answer
    exact ⟨_, congrArg Host.Outcome.next answer, rfl, rfl, rfl, queued_markHeads _ [] _, rfl⟩
  case out =>
    have effect := effOut_inSvc (s := served m .cry s) (by rwa [underTest_served]) (by rwa [served_cry])
    have answer := cryBus_reaches h ((cryWrite_outReq m _ u).trans (congrArg some effect))
    simp only [updUnit, updCry, served_cry] at answer
    exact ⟨_, congrArg Host.Outcome.next answer, rfl, upd_same _ u _, fun j other => upd_other _ u j _ other⟩
  case into =>
    have effect := effIn_out (s := served m .cry s) (by rwa [underTest_served]) (by rwa [served_cry])
    have answer := cryBus_reaches h ((cryWrite_inReq m _ u).trans (congrArg some effect))
    simp only [updUnit, updCry, served_cry] at answer
    exact ⟨_, congrArg Host.Outcome.next answer, rfl, upd_same _ u _, fun j other => upd_other _ u j _ other⟩
  case test => exact ⟨_, katEnd_testing pass tests, rfl, upd_same _ u _, fun j other => upd_other _ u j _ other⟩
  case counts =>
    have takes := cryWrite_cntClr m (served m .cry s)
    rw [updCry, served_cry] at takes
    exact congrArg Host.Outcome.next (cryBus_reaches (off := 0x0A8) h takes)

end Sys2Proof.Machine

/-!
Verification: PKV_START while an entry to SLUMBER is under way (R244, R323, R325).
-/

namespace Sys2Proof.Machine

open Sys2Proof

/-- Refuser CRY ends an entry to SLUMBER that is under way (R325). -/
theorem fence_entering {s : State} {prior : PwrState} (entering : s.pwr.move = .entering .slumber prior) : (fence s).pwr.move = .none := by
  simp only [fence, abortEntry, entering, pwrEvt, lastWake]

/-- PKV_START that the verify unit takes ends an entry to SLUMBER that is under way: a verification that runs is one of the conditions of
refuser CRY (R323, R325). -/
theorem pkvStart_aborts {s : State} {m : Mid} {prior : PwrState} (h : reaches m .pkv 0x40310000 1 s = true) (free : pkvHeld s.pkv = false)
    (entering : s.pwr.move = .entering .slumber prior) : ∃ t, exec (.pkvStart m) s = .next t ∧ t.pwr.move = .none := by
  have takes : pkvWrite 0 1 (served m .pkv s) = some (updPkv (fence (served m .pkv s))
      (fun p => if p.owner = .cfg then { p with pend := true } else { p with owner := .firmware })) := by
    refine if_neg ?_
    rw [served_pkv, free]
    exact Bool.false_ne_true
  exact ⟨_, congrArg Host.Outcome.next (busWrite_reaches h takes), fence_entering (by rwa [served_pwr])⟩

/-- A device out of reset whose entry to SLUMBER from RUN is under way, its pads held and its verify unit idle (R325, R328). -/
def enteringSlumber : State :=
  { State.reset with
    clk := { State.reset.clk with xtalOk := true, xtalOn := true, sys := { State.reset.clk.sys with st := .locked } }
    boot := { State.reset.boot with inReset := false, started := true, bootRom := false, released := true }
    pwr := { State.reset.pwr with hostOn := true, move := .entering .slumber .run }
    pio := { State.reset.pio with hold := 7 } }

/-- The host core starts a verification on that device. -/
theorem enteringSlumber_starts : reaches .hostS .pkv 0x40310000 1 enteringSlumber = true ∧ pkvHeld enteringSlumber.pkv = false ∧
    enteringSlumber.pkv.owner = .none := by
  decide

/-- Refutes O32: PKV_START does not leave the power controller as it is. While an entry to SLUMBER is under way a verification that starts
ends the entry with source FENCE (R323, R325), as a write of PROD does. -/
theorem not_keysAndVerify : ¬ Obligations.KeysAndVerify := by
  unfold Obligations.KeysAndVerify
  intro holds
  obtain ⟨h, free, idle⟩ := enteringSlumber_starts
  obtain ⟨-, -, -, verify, -⟩ := holds enteringSlumber
  obtain ⟨-, starts, -⟩ := verify .hostS h
  obtain ⟨t, answer, ended⟩ := pkvStart_aborts h free (s := enteringSlumber) rfl
  obtain rfl := Host.Outcome.next.inj (answer.symm.trans (starts free idle))
  have goesOn : (served .hostS .pkv enteringSlumber).pwr.move = .entering .slumber .run := by rw [served_pwr]; rfl
  exact PwrMove.noConfusion (ended.symm.trans goesOn)

end Sys2Proof.Machine

/-!
Jobs accepted and dispatched: the way of a job from its ring into a unit (R223, R226 to R228, R232).
-/

namespace Sys2Proof.Machine

open Sys2Proof

/-! ## Accesses answered OKAY (log 20) -/

/-- A piece answered OKAY leaves a task that had nothing noted without a note: it did not have to wait. -/
theorem dmaPiece_okay {m : Mid} {k : Kind} {a n : Nat} {d b : List Byte} {s s1 : State} (noTask : s.yard.eng = {})
    (answer : dmaPiece m k a n d s = ((.okay, b), s1)) : s1.yard.eng = {} := by
  have granted : ∀ t s, (grant t m s).yard.eng = s.yard.eng := by
    intro t s
    unfold grant
    split <;> rfl
  have got : (issue s).yard.eng.got = [] := congrArg EngRun.got noTask
  have refuse : (issue s).yard.eng.refuse = none := congrArg EngRun.refuse noTask
  unfold dmaPiece at answer
  simp only [got, refuse, pieceErr] at answer
  repeat' split at answer
  all_goals simp only [Prod.mk.injEq, reduceCtorEq, false_and] at answer
  all_goals
    obtain ⟨-, rfl⟩ := answer
    exact (granted _ _).trans noTask

/-- A read answered OKAY did not have to wait. -/
theorem dmaRead_okay {m : Mid} {a n : Nat} {l : List Byte} {s s1 : State} (noTask : s.yard.eng = {})
    (answer : dmaRead m a n s = ((.okay, l), s1)) : s1.yard.eng = {} := by
  unfold dmaRead at answer
  generalize pieces n a n = cut at answer
  induction cut generalizing s l with
  | nil =>
    obtain ⟨-, rfl⟩ := Prod.mk.inj answer
    exact noTask
  | cons piece rest ih =>
    obtain ⟨a, n⟩ := piece
    simp only [dmaReadL] at answer
    rcases first : dmaPiece m .read a n [] s with ⟨⟨c, b⟩, s2⟩
    rw [first] at answer
    cases c with
    | okay =>
      rcases others : dmaReadL m rest s2 with ⟨⟨c', l'⟩, s3⟩
      simp only [others, Prod.mk.injEq] at answer
      obtain ⟨⟨rfl, -⟩, rfl⟩ := answer
      exact ih (dmaPiece_okay noTask first) others
    | _ => simp at answer

/-- An event of an engine that leaves nothing noted for its task, where nothing waits, has its effect; what has come to wait goes on. -/
theorem engineEvent_noTask {c : Instr} {s : State} (idle : yardIdle s) (noTask : (runEvent c s).yard.eng = {}) :
    engineEvent c s = settle (runEvent c s) := by
  rw [engineEvent_answered idle (congrArg EngRun.stuck noTask), updEng_same noTask.symm]

/-! ## Acceptance (R223, R226, R227) -/

/-- The job of a descriptor that is accepted (R227, R232). -/
def jobOf (c : Fin 4) (tag : Nat) (w : Vector W32 8) (s : State) : Job :=
  { tag := BitVec.ofNat 8 tag, cls := c, seq := s.cry.seq, w := w, user := .mid (s.cry.ring[c].writer.headD .hostS), aged := false
    accept := s.time, key := [] }

/-- The engine once it has taken a ring's next descriptor with a tag (R223, R227). -/
def tookNext (c : Fin 4) (tag : Nat) (q : Cry) : Cry :=
  { q with
    ring := upd q.ring c (fun r => { r with cons := (r.cons + 1) % ringMod r.size, writer := r.writer.tail })
    lastTag := tag, seq := q.seq + 1 }

section
variable {c : Fin 4} {tag : Nat} {l : List Byte} {s s1 : State} (free : nextTag s.cry = some tag) (on : cryOn s = true)
  (ringOn : s.cry.ring[c].size ≠ 0) (available : ringAvail s.cry.ring[c].size s.cry.ring[c].prod s.cry.ring[c].cons ≠ 0)
  (read : dmaRead .cryDma (s.cry.ring[c].base.toNat + 32 * (s.cry.ring[c].cons % 2 ^ s.cry.ring[c].size)) 32 (fence s) = ((.okay, l), s1))
include free on ringOn available read

/-- A well-formed descriptor joins the accepted jobs (R223). -/
theorem acceptJob_joins (formed : jobCheck c (descWords l) = 0) : acceptJob c s =
    setJobs ((updCry s1 (tookNext c tag)).cry.jobs ++ [jobOf c tag (descWords l) s]) (updCry s1 (tookNext c tag)) := by
  simp only [acceptJob, free, on, ringOn, available, read, formed, decide_false, Bool.not_true, Bool.or_false, bne_self_eq_false,
    Bool.false_eq_true, if_false]
  rfl

/-- A malformed descriptor ends with its code (R226). -/
theorem acceptJob_ends (malformed : jobCheck c (descWords l) ≠ 0) : acceptJob c s =
    finishJob (jobOf c tag (descWords l) s) (jobCheck c (descWords l)) 7 0 (updCry s1 (tookNext c tag)) := by
  have ends : (jobCheck c (descWords l) != 0) = true := bne_iff_ne.mpr malformed
  simp only [acceptJob, free, on, ringOn, available, read, ends, decide_false, Bool.not_true, Bool.or_false, bne_self_eq_false,
    Bool.false_eq_true, if_false, if_true]
  rfl

end

/-! ## Dispatch (R228, R232) -/

section
variable {s : State} {u : Fin 5} {j : Job}

/-- A unit in service that holds no job takes the best job of the queues, a core if it is the first free one (R228). -/
theorem dispatch_gives (on : cryOn s = true) (some_unit : noUnit s.cry (isHx u) = false) (inSvc : s.cry.unit[u].st = .inSvc)
    (noStall : s.cry.stall = false) (idle : s.cry.unit[u].run = none) (alone : s.cry.unit[u].susp = none)
    (first : firstFree s.time s.cry u = true) (best : bestJob s.cry (isHx u) = some j) : dispatch u s = giveJob u j s := by
  simp only [dispatch, on, some_unit, inSvc, noStall, idle, alone, first, best, Option.isNone_none, Option.isSome_none, Bool.not_true,
    Bool.true_and, Bool.false_and, Bool.or_true, Bool.or_false, bne_self_eq_false, Bool.false_eq_true, if_false, if_true]

/-- A job whose key slot admits it runs with the key of its slot, a digest with none (R232). -/
theorem giveJob_runs (admitted : slotCheck s.cry j.user j.w = 0) (idle : s.cry.unit[u].run = none) : giveJob u j s =
    updUnit (takeJob j s) u (fun x => { x with
      run := some { j with key := if jobOp j.w = 8 then [] else s.cry.ks[jobSlot j.w].key } }) := by
  have admits : (slotCheck (takeJob j s).cry j.user j.w != 0) = false := bne_eq_false_iff_eq.mpr admitted
  have holdsNone : (takeJob j s).cry.unit[u].run = none := idle
  simp only [giveJob, admits, Bool.false_eq_true, if_false]
  exact updUnit_congr (by simp only [holdsNone]; rfl)

/-- A firmware job that its key slot refuses ends with KEY_EMPTY or POLICY (R232). -/
theorem giveJob_ends (refused : slotCheck s.cry j.user j.w ≠ 0) (firmware : j.user ≠ .trx) : giveJob u j s =
    finishJob j (slotCheck s.cry j.user j.w) 7 0 (takeJob j s) := by
  have refuses : (slotCheck (takeJob j s).cry j.user j.w != 0) = true := bne_iff_ne.mpr refused
  simp only [giveJob, refuses, if_true, closeJob, firmware, if_false]
  rfl

end

/-! ## Ageing (R228) -/

/-- Whether JOB_AGED of a tag raises a job (R228). -/
def ages (age now : Nat) (tag : Byte) (j : Job) : Bool :=
  j.tag = tag && 2 ≤ j.cls.val && (match j.headT with | some h => age * 12288 < 5 * (now - h) | none => false)

/-- A job after JOB_AGED of a tag. -/
def agedBy (age now : Nat) (tag : Byte) (j : Job) : Job := if ages age now tag j then { j with aged := true } else j

theorem agedBy_tag (age now : Nat) (tag : Byte) (j : Job) : (agedBy age now tag j).tag = j.tag := by
  unfold agedBy
  split <;> rfl

theorem agedBy_other {tag : Byte} {j : Job} (age now : Nat) (other : j.tag ≠ tag) : agedBy age now tag j = j := by
  simp [agedBy, ages, other]

/-- JOB_AGED while AGE is not 0 (R228). -/
theorem jobAged_eq {s : State} (tag : Byte) (aging : s.cry.age ≠ 0) : exec (.jobAged tag) s =
    .next { s with cry := { s.cry with jobs := s.cry.jobs.map (agedBy s.cry.age s.time tag) } } := by
  simp only [exec, execJobAged, updCry, aging, if_false]
  rfl

/-- Settles O33: what a descriptor that is read becomes, what a unit does with the best job, and which job JOB_AGED raises. -/
theorem jobStart : Obligations.JobStart := by
  unfold Obligations.JobStart
  refine fun s => ⟨fun c tag l s1 idle free on ringOn available read => ?accept,
    fun u j noReturn on some_unit inSvc noStall idle alone first best => ⟨fun admitted => ?runs, fun refused firmware => ?refused⟩,
    fun j tag h aging queuedJob tagged low head waited => ?aged⟩
  case accept =>
    obtain ⟨P, Q, fenced⟩ := fence_frame s
    have noTask : s1.yard.eng = {} := dmaRead_okay (s := fence s) (by rw [fenced]; exact idle.2.2) read
    obtain ⟨A, Y, after⟩ := dmaRead_rest .cryDma
      (s.cry.ring[c].base.toNat + 32 * (s.cry.ring[c].cons % 2 ^ s.cry.ring[c].size)) 32 (fence s)
    obtain rfl : s1 = { s with act := A, yard := Y, pwr := P, pio := Q } := by
      rw [read, fenced] at after
      exact after
    have taken : (tookNext c tag s.cry).ring[c].cons = (s.cry.ring[c].cons + 1) % ringMod s.cry.ring[c].size :=
      congrArg JobRing.cons (upd_same s.cry.ring c _)
    by_cases formed : jobCheck c (descWords l) = 0
    · have joins := acceptJob_joins free on ringOn available read formed
      have answer := engineEvent_noTask (c := .jobAccept c) idle (by rw [runEvent, joins]; exact noTask)
      rw [runEvent, joins] at answer
      exact ⟨_, congrArg Host.Outcome.next answer, rfl, rfl, rfl, taken, rfl, rfl,
        fun _ => ⟨rfl, _, queued_markHeads _ [] _, rfl, rfl, rfl, rfl, rfl⟩, fun malformed => absurd formed malformed⟩
    · have ends := acceptJob_ends free on ringOn available read formed
      obtain ⟨F, A', O, S, E, finished⟩ := finishJob_frame (jobOf c tag (descWords l) s) (jobCheck c (descWords l)) 7 0
        (updCry { s with act := A, yard := Y, pwr := P, pio := Q } (tookNext c tag))
      rw [finished] at ends
      have answer := engineEvent_noTask (c := .jobAccept c) idle (by rw [runEvent, ends]; exact noTask)
      rw [runEvent, ends] at answer
      exact ⟨_, congrArg Host.Outcome.next answer, rfl, rfl, rfl, taken, rfl, rfl, fun wellFormed => absurd wellFormed formed,
        fun _ => ⟨rfl, _, rfl, rfl, rfl, rfl, rfl⟩⟩
  case runs =>
    have gives := (dispatch_gives on some_unit inSvc noStall idle alone first best).trans (giveJob_runs admitted idle)
    have answer := (congrArg portReturn gives).trans (portReturn_none noReturn)
    exact ⟨_, congrArg Host.Outcome.next answer, rfl, queued_markHeads _ [] _, fun v other => upd_other _ u v _ other, upd_same _ u _⟩
  case refused =>
    have gives := (dispatch_gives on some_unit inSvc noStall idle alone first best).trans (giveJob_ends refused firmware)
    obtain ⟨F, A, O, S, E, finished⟩ := finishJob_frame j (slotCheck s.cry j.user j.w) 7 0 (takeJob j s)
    have answer := (congrArg portReturn (gives.trans finished)).trans (portReturn_none noReturn)
    exact ⟨_, congrArg Host.Outcome.next answer, rfl, queued_markHeads _ [] _, rfl, _, rfl, rfl, rfl, rfl, if_neg refused⟩
  case aged =>
    have raised : agedBy s.cry.age s.time tag j = { j with aged := true } := by
      simp [agedBy, ages, tagged, low, head, waited]
    refine ⟨_, jobAged_eq tag aging, rfl, List.mem_map.mpr ⟨j, queuedJob, raised⟩, ?tags, fun k member other => ?kept⟩
    case tags =>
      simp only [List.map_map]
      exact List.map_congr_left fun k _ => agedBy_tag _ _ tag k
    case kept => exact List.mem_map.mpr ⟨k, member, agedBy_other _ _ other⟩

end Sys2Proof.Machine

/-!
Job runs: what a job that runs to its end changes: of memory only the range of its output, and besides only a key slot (R225, R235 to R237,
R241).
-/

namespace Sys2Proof.Machine

open Sys2Proof

/-! ## Accesses of a job -/

theorem pieceSize_le {a n : Nat} (some_left : n ≠ 0) : pieceSize a n ≤ n := by
  unfold pieceSize
  repeat' split
  all_goals omega

/-- A write in pieces counts no more octets than its range holds. -/
theorem dmaWriteL_count (m : Mid) (fuel a n : Nat) (b : List Byte) (w : Nat) (s : State) :
    (dmaWriteL m (pieces fuel a n) b w s).1.2 ≤ w + n := by
  induction fuel generalizing a n b w s with
  | zero => exact Nat.le_add_right w n
  | succ fuel ih =>
    unfold pieces
    split
    · exact Nat.le_add_right w n
    · rename_i some_left
      have fits := pieceSize_le (a := a) some_left
      simp only [dmaWriteL]
      rcases dmaPiece m .write a (pieceSize a n) (b.take (pieceSize a n)) s with ⟨⟨c, _⟩, s1⟩
      cases c with
      | okay => exact (ih _ _ _ _ s1).trans (by omega)
      | _ => exact Nat.le_add_right w n

/-- A write counts no more octets than it is given. -/
theorem dmaWrite_count (m : Mid) (a : Nat) (l : List Byte) (s : State) : (dmaWrite m a l s).1.2 ≤ l.length :=
  (dmaWriteL_count m l.length a l.length l 0 s).trans (by omega)

/-- Zeroing part of a range changes no octet outside the range. -/
theorem dmaZero_within {m : Mid} {a n hi : Nat} (s : State) (within : n ≤ hi) : stores a (a + hi) s (dmaZero m a n s).2 :=
  stores_mono (dmaZero_frame m a n s) ⟨Nat.le_refl a, Nat.add_le_add_left within a⟩

/-- The inputs of a job are read, and nothing is stored (R225). -/
theorem jobInputs_frame (w : Vector W32 8) (lo hi : Nat) (s : State) : stores lo hi s (jobInputs w s).2 := by
  have reads := fun a n s => dmaRead_frame .cryDma a n lo hi s
  have iv := reads (w[6]).toNat (ivLen (jobOp w)) s
  unfold jobInputs
  split
  next s1 readIv =>
    rw [readIv] at iv
    have aad := reads (w[4]).toNat (jobAadLen w) s1
    split
    next s2 readAad =>
      rw [readAad] at aad
      have upTo := stores_trans iv aad
      have src := reads (jobSrc w) (jobLen w) s2
      split
      next s3 readSrc =>
        rw [readSrc] at src
        have upTo := stores_trans upTo src
        have tag := reads (jobSrc w + jobLen w) (if readsTag w then jobTlen w else 0) s3
        split
        next s4 readTag =>
          rw [readTag] at tag
          exact stores_trans upTo tag
        next s4 readTag =>
          rw [readTag] at tag
          exact stores_trans upTo tag
      next s3 readSrc =>
        rw [readSrc] at src
        exact stores_trans upTo src
    next s2 readAad =>
      rw [readAad] at aad
      exact stores_trans iv aad
  next s1 readIv =>
    rw [readIv] at iv
    exact iv

/-! ## Output -/

/-- What a job can change: a range of memory, what its accesses change, and the key slots (R225, R241). -/
def storesKey (lo hi : Nat) (s t : State) : Prop := ∃ u K, stores lo hi s u ∧ t = { u with cry := { u.cry with ks := K } }

theorem storesKey_of_stores {lo hi : Nat} {s t : State} (h : stores lo hi s t) : storesKey lo hi s t := ⟨t, t.cry.ks, h, rfl⟩

theorem storesKey_after {lo hi : Nat} {s t u : State} (first : stores lo hi s t) (second : storesKey lo hi t u) : storesKey lo hi s u := by
  obtain ⟨v, K, store, rfl⟩ := second
  exact ⟨v, K, stores_trans first store, rfl⟩

section
variable (w : Vector W32 8) (key : List Byte) (x : JobIn) (s : State)

/-- The blocks that a broken job had read are of its input (R237). -/
theorem blocksRead_length : (blocksRead w x).length ≤ x.src.length := by
  unfold blocksRead
  split
  · split
    · exact Nat.le_refl _
    · exact List.length_take_le' _ _
  · exact Nat.zero_le _

/-- A job whose read is refused changes of memory no more than the place of the input that it had read (R237). -/
theorem jobBroken_frame : stores (jobDst w) (jobDst w + x.src.length) s (jobBroken w key x s) := by
  unfold jobBroken
  split
  · exact stores_refl _ _ s
  · dsimp only
    generalize written : List.take (blocksRead w x).length _ = out
    have short : out.length ≤ x.src.length := by
      rw [← written]
      exact (List.length_take_le _ _).trans (blocksRead_length w x)
    have store := stores_mono (dmaWrite_frame .cryDma (jobDst w) out s) ⟨Nat.le_refl _, Nat.add_le_add_left short _⟩
    have count := dmaWrite_count .cryDma (jobDst w) out s
    generalize dmaWrite .cryDma (jobDst w) out s = r at store count
    obtain ⟨⟨c, n⟩, s1⟩ := r
    dsimp only at count ⊢
    split
    · exact stores_trans store (dmaZero_within s1 (count.trans short))
    · exact store

/-- The output of a job changes of memory its own range only (R225, R235 to R237, R241). -/
theorem jobOutput_frame (out : List Byte) (ok : Bool) : storesKey (jobDst w) (jobDst w + out.length) s (jobOutput w out ok s).2 := by
  have unchanged := storesKey_of_stores (stores_refl (jobDst w) (jobDst w + out.length) s)
  unfold jobOutput
  dsimp only
  split
  · split
    · exact unchanged
    · split
      · exact unchanged
      · exact ⟨s, _, stores_refl _ _ s, rfl⟩
  · split
    · exact unchanged
    · have store := dmaWrite_frame .cryDma (jobDst w) out s
      have count := dmaWrite_count .cryDma (jobDst w) out s
      generalize dmaWrite .cryDma (jobDst w) out s = r at store count
      obtain ⟨⟨c, n⟩, s1⟩ := r
      cases c with
      | okay =>
        dsimp only
        split
        · exact storesKey_of_stores store
        · exact storesKey_of_stores (stores_trans store (dmaZero_frame .cryDma (jobDst w) out.length s1))
      | _ =>
        dsimp only at count ⊢
        split
        · exact storesKey_of_stores store
        · split
          · obtain ⟨⟨M, P, A, Y, rfl⟩, -⟩ := store
            exact storesKey_of_stores (stores_rest _ _ P A Y)
          · exact storesKey_of_stores (stores_trans store (dmaZero_within s1 count))

/-- The octets that a job's output may take at DST: those of its result, or those of the input that a refused read left it (R225, R237). -/
def outputRoom : Nat := if x.ok then (jobResult w key x.iv x.aad x.src x.tag).1.length else x.src.length

/-- A job that is run changes of memory its output only (R225, R235 to R237). -/
theorem runJob_frame : storesKey (jobDst w) (jobDst w + outputRoom w key (jobInputs w s).1) s (runJob w key s).2 := by
  have read := jobInputs_frame w (jobDst w) (jobDst w + outputRoom w key (jobInputs w s).1) s
  unfold runJob
  generalize jobInputs w s = r at read ⊢
  obtain ⟨x, s1⟩ := r
  dsimp only at read ⊢
  cases ok : x.ok with
  | true =>
    simp only [outputRoom, ok, if_true] at read ⊢
    exact storesKey_after read (jobOutput_frame w s1 _ _)
  | false =>
    simp only [outputRoom, ok] at read ⊢
    exact storesKey_of_stores (stores_trans read (jobBroken_frame w key x s1))

end

end Sys2Proof.Machine

/-!
Jobs ended and posted: the way of a firmware job out of a unit (R225, R233, R235, R237).
-/

namespace Sys2Proof.Machine

open Sys2Proof

/-- An event of an engine, where nothing waits and its accesses are answered (log 20). -/
theorem engineEvent_settles {c : Instr} {s : State} (idle : yardIdle s) (done : answered c s = true) :
    engineEvent c s = settle (updEng (runEvent c s) (fun _ => {})) :=
  engineEvent_answered idle (Option.isNone_iff_eq_none.mp done)

/-! ## The end of a job -/

/-- The state in which a unit's job has left the unit and is run to its end (R225). -/
def vacated (u : Fin 5) (s : State) : State := updUnit s u (fun x => { x with run := none })

/-- A unit in service stays in service when it falls idle (R242). -/
theorem updUnit_drained {u : Fin 5} {s : State} (inSvc : s.cry.unit[u].st = .inSvc) : updUnit s u drained = s := by
  have same : drained s.cry.unit[u] = s.cry.unit[u] := by
    simp only [drained, inSvc, reduceCtorEq, decide_false, Bool.false_and, Bool.false_eq_true, if_false]
  rw [updUnit, updCry, upd_eq_self same]

/-- JOB_END of a firmware job in a unit in service that holds no other job: the job is run, and ends with the status of its run (R225). -/
theorem endJob_firmware {u : Fin 5} {j : Job} {s : State} (runs : s.cry.unit[u].run = some j) (firmware : j.user ≠ .trx)
    (alone : s.cry.unit[u].susp = none) (inSvc : s.cry.unit[u].st = .inSvc) : endJob u s =
    finishJob j (runJob j.w j.key (vacated u s)).1 u.val (outLenOf j.w) (runJob j.w j.key (vacated u s)).2 := by
  obtain ⟨_, K, ⟨⟨M, P, A, Y, rfl⟩, -⟩, ran⟩ := runJob_frame j.w j.key (vacated u s)
  obtain ⟨F, A', O, S, E, finished⟩ := finishJob_frame j (runJob j.w j.key (vacated u s)).1 u.val (outLenOf j.w)
    (runJob j.w j.key (vacated u s)).2
  have left : (finishJob j (runJob j.w j.key (vacated u s)).1 u.val (outLenOf j.w) (runJob j.w j.key (vacated u s)).2).cry.unit[u] =
      { s.cry.unit[u] with run := none } := by
    rw [finished, ran]
    exact upd_same s.cry.unit u _
  rw [vacated] at left ⊢
  have stays := updUnit_drained ((congrArg CUnit.st left).trans inSvc)
  have holdsNone := (congrArg CUnit.susp left).trans alone
  simp only [endJob, runs, firmware, if_false, holdsNone, Option.isSome_none, Bool.false_and, Bool.false_eq_true]
  exact stays

/-! ## Posting (R233) -/

/-- Where the next completion goes in the ring (R233). -/
def cplAddr (c : Cry) : Nat := c.cplBase.toNat + 16 * (c.cplProd % 2 ^ c.cplSize)

theorem cplBytes_length (s : State) (x : Cpl) : (cplBytes s x).length = 16 := by
  simp only [cplBytes, List.length_append, length_leBytes]

/-- Dispatch that goes on shows in CPL_STALL only (R233). -/
theorem cplPosted_frame (s : State) : ∃ S, cplPosted s = { s with cry := { s.cry with stall := S } } := ⟨_, rfl⟩

section
variable {s : State} {x : Cpl} {l : List Cpl} (waits : s.cry.done = x :: l) (on : cryOn s = true) (room : cplFull s.cry = false)
include waits on room

/-- A completion whose entry is written is in the ring (R233). -/
theorem postCpl_written (written : (dmaWrite .cryDma (cplAddr s.cry) (cplBytes s x) s).1.1 = .okay) : ∃ S,
    postCpl s = updCry (dmaWrite .cryDma (cplAddr s.cry) (cplBytes s x) s).2 (fun c => { c with
      done := l, cplProd := (c.cplProd + 1) % ringMod c.cplSize, evt := withBit c.evt 0 true, stall := S }) := by
  rw [cplAddr] at written ⊢
  simp only [postCpl, waits, on, room, Bool.not_true, Bool.or_self, Bool.false_eq_true, if_false, written, if_true]
  generalize dmaWrite _ _ _ s = r
  obtain ⟨S, goesOn⟩ := cplPosted_frame (cryEvt 0 (updCry (updCry r.2 (fun c => { c with done := l }))
    (fun c => { c with cplProd := (c.cplProd + 1) % ringMod c.cplSize })))
  exact ⟨S, goesOn.trans (by simp only [cryEvt, updCry])⟩

/-- A completion whose entry is refused is dropped, and counted as lost (R233). -/
theorem postCpl_lost (refused : (dmaWrite .cryDma (cplAddr s.cry) (cplBytes s x) s).1.1 ≠ .okay) :
    postCpl s = updCry (dmaWrite .cryDma (cplAddr s.cry) (cplBytes s x) s).2 (fun c => { c with
      done := l, cntLost := satInc c.cntLost 255, evt := withBit c.evt 3 true }) := by
  rw [cplAddr] at refused ⊢
  simp only [postCpl, waits, on, room, Bool.not_true, Bool.or_self, Bool.false_eq_true, if_false, refused]
  generalize dmaWrite _ _ _ s = r
  rfl

end

/-- Settles O34: `endJob_firmware` and `runJob_frame` say how a job ends and what it stores, `postCpl_written` and `postCpl_lost` what
becomes of a completion. -/
theorem jobFinish : Obligations.JobFinish := by
  unfold Obligations.JobFinish
  refine fun s idle => ⟨fun u j noReturn runs firmware alone inSvc done => ?ended, fun x l waits on room done => ?posted⟩
  case ended =>
    have ends := endJob_firmware runs firmware alone inSvc
    obtain ⟨_, K, ⟨⟨M, P, A, Y, rfl⟩, reads⟩, ran⟩ := runJob_frame j.w j.key (vacated u s)
    obtain ⟨F, A', O, S, E, finished⟩ := finishJob_frame j (runJob j.w j.key (vacated u s)).1 u.val (outLenOf j.w)
      (runJob j.w j.key (vacated u s)).2
    rw [finished, ran] at ends
    have effect : runEvent (.jobEnd u) s = _ := (congrArg portReturn ends).trans (portReturn_none noReturn)
    have answer := engineEvent_settles idle done
    rw [effect] at answer
    exact ⟨_, congrArg Host.Outcome.next answer, upd_same _ u _, rfl, ⟨_, rfl, rfl, rfl, rfl, rfl, rfl, rfl⟩,
      fun v other => upd_other _ u v _ other, rfl, rfl, rfl, rfl, fun formed a outside => (reads formed).2 a outside⟩
  case posted =>
    have answer := engineEvent_settles idle done
    have store := dmaWrite_frame .cryDma (cplAddr s.cry) (cplBytes s x) s
    rw [cplBytes_length] at store
    by_cases written : (dmaWrite .cryDma (cplAddr s.cry) (cplBytes s x) s).1.1 = .okay
    · obtain ⟨S, posts⟩ := postCpl_written waits on room written
      obtain ⟨⟨M, P, A, Y, after⟩, reads⟩ := store
      rw [after] at posts reads
      rw [runEvent, posts] at answer
      exact ⟨_, congrArg Host.Outcome.next answer, rfl, rfl, rfl, fun _ => ⟨rfl, bit_withBit _ 0 0 true (by decide), rfl⟩,
        fun refused => absurd written refused, fun formed b outside => (reads formed).2 b outside⟩
    · have drops := postCpl_lost waits on room written
      obtain ⟨⟨M, P, A, Y, after⟩, reads⟩ := store
      rw [after] at drops reads
      rw [runEvent, drops] at answer
      exact ⟨_, congrArg Host.Outcome.next answer, rfl, rfl, rfl, fun okay => absurd okay written,
        fun _ => ⟨rfl, bit_withBit _ 3 3 true (by decide), rfl⟩, fun formed b outside => (reads formed).2 b outside⟩

end Sys2Proof.Machine

/-!
Command words: a register word with its top bit set, as GO, SEND, QUEUE and ENABLE write it.
-/

namespace Sys2Proof.Machine

open Sys2Proof

/-- Setting the top bit of a word leaves its bits below. -/
theorem bit_setTop (d : W32) {i : Nat} (below : i < 31) : bit (d ||| 0x80000000) i = bit d i := by
  have clear : (0x80000000 : W32).getLsbD i = false := Nat.testBit_two_pow_of_ne (n := 31) (by omega)
  rw [bit, BitVec.getLsbD_or, clear, Bool.or_false, bit]

theorem bit_setTop_top (d : W32) : bit (d ||| 0x80000000) 31 = true := by
  rw [bit, BitVec.getLsbD_or, Bool.or_eq_true]
  exact Or.inr rfl

/-- Setting the top bit of a word leaves its fields below. -/
theorem fld_setTop (d : W32) {hi lo : Nat} (below : hi < 31) : fld (d ||| 0x80000000) hi lo = fld d hi lo := by
  refine Nat.eq_of_testBit_eq fun i => ?_
  simp only [fld, Nat.testBit_mod_two_pow, Nat.testBit_shiftRight]
  by_cases inField : i < hi + 1 - lo
  · exact congrArg (decide (i < hi + 1 - lo) && ·) (bit_setTop d (i := lo + i) (by omega))
  · simp [inField]

end Sys2Proof.Machine

/-!
DALI: a write of DLI_TXC, received frames, and the events of a frame that is sent (R270 to R272, R279, R284).
-/

namespace Sys2Proof.Machine

open Sys2Proof

section
variable {now : Nat} {v : W32} {d : Dli}

/-- A length outside 8 to 32 is refused (R284). -/
theorem effDliTxc_badLength (bad : fld v 5 0 < 8 ∨ 32 < fld v 5 0) : effDliTxc now v d = none := if_pos (by simpa using bad)

/-- SEND of an idle engine in controller mode waits for the settling time (R271). -/
theorem effDliTxc_controller (long : 8 ≤ fld v 5 0) (short : fld v 5 0 ≤ 32) (enabled : bit d.ctrl 31 = true)
    (controller : bit d.ctrl 30 = true) (sends : bit v 31 = true) (idle : d.run = .idle) :
    effDliTxc now v d = some { d with run := .settle, txLen := fld v 5 0, settle := fld v 15 8 } := by
  simp [effDliTxc, Nat.not_lt.2 long, Nat.not_lt.2 short, enabled, controller, sends, idle]

section
variable (eight : fld v 5 0 = 8) (enabled : bit d.ctrl 31 = true) (gear : bit d.ctrl 30 = false) (idle : d.run = .idle)
include eight enabled gear idle

section
variable {n : Nat} (since : d.sinceFwd = some n) (inTime : n < fld d.tim 23 16 * tenthMs)
include since inTime

/-- An answer written by BF_MAX waits for BF_MIN and for the bus (R271, R272). -/
theorem effDliTxc_inTime : effDliTxc now v d = if n < fld d.tim 31 24 * tenthMs || d.busLow then some { d with run := .pendBack, txLen := 8 }
    else some (dliStart now true { d with txLen := 8 }) := by
  simp [effDliTxc, eight, enabled, gear, idle, since, inTime]

theorem effDliTxc_pends (early : n < fld d.tim 31 24 * tenthMs ∨ d.busLow = true) :
    effDliTxc now v d = some { d with run := .pendBack, txLen := 8 } :=
  (effDliTxc_inTime eight enabled gear idle since inTime).trans (if_pos (by simpa using early))

theorem effDliTxc_starts (due : fld d.tim 31 24 * tenthMs ≤ n) (free : d.busLow = false) :
    effDliTxc now v d = some (dliStart now true { d with txLen := 8 }) :=
  (effDliTxc_inTime eight enabled gear idle since inTime).trans (if_neg (by simpa [free] using due))

end

/-- An answer to no forward frame, or written after BF_MAX, is late (R271). -/
theorem effDliTxc_late (late : d.sinceFwd = none ∨ ∃ n, d.sinceFwd = some n ∧ fld d.tim 23 16 * tenthMs ≤ n) :
    effDliTxc now v d = some (dliEvt 5 d) := by
  rcases late with none_heard | ⟨n, since, past⟩
  · simp [effDliTxc, eight, enabled, gear, idle, none_heard]
  · simp [effDliTxc, eight, enabled, gear, idle, since, Nat.not_lt.2 past]

end
end

section
variable {s : State} {m : Mid} {v : W32} (h : reaches m .dli 0x40410014 v s = true)
include h

/-- A write of DLI_TXC that the engine takes is answered OKAY. -/
theorem dliTxc_taken {d : Dli} (takes : effDliTxc s.time v s.dli = some d) :
    busWrite m .dli 0x40410014 v (dliWrite 0x014 v) s = okay m 0 { served m .dli s with dli := d } := by
  have effect : effDliTxc (served m .dli s).time v (served m .dli s).dli = some d := by rw [served_time, served_dli, takes]
  exact busWrite_reaches h (congrArg (Option.map _) effect)

/-- A write of DLI_TXC that the engine refuses is answered SLVERR. -/
theorem dliTxc_refused (refuses : effDliTxc s.time v s.dli = none) : busWrite m .dli 0x40410014 v (dliWrite 0x014 v) s =
    respond (served m .dli s) m (BitVec.ofNat 32 0x40410014) .write .slverr 0 := by
  have effect : effDliTxc (served m .dli s).time v (served m .dli s).dli = none := by rw [served_time, served_dli, refuses]
  exact busWrite_refused h (congrArg (Option.map _) effect)

end

section
variable {data : W32} {len : Nat} {bf : Bool} {d : Dli}

/-- A frame that a controller receives, or an answer, gives its data and sets RX (R270, R271). -/
theorem dliFrame_answer (answer : bit d.ctrl 30 = true ∨ len = 8) : dliFrame data len bf d =
    { d with rxd := data, rxLen := len % 64, bf := bf, evt := withBit d.evt 0 true } := if_pos (by simpa [dliEvt] using answer)

/-- A forward frame that a gear receives opens the answer's window, and drops an answer that is pending with LATE (R271, R279). -/
theorem dliFrame_forward (gear : bit d.ctrl 30 = false) (forward : len ≠ 8) : dliFrame data len bf d = { d with
    rxd := data, rxLen := len % 64, bf := bf, sinceFwd := some 368640, run := if d.run = .pendBack then .idle else d.run
    evt := if d.run = .pendBack then withBit (withBit d.evt 0 true) 5 true else withBit d.evt 0 true } := by
  by_cases pends : d.run = .pendBack
  · simp [dliFrame, dliEvt, dliIdle, gear, forward, pends]
  · simp [dliFrame, dliEvt, dliIdle, gear, forward, pends]

end

/-- The engine once the bus has been idle for 2 400 µs after the runs `l`, but for what the frame gives (R270, R271). -/
def busHeard (l : List Nat) (d : Dli) : Dli :=
  { d with busLow := false, idle := 368640, await := d.await && !(bit d.ctrl 30 && dliAnswers (runsCyc l) d) }

/-- Runs that are no frame set FERR (R270). -/
theorem dliReceive_noFrame {l : List Nat} (d : Dli) (noFrame : dliDecode l = none) :
    dliReceive l d = dliEvt 2 (busHeard l d) := by
  rw [dliReceive, noFrame]
  rfl

theorem dliReceive_frame {l : List Nat} {data : W32} {len : Nat} (d : Dli) (frame : dliDecode l = some (data, len)) :
    dliReceive l d = dliFrame data len (bit d.ctrl 30 && dliAnswers (runsCyc l) d) (busHeard l d) := by
  rw [dliReceive, frame]
  rfl

/-- An answer waits while BUS_LOW reads 1 (R272). -/
theorem backwardFrameStart_low {s : State} (low : s.dli.busLow = true) : exec .backwardFrameStart s = .next s :=
  congrArg Host.Outcome.next (if_neg (by simp [low]))

/-- BF_MIN has passed where no forward frame is timed any more. -/
theorem backDue_of {d : Dli} (due : ∀ n, d.sinceFwd = some n → fld d.tim 31 24 * 15360 ≤ n) : backDue d = true := by
  rw [backDue]
  split
  · next n since => exact decide_eq_true (due n since)
  · rfl

section
variable {s : State} (on : dliOn s = true)
include on

theorem daliFrame_on (first : Bool) (run : Nat) (runs : List Nat) : exec (.daliFrame first run runs) s =
    .next { s with dli := dliReceive (activeRuns s.dli first (run :: runs)) s.dli } := congrArg Host.Outcome.next (if_pos on)

theorem settleExpiry_due (settles : s.dli.run = .settle) (free : s.dli.busLow = false) (settled : s.dli.settle * 15360 ≤ s.dli.idle) :
    exec .settleExpiry s = .next { s with dli := dliStart s.time false s.dli } :=
  congrArg Host.Outcome.next (if_pos (by simp [on, settles, free, tenthMs, settled]))

theorem backwardFrameStart_due (pends : s.dli.run = .pendBack) (free : s.dli.busLow = false)
    (due : ∀ n, s.dli.sinceFwd = some n → fld s.dli.tim 31 24 * 15360 ≤ n) :
    exec .backwardFrameStart s = .next { s with dli := dliStart s.time true s.dli } :=
  congrArg Host.Outcome.next (if_pos (by simp [on, pends, free, backDue_of due]))

theorem nobf_due (awaits : s.dli.await = true) (due : ∀ n, s.dli.sinceFwd = some n → fld s.dli.tim 23 16 * 15360 ≤ n) :
    exec .nobf s = .next { s with dli := dliEvt 6 { s.dli with await := false } } := by
  have past : (match s.dli.sinceFwd with | some n => decide (fld s.dli.tim 23 16 * tenthMs ≤ n) | none => true) = true := by
    split
    · next n since => exact decide_eq_true (due n since)
    · rfl
  exact congrArg Host.Outcome.next (if_pos (by rw [on, awaits, Bool.true_and, Bool.true_and]; exact past))

section
variable {b : Bool} (sending : s.dli.run = .sending b)
include sending

/-- A frame that has been sent; a controller then awaits its answer (R271). -/
theorem txdone_sent (sent : dliSent s = true) : exec .txdone s = .next { s with dli := { s.dli with
    run := .idle, idle := 0, await := bit s.dli.ctrl 30, sinceFwd := if bit s.dli.ctrl 30 then some 0 else none
    evt := withBit s.dli.evt 1 true } } :=
  congrArg Host.Outcome.next (if_pos (by simp [on, dliSending, sending, sent]))

/-- A collision takes the frame back (R272). -/
theorem coll_sending : exec .coll s = .next { s with dli := { s.dli with
    run := .idle, idle := 0, sent := s.dli.sent.dropLast, evt := withBit s.dli.evt 3 true } } :=
  congrArg Host.Outcome.next (if_pos (by simp [on, dliSending, sending]))

end

theorem busfail_long {ms : Nat} (long : fld s.dli.tim 15 0 < ms) : exec (.busfail ms) s = .next { s with dli := { s.dli with
    busLow := true, idle := 0, evt := withBit s.dli.evt 4 true } } :=
  congrArg Host.Outcome.next (if_pos (by simp [on, long]))

end

theorem busfail_short {ms : Nat} {s : State} (short : ms ≤ fld s.dli.tim 15 0) : exec (.busfail ms) s = .next s :=
  congrArg Host.Outcome.next (if_neg (by simp [Nat.not_lt.2 short]))

/-- Settles O40: the cases of DLI_TXC and of a received frame, and the equation of each event of a frame that is sent. -/
theorem daliEngine : Obligations.DaliEngine := by
  unfold Obligations.DaliEngine
  refine fun s => ⟨fun first run runs on => ⟨fun noFrame => ?ferr, fun data len frame => ?frame⟩,
    fun m data h enabled controller idle long short => ?send, fun m data h bad => ?length,
    fun m data h enabled gear idle eight => ⟨fun n since inTime early => ?pends, fun n since inTime due free => ?starts, fun late => ?late⟩,
    fun on settles free settled => settleExpiry_due on settles free settled,
    fun on pends => ⟨fun low => backwardFrameStart_low low, fun free due => backwardFrameStart_due on pends free due⟩,
    fun on awaits due => nobf_due on awaits due,
    fun b on sending => ⟨fun sent => txdone_sent on sending sent, coll_sending on sending⟩,
    fun ms on => ⟨fun long => busfail_long on long, fun short => busfail_short short⟩⟩
  case ferr =>
    rw [daliFrame_on on, dliReceive_noFrame s.dli noFrame]
    rfl
  case frame =>
    have answer := daliFrame_on on first run runs
    rw [dliReceive_frame s.dli frame] at answer
    by_cases kind : bit s.dli.ctrl 30 = true ∨ len = 8
    · rw [dliFrame_answer (d := busHeard _ s.dli) kind] at answer
      refine ⟨_, answer, rfl, rfl, rfl, bit_withBit _ 0 0 true (by decide), rfl, rfl, rfl, rfl, fun gear forward => ?_, fun _ => ⟨rfl, rfl⟩⟩
      exact absurd kind (by simp [gear, forward])
    · obtain ⟨gear, forward⟩ := not_or.1 kind
      rw [dliFrame_forward (d := busHeard _ s.dli) (Bool.eq_false_iff.2 gear) forward] at answer
      refine ⟨_, answer, rfl, rfl, rfl, ?_, rfl, rfl, rfl, rfl, fun _ _ => ⟨rfl, fun pends => ⟨if_pos pends, ?_⟩⟩, fun h => absurd h kind⟩
      · dsimp only
        split
        · rw [bit_withBit _ 5 0 true (by decide)]
          exact bit_withBit _ 0 0 true (by decide)
        · exact bit_withBit _ 0 0 true (by decide)
      · exact (congrArg (bit · 5) (if_pos pends)).trans (bit_withBit _ 5 5 true (by decide))
  case send =>
    refine congrArg Host.Outcome.next (dliTxc_taken h ?_)
    have takes := effDliTxc_controller (now := s.time) (v := data ||| 0x80000000) (by rwa [fld_setTop data (by decide)])
      (by rwa [fld_setTop data (by decide)]) enabled controller (bit_setTop_top data) idle
    rwa [fld_setTop data (by decide), fld_setTop data (by decide)] at takes
  case length => exact congrArg Host.Outcome.next (dliTxc_refused h (effDliTxc_badLength bad))
  case pends => exact congrArg Host.Outcome.next (dliTxc_taken h (effDliTxc_pends eight enabled gear idle since inTime early))
  case starts => exact congrArg Host.Outcome.next (dliTxc_taken h (effDliTxc_starts eight enabled gear idle since inTime due free))
  case late => exact congrArg Host.Outcome.next (dliTxc_taken h (effDliTxc_late eight enabled gear idle late))

end Sys2Proof.Machine

/-!
UARTs: characters written, sent, received and read, and CTS (R276, R285).
-/

namespace Sys2Proof.Machine

open Sys2Proof

/-- A character that starts moves from the FIFO to the line: what is still to be sent keeps its order (R276). -/
theorem uartStart_frame (pin : Bool) (q : Uart) : ∃ C T, uartStart pin q = { q with cur := C, tx := T } ∧
    C.toList ++ T = q.cur.toList ++ q.tx := by
  unfold uartStart
  split
  · next c t idle queued =>
    split
    · exact ⟨some c, t, rfl, by rw [idle, queued]; rfl⟩
    · exact ⟨q.cur, q.tx, rfl, rfl⟩
  · exact ⟨q.cur, q.tx, rfl, rfl⟩

/-- CTS holds the next character back (R276). -/
theorem uartStart_held {pin : Bool} {q : Uart} (flow : bit q.ctrl 28 = true) (held : q.cts = false ∨ pin = false) : uartStart pin q = q := by
  unfold uartStart
  split
  · exact if_neg (by rcases held with off | off <;> simp [flow, off])
  · rfl

/-- An idle line takes the next character where nothing holds it back (R276). -/
theorem uartStart_goes {pin : Bool} {q : Uart} (enabled : bit q.ctrl 31 = true) (sends : bit q.ctrl 30 = true)
    (free : bit q.ctrl 28 = true → q.cts = true ∧ pin = true) (idle : q.cur = none) : (uartStart pin q).cur = q.tx.head? := by
  cases queued : q.tx with
  | nil => simp only [uartStart, idle, queued, List.head?_nil]
  | cons c t =>
    have goes : (bit q.ctrl 31 && bit q.ctrl 30 && (!bit q.ctrl 28 || (pin && q.cts))) = true := by
      by_cases flow : bit q.ctrl 28 = true
      · obtain ⟨cts, wired⟩ := free flow
        simp [enabled, sends, cts, wired]
      · simp [enabled, sends, flow]
    simp only [uartStart, idle, queued, goes, if_true, List.head?_cons]

section
variable {s : State} {m : Mid} {u : Fin 2}

theorem ctsPin_served (w : Mid) (t : Target) : ctsPin (served w t s) u = ctsPin s u := by
  rw [ctsPin, ctsPin, served_pio]

theorem uartDataWrite_eq {data : W32} (h : reaches m (.uart u) (0x40430008 + 0x1000 * u.val) data s = true) :
    exec (.uartDataWrite m u data) s = .next (okay m 0 { served m (.uart u) s with
      uart := upd s.uart u (uartPush (ctsPin s u) (data.setWidth 8)) }) := by
  have takes : uartWrite u 0x008 data (served m (.uart u) s) =
      some (updUart (served m (.uart u) s) u (uartPush (ctsPin (served m (.uart u) s) u) (data.setWidth 8))) := rfl
  rw [updUart, served_uart, ctsPin_served] at takes
  exact congrArg Host.Outcome.next (busWrite_reaches h takes)

theorem uartPush_full {pin : Bool} {q : Uart} (c : Byte) (full : 16 ≤ q.tx.length) : uartPush pin c q = { q with ovr := true } := if_pos full

/-- A character that finds room goes behind those that wait (R276). -/
theorem uartPush_room {pin : Bool} {q : Uart} (c : Byte) (room : q.tx.length < 16) : ∃ C T, uartPush pin c q = { q with cur := C, tx := T } ∧
    C.toList ++ T = q.cur.toList ++ q.tx ++ [c] := by
  obtain ⟨C, T, starts, order⟩ := uartStart_frame pin { q with tx := q.tx ++ [c] }
  exact ⟨C, T, (if_neg (Nat.not_le.2 room)).trans starts, order.trans (List.append_assoc _ _ _).symm⟩

theorem uartDataRead_eq (h : readReaches m (.uart u) (0x40430008 + 0x1000 * u.val) s = true) : exec (.uartDataRead m u) s =
    .next (okay m (uartPop u (served m (.uart u) s)).1 (uartPop u (served m (.uart u) s)).2) := congrArg Host.Outcome.next (busRead_reaches h)

theorem uartPop_oldest {c : BitVec 12} {l : List (BitVec 12)} (waits : s.uart[u].rx = c :: l) :
    uartPop u s = (c.setWidth 32, { s with uart := upd s.uart u (fun q => { q with rx := l }) }) := by
  simp only [uartPop, waits, updUart]

/-- A read of an empty FIFO says so in bit 31; the rest is left open (R285). -/
theorem uartPop_empty (empty : s.uart[u].rx = []) : ∃ v, uartPop u s = (v, { s with free := s.free + 3 }) ∧ bit v 31 = true := by
  refine ⟨_, by simp only [uartPop, empty]; rfl, ?_⟩
  simp only [bit, BitVec.getLsbD_or, put_one_bit _ _ (by decide : 31 < 32), decide_true, Bool.true_or]

/-- Whether a received parity bit is not the character's (R276). -/
def parityWrong (ctrl : W32) (c : Byte) (par : Bool) : Bool := match uartParity ctrl c with | some v => v != par | none => false

/-- A character as it is received: seven bits of it with DATA7 (R276, R285). -/
def rxData (ctrl : W32) (c : Byte) : Byte := if bit ctrl 0 then c &&& 0x7F else c

/-- An entry of the receive FIFO (R285). -/
def rxEntry (b : Byte) (pe fe brk : Bool) : BitVec 12 :=
  b.setWidth 12 ||| (if pe then 0x200 else 0) ||| (if fe then 0x400 else 0) ||| (if brk then 0x800 else 0)

theorem rxEntry_data (b : Byte) (pe fe brk : Bool) : (rxEntry b pe fe brk).setWidth 8 = b := by
  have flags : ((if pe then 0x200 else 0 : BitVec 12)).setWidth 8 = 0 ∧ ((if fe then 0x400 else 0 : BitVec 12)).setWidth 8 = 0 ∧
      ((if brk then 0x800 else 0 : BitVec 12)).setWidth 8 = 0 := by
    revert pe fe brk
    decide
  obtain ⟨parity, framing, breaks⟩ := flags
  rw [rxEntry, BitVec.setWidth_or, BitVec.setWidth_or, BitVec.setWidth_or, parity, framing, breaks]
  simp

theorem rxEntry_flags (b : Byte) (pe fe brk : Bool) : (rxEntry b pe fe brk).getLsbD 9 = pe ∧ (rxEntry b pe fe brk).getLsbD 10 = fe ∧
    (rxEntry b pe fe brk).getLsbD 11 = brk := by
  have above (i : Nat) (h : 8 ≤ i) : (b.setWidth 12).getLsbD i = false := by
    rw [BitVec.getLsbD_setWidth, BitVec.getLsbD_of_ge b i h, Bool.and_false]
  simp only [rxEntry, BitVec.getLsbD_or, above 9 (by decide), above 10 (by decide), above 11 (by decide), Bool.false_or]
  revert pe fe brk
  decide

section
variable {q : Uart} (c : Byte) (par fe brk : Bool) (enabled : bit q.ctrl 31 = true) (receives : bit q.ctrl 29 = true)
include enabled receives

theorem uartTake_full (full : 16 ≤ q.rx.length) : uartTake c par fe brk q =
    { q with err := q.err || parityWrong q.ctrl c par || fe || brk, ovr := true } := by
  simp only [uartTake, enabled, receives, full, if_true]
  rfl

theorem uartTake_room (room : q.rx.length < 16) : uartTake c par fe brk q = { q with
    err := q.err || parityWrong q.ctrl c par || fe || brk
    rx := q.rx ++ [rxEntry (rxData q.ctrl c) (parityWrong q.ctrl c par) fe brk] } := by
  simp only [uartTake, enabled, receives, Nat.not_le.2 room, if_false]
  rfl

end

theorem uartRxChar_up (up : portUp s (60 + u.val) = true) (c : Byte) (par fe brk : Bool) : exec (.uartRxChar u c par fe brk) s =
    .next { s with uart := upd s.uart u (uartTake c par fe brk) } := congrArg Host.Outcome.next (if_pos up)

/-- The character on the line ends, and is recorded as its bits (R276). -/
theorem uartTxChar_up {c : Byte} (up : portUp s (60 + u.val) = true) (sending : s.uart[u].cur = some c) : exec (.uartTxChar u) s =
    .next { s with uart := upd s.uart u (fun q => uartStart (ctsPin s u) { q with cur := none, sent := q.sent ++ [uartLine q.ctrl c] }) } := by
  refine congrArg Host.Outcome.next ((if_pos up).trans ?_)
  rw [updUart, upd_congr]
  simp only [sending]

theorem uartLine_eq (ctrl : W32) (c : Byte) : uartLine ctrl c =
    [false] ++ uartData ctrl c ++ (uartParity ctrl c).toList ++ List.replicate (if bit ctrl 4 then 2 else 1) true := by
  rw [uartLine]
  split <;> rfl

/-- A UART once its CTS input has changed (R276). -/
def ctsTaken (s : State) (u : Fin 2) (asserted : Bool) (q : Uart) : Uart :=
  if portUp s (60 + u.val) then uartStart (ctsPin s u) { q with cts := asserted } else { q with cts := asserted }

theorem cts_eq (asserted : Bool) : exec (.cts u asserted) s = .next { s with uart := upd s.uart u (ctsTaken s u asserted) } := by
  refine congrArg Host.Outcome.next ?_
  unfold ctsTaken
  split <;> rfl

theorem ctsTaken_frame (asserted : Bool) (q : Uart) : ∃ C T, ctsTaken s u asserted q = { q with cts := asserted, cur := C, tx := T } ∧
    C.toList ++ T = q.cur.toList ++ q.tx := by
  unfold ctsTaken
  split
  · exact uartStart_frame (ctsPin s u) { q with cts := asserted }
  · exact ⟨q.cur, q.tx, rfl, rfl⟩

theorem ctsTaken_held {asserted : Bool} {q : Uart} (flow : bit q.ctrl 28 = true) (held : asserted = false ∨ ctsPin s u = false) :
    ctsTaken s u asserted q = { q with cts := asserted } := by
  unfold ctsTaken
  split
  · exact uartStart_held (q := { q with cts := asserted }) flow held
  · rfl

end

end Sys2Proof.Machine

/-!
I2C masters: transfers, their ends, and the FIFO of 8 (R277, R285).
-/

namespace Sys2Proof.Machine

open Sys2Proof

/-- The octets that a transfer still takes from its transmit FIFO (R277). -/
def i2cWants (q : I2c) : Nat := if q.busy && !bit q.cmd 30 then i2cLen q - q.out.length else 0

theorem i2cFeed_eq (q : I2c) : i2cFeed q = { q with out := q.out ++ q.tx.take (i2cWants q), tx := q.tx.drop (i2cWants q) } := by
  unfold i2cFeed i2cWants
  split
  · rfl
  · rw [List.take_zero, List.drop_zero, List.append_nil]

/-- A master that a command starts: the start condition and the address go out (R277). -/
def i2cStarted (v : W32) (q : I2c) : I2c :=
  { q with
    cmd := v &&& 0xE07F00FF, busy := true, held := false, out := [], more := []
    wire := (if q.held then q.wire ++ [.restart] else [.start]) ++ [.octet (i2cAddr v)] }

section
variable {v : W32} {q : I2c}

theorem effI2cCmd_starts (go : bit v 31 = true) (enabled : bit q.ctrl 31 = true) (idle : q.busy = false) :
    effI2cCmd v q = i2cFeed (i2cStarted v q) := if_pos (by simp [go, enabled, idle])

theorem effI2cCmd_ignored (shut : bit q.ctrl 31 = false ∨ q.busy = true) : effI2cCmd v q = q :=
  if_neg (by rcases shut with off | busy <;> simp [*])

theorem i2cAddr_setTop (d : W32) : i2cAddr (d ||| 0x80000000) = BitVec.ofNat 8 (2 * fld d 22 16 + fld d 30 30) := by
  rw [i2cAddr, fld_setTop d (by decide), fld_setTop d (by decide)]

/-- What a command takes from the transmit FIFO at once: up to LEN octets of a write (R277). -/
theorem i2cWants_started : i2cWants (i2cStarted v q) =
    if bit (v &&& 0xE07F00FF) 30 then 0 else i2cLen { q with cmd := v &&& 0xE07F00FF } := by
  simp only [i2cWants, i2cStarted, Bool.true_and, List.length_nil, Nat.sub_zero, Bool.not_eq_true']
  split <;> simp_all [i2cLen]

/-- A write's end: DONE with its code, and a stop unless NOSTOP keeps the bus or it was lost (R277). -/
theorem i2cEnds_write (r : I2cEnd) (rx : List Byte) (write : bit q.cmd 30 = false) : i2cEnds (i2cCode r) rx q = { q with
    code := i2cCode r, busy := false, done := true, out := [], held := r = .ok && bit q.cmd 29, tx := if r = .ok then q.tx else []
    wire := q.wire ++ (if r = .ok then q.out.map .octet else []) ++
      (if (r = .ok && bit q.cmd 29) || r = .arbLost then [] else [.stop]) } := by
  cases r <;> simp [i2cEnds, i2cOver, i2cCode, write]

/-- What a transfer's octets leave once the FIFO of 8 has taken what it has room for (R277, R285). -/
theorem i2cFill_frame (q : I2c) : (i2cFill q).rx = q.rx ++ q.more.take (8 - q.rx.length) ∧ (i2cFill q).more = q.more.drop (8 - q.rx.length) ∧
    (i2cFill q).tx = q.tx ∧ (i2cFill q).code = q.code ∧ (i2cFill q).busy = (q.busy && !(i2cFill q).more.isEmpty) ∧
    ((i2cFill q).more = [] → (i2cFill q).done = true) := by
  unfold i2cFill
  dsimp only
  split
  · next all => exact ⟨rfl, rfl, rfl, rfl, by simp only [i2cOver, all, Bool.not_true, Bool.and_false], fun _ => rfl⟩
  · next some_held => exact ⟨rfl, rfl, rfl, rfl, by simp [some_held], fun all => absurd (List.isEmpty_iff.2 all) some_held⟩

/-- A read's end: its octets go to the FIFO as it has room, and the transfer is over when all have (R277, R285). -/
theorem i2cEnds_read (code : Nat) (rx : List Byte) (read : bit q.cmd 30 = true) :
    (i2cEnds code rx q).rx = q.rx ++ (rx.take (i2cLen q)).take (8 - q.rx.length) ∧
    (i2cEnds code rx q).more = (rx.take (i2cLen q)).drop (8 - q.rx.length) ∧ (i2cEnds code rx q).tx = q.tx ∧ (i2cEnds code rx q).code = code ∧
    (i2cEnds code rx q).busy = (q.busy && !(i2cEnds code rx q).more.isEmpty) ∧
    ((i2cEnds code rx q).more = [] → (i2cEnds code rx q).done = true) := by
  rw [i2cEnds, if_pos read]
  exact i2cFill_frame _

theorem i2cPush_full (b : Byte) (full : 8 ≤ q.tx.length) : i2cPush b q = q := if_neg (Nat.not_lt.2 full)

theorem i2cPush_room (b : Byte) (room : q.tx.length < 8) : i2cPush b q = { q with
    out := q.out ++ (q.tx ++ [b]).take (i2cWants q), tx := (q.tx ++ [b]).drop (i2cWants q) } :=
  (if_pos room).trans (i2cFeed_eq { q with tx := q.tx ++ [b] })

/-- A master whose oldest octet is read: octets held back move up (R285). -/
def i2cRead1 (l : List Byte) (q : I2c) : I2c := if q.more.isEmpty then { q with rx := l } else i2cFill { q with rx := l }

theorem i2cRead1_idle {l : List Byte} (all : q.more = []) : i2cRead1 l q = { q with rx := l } := if_pos (by rw [all]; rfl)

theorem i2cRead1_moves (l : List Byte) : (i2cRead1 l q).rx = l ++ q.more.take (8 - l.length) ∧
    (i2cRead1 l q).more = q.more.drop (8 - l.length) := by
  by_cases all : q.more = []
  · rw [i2cRead1_idle all, all, List.take_nil, List.drop_nil, List.append_nil]
    exact ⟨rfl, rfl⟩
  · have held : i2cRead1 l q = i2cFill { q with rx := l } := if_neg (by simpa using all)
    obtain ⟨rx, more, -⟩ := i2cFill_frame { q with rx := l }
    rw [held]
    exact ⟨rx, more⟩

end

section
variable {s : State} {m : Mid} {i : Fin 2}

/-- A write of an I2C register that updates its master only is answered OKAY. -/
theorem busWrite_updI2c {off : Nat} {d : W32} {f : I2c → I2c} {a : Nat} (h : reaches m (.i2c i) a d s = true)
    (takes : ∀ z, i2cWrite i off d z = some (updI2c z i f)) : busWrite m (.i2c i) a d (i2cWrite i off d) s =
    okay m 0 { served m (.i2c i) s with i2c := upd s.i2c i f } := by
  have effect := takes (served m (.i2c i) s)
  rw [updI2c, served_i2c] at effect
  exact busWrite_reaches h effect

theorem i2cPop_oldest {b : Byte} {l : List Byte} (waits : s.i2c[i].rx = b :: l) :
    i2cPop i s = (b.setWidth 32, { s with i2c := upd s.i2c i (i2cRead1 l) }) := by
  simp only [i2cPop, waits, updI2c]
  rfl

theorem i2cDone_ends {r : I2cEnd} {rx : List Byte} (up : portUp s (62 + i.val) = true) (busy : s.i2c[i].busy = true)
    (all : s.i2c[i].more = []) (ends : bit s.i2c[i].cmd 30 = true ∨ r ≠ .ok ∨ i2cLen s.i2c[i] ≤ s.i2c[i].out.length) :
    exec (.i2cDone i r rx) s = .next { s with i2c := upd s.i2c i (i2cEnds (i2cCode r) rx) } := by
  refine congrArg Host.Outcome.next (if_pos ?_)
  rw [up, busy, all]
  rcases ends with read | failed | sent
  · rw [read, Bool.not_true, Bool.and_false]
    rfl
  · rw [decide_eq_false failed]
    rfl
  · rw [decide_eq_false (Nat.not_lt.2 sent), Bool.and_false]
    rfl

theorem i2cTimeout_busy (up : portUp s (62 + i.val) = true) (busy : s.i2c[i].busy = true) : exec (.i2cTimeout i) s =
    .next { s with i2c := upd s.i2c i (fun q => i2cOver { q with code := 4, more := [], tx := if bit q.cmd 30 then q.tx else [] }) } :=
  congrArg Host.Outcome.next (if_pos (by rw [up, busy]; rfl))

end

/-- Settles O42: the equation of each access and event, with what it makes of its UART or I2C master. -/
theorem serialPorts : Obligations.SerialPorts := by
  unfold Obligations.SerialPorts
  refine fun s => ⟨fun m u data h => ?write, fun m u h => ⟨fun c l waits => ?read, fun empty => ?empty⟩,
    fun u c par fe brk up enabled receives => ?receive, fun u c up sending => ?sent, fun u asserted => ?cts,
    fun m i data h => ?go, fun i r rx up busy all ends => ?done, fun i up busy => ?timeout, fun m i data h => ?push,
    fun m i h b l waits => ?pop⟩
  case write =>
    refine ⟨_, uartDataWrite_eq h, rfl, fun j other => upd_other _ u j _ other, fun full => ?_, fun room => ?_⟩
    · exact (upd_same _ u _).trans (uartPush_full _ full)
    · obtain ⟨C, T, pushed, order⟩ := uartPush_room (pin := ctsPin s u) (data.setWidth 8) room
      have now : (upd s.uart u (uartPush (ctsPin s u) (data.setWidth 8)))[u] = _ := (upd_same _ u _).trans pushed
      refine ⟨now.trans ?_, ?_⟩
      · dsimp only [okay]
        rw [now]
      · dsimp only [okay]
        rw [now]
        exact order
  case read =>
    have answer := uartDataRead_eq h
    rw [uartPop_oldest (by rwa [served_uart]), served_uart] at answer
    exact ⟨_, answer, rfl, upd_same _ u _, fun j other => upd_other _ u j _ other⟩
  case empty =>
    obtain ⟨v, popped, marked⟩ := uartPop_empty (s := served m (.uart u) s) (u := u) (by rwa [served_uart])
    have answer := uartDataRead_eq h
    rw [popped, served_free] at answer
    exact ⟨v, answer, marked⟩
  case receive =>
    have now := upd_same s.uart u (uartTake c par fe brk)
    by_cases full : 16 ≤ s.uart[u].rx.length
    · rw [uartTake_full c par fe brk enabled receives full] at now
      refine ⟨_, uartRxChar_up up c par fe brk, rfl, fun j other => upd_other _ u j _ other, (congrArg Uart.err now :), (congrArg Uart.tx now :),
        fun _ => ⟨(congrArg Uart.ovr now :), (congrArg Uart.rx now :)⟩, fun room => absurd full (Nat.not_le.2 room)⟩
    · rw [uartTake_room c par fe brk enabled receives (Nat.not_le.1 full)] at now
      exact ⟨_, uartRxChar_up up c par fe brk, rfl, fun j other => upd_other _ u j _ other, (congrArg Uart.err now :), (congrArg Uart.tx now :),
        fun h => absurd h full, fun _ => ⟨(congrArg Uart.ovr now :), _, (congrArg Uart.rx now :), rxEntry_data _ _ _ _, rxEntry_flags _ _ _ _⟩⟩
  case sent =>
    obtain ⟨C, T, starts, order⟩ := uartStart_frame (ctsPin s u)
      { s.uart[u] with cur := none, sent := s.uart[u].sent ++ [uartLine s.uart[u].ctrl c] }
    have now := (upd_same s.uart u (fun q => uartStart (ctsPin s u) { q with cur := none, sent := q.sent ++ [uartLine q.ctrl c] })).trans starts
    rw [uartLine_eq] at now
    refine ⟨_, uartTxChar_up up sending, rfl, fun j other => upd_other _ u j _ other, (congrArg Uart.sent now :), ?_, (congrArg Uart.rx now :)⟩
    exact (congrArg (fun q : Uart => q.cur.toList ++ q.tx) now).trans order
  case cts =>
    have now := upd_same s.uart u (ctsTaken s u asserted)
    obtain ⟨C, T, taken, order⟩ := ctsTaken_frame (s := s) (u := u) asserted s.uart[u]
    have new := now.trans taken
    refine ⟨_, cts_eq asserted, rfl, fun j other => upd_other _ u j _ other, ?_, ?_, fun flow held => ?_, fun up enabled sends free idle => ?_⟩
    · dsimp only
      rw [new]
    · dsimp only
      rw [new]
      exact order
    · exact (congrArg Uart.cur (now.trans (ctsTaken_held flow held)) :)
    · exact (congrArg Uart.cur (now.trans (if_pos up))).trans (uartStart_goes enabled sends free idle)
  case go =>
    have answer := busWrite_updI2c (off := 0x004) h (f := effI2cCmd (data ||| 0x80000000)) (fun _ => rfl)
    refine ⟨_, congrArg Host.Outcome.next answer, rfl, fun j other => upd_other _ i j _ other, fun shut => ?_, fun enabled idle => ?_⟩
    · exact (upd_same _ i _).trans (effI2cCmd_ignored shut)
    · have starts := effI2cCmd_starts (bit_setTop_top data) enabled idle
      rw [i2cFeed_eq, i2cWants_started] at starts
      refine (upd_same _ i _).trans (starts.trans ?_)
      rw [i2cStarted, i2cAddr_setTop]
      rfl
  case done =>
    have now := upd_same s.i2c i (i2cEnds (i2cCode r) rx)
    by_cases kind : bit s.i2c[i].cmd 30 = true
    · obtain ⟨moved, held, kept, code, runs, ended⟩ := i2cEnds_read (i2cCode r) rx kind
      refine ⟨_, i2cDone_ends up busy all ends, rfl, fun j other => upd_other _ i j _ other, ?_, fun write => absurd kind (Bool.eq_false_iff.1 write), fun _ => ?_⟩
      all_goals
        dsimp only
        rw [now]
      · exact code
      · exact ⟨moved, kept, held, by rw [runs, busy, Bool.true_and], ended⟩
    · have write := Bool.eq_false_iff.2 kind
      rw [i2cEnds_write r rx write] at now
      exact ⟨_, i2cDone_ends up busy all ends, rfl, fun j other => upd_other _ i j _ other, (congrArg I2c.code now :),
        fun _ => ⟨(congrArg I2c.busy now :), (congrArg I2c.done now :), (congrArg I2c.rx now :), (congrArg I2c.held now :), (congrArg I2c.wire now :),
          fun ok => (congrArg I2c.tx now).trans (if_pos ok), fun failed => (congrArg I2c.tx now).trans (if_neg failed)⟩,
        fun read => absurd read kind⟩
  case timeout =>
    have now := upd_same s.i2c i (fun q => i2cOver { q with code := 4, more := [], tx := if bit q.cmd 30 then q.tx else [] })
    exact ⟨_, i2cTimeout_busy up busy, rfl, fun j other => upd_other _ i j _ other, (congrArg I2c.busy now :), (congrArg I2c.done now :),
      (congrArg I2c.code now :), (congrArg I2c.rx now :)⟩
  case push =>
    have answer := busWrite_updI2c (off := 0x008) h (f := i2cPush (data.setWidth 8)) (fun _ => rfl)
    exact ⟨_, congrArg Host.Outcome.next answer, rfl, fun j other => upd_other _ i j _ other,
      fun full => (upd_same _ i _).trans (i2cPush_full _ full), fun room => (upd_same _ i _).trans (i2cPush_room _ room)⟩
  case pop =>
    have answer := busRead_reaches (eff := i2cRead i 0x008) h
    have popped := i2cPop_oldest (s := served m (.i2c i) s) (by rwa [served_i2c])
    rw [show i2cRead i 0x008 (served m (.i2c i) s) = i2cPop i (served m (.i2c i) s) from rfl, popped, served_i2c] at answer
    have now := upd_same s.i2c i (i2cRead1 l)
    obtain ⟨moved, held⟩ := i2cRead1_moves (q := s.i2c[i]) l
    exact ⟨_, congrArg Host.Outcome.next answer, rfl, fun j other => upd_other _ i j _ other,
      fun all => now.trans (i2cRead1_idle all), (congrArg I2c.rx now).trans moved, (congrArg I2c.more now).trans held⟩

end Sys2Proof.Machine

/-!
Troax: what the link's shared operations do: the TX descriptors, the remote values, a duplicate address, and a burst that is sent
(R254, R256, R258, R265, R269, R280).
-/

namespace Sys2Proof.Machine

open Sys2Proof

/-! ## TX descriptors -/

theorem zlkQueued_ne_zero {z : Zlk} (waits : z.txqProd % 16 ≠ z.txqCons % 16) : zlkQueued z ≠ 0 := by
  unfold zlkQueued
  omega

/-- An access made at once, or left waiting, changes what the access itself may change (log 20). -/
theorem attemptNow_stores {α : Type} {lo hi : Nat} {m : Mid} {f : State → α × State} (within : ∀ t, stores lo hi t (f t).2) (s : State) :
    stores lo hi s (attemptNow m f s).2 := by
  have made := within (updEng s (fun e => { e with got := [], stuck := none }))
  have starts : stores lo hi s (updEng s (fun e => { e with got := [], stuck := none })) := stores_rest lo hi s.pwr s.act _
  unfold attemptNow
  generalize f (updEng s (fun e => { e with got := [], stuck := none })) = p at made
  obtain ⟨v, t⟩ := p
  dsimp only
  split
  · exact stores_trans (stores_trans starts made) (stores_rest lo hi t.pwr t.act _)
  · exact stores_joinWait lo hi _ s

/-- Looking for the head descriptor completes those whose read is refused, and changes nothing else (R256, R281). -/
theorem zlkDreqN_frame (n : Nat) (s : State) : completes s (zlkDreqN n s).2 := by
  induction n generalizing s with
  | zero => exact completes_refl s
  | succ n ih =>
    have looked : completes s (attemptNow .zlkDma (dmaRead .zlkDma (zlkHead s.zlk + 4) 4) s).2 :=
      (completes_stores 0 (attemptNow_stores (fun t => dmaRead_frame .zlkDma _ 4 (s.zlk.txqBase.toNat + 4) (s.zlk.txqBase.toNat + 16) t) s)
        ⟨Nat.le_refl _, Nat.le_refl _⟩).1
    unfold zlkDreqN
    split
    · next found => rwa [found] at looked
    · next refused =>
      rw [refused] at looked
      exact completes_trans looked (completes_trans (zlkComplete_frame 3 none _).1 (ih _))
    · next waits => rwa [waits] at looked

theorem zlkDreq_frame (s : State) : completes s (zlkDreq s).2 := zlkDreqN_frame _ s

/-! ## Event flags that completions keep (R283) -/

theorem zlkCompleteAll_keepsEvt (code : Nat) (s : State) : keepsEvt s.zlk.evt (zlkCompleteAll code s).zlk.evt := by
  unfold zlkCompleteAll
  generalize List.range (zlkQueued s.zlk) = l
  induction l generalizing s with
  | nil => exact keepsEvt_refl _
  | cons _ rest ih =>
    obtain ⟨-, -, flagged, -⟩ := zlkComplete_frame code none s
    intro i small set
    refine ih (zlkComplete code none s) i small ?_
    rw [flagged]
    exact keepsEvt_withBit _ 1 i small set

theorem zlkLeave_keepsEvt (st : ZlkState) (s : State) : keepsEvt s.zlk.evt (zlkLeave st s).zlk.evt := by
  unfold zlkLeave
  dsimp only [rvLatch, updZlk]
  split
  · exact zlkCompleteAll_keepsEvt 2 s
  · exact keepsEvt_refl _

/-! ## Remote values (R265) -/

section
variable (a : Fin 32) (v : BitVec 24) (s : State)

/-- Publications at remote values change the stalls only. -/
theorem foldl_published (p : Fin 16 → State → Bool) (l : List (Fin 16)) (s : State) :
    ∃ W, l.foldl (fun s k => if p k s then published (0x30 + k.val) s else s) s = { s with stl := W } := by
  induction l generalizing s with
  | nil => exact ⟨s.stl, rfl⟩
  | cons k rest ih =>
    rw [List.foldl_cons]
    split
    · obtain ⟨V, first⟩ := published_frame (0x30 + k.val) s
      rw [first]
      exact ih { s with stl := V }
    · exact ih s

theorem rvLatch_rv (k : Fin 16) : (rvLatch s).zlk.rv[k] = { s.zlk.rv[k] with
    stale := s.zlk.rv[k].stale || !s.zlk.rv[k].en || !zlkJoined s || !bit s.zlk.vmap s.zlk.rv[k].src.val || staleN s.zlk < s.zlk.rv[k].quiet } := by
  unfold rvLatch updZlk
  dsimp only
  rw [foldl_idx]

/-- A remote value as a VALUE of an address leaves it. -/
def rvGiven (r : Rv) : Rv := if r.en && r.src = a then { r with val := v, stale := false, quiet := 0 } else r

/-- The link once its remote values have been given a VALUE of an address. -/
def valueGiven (z : Zlk) : Zlk := { z with rv := (idx 16).foldl (fun w k => upd w k (rvGiven a v)) z.rv }

theorem rvTake_eq : rvTake a v s = (idx 16).foldl (fun s k => if (s.zlk.rv[k]).en && (s.zlk.rv[k]).src = a then published (0x30 + k.val) s else s)
    (rvLatch (updZlk s (valueGiven a v))) := by
  unfold rvTake valueGiven rvGiven
  rfl

/-- A VALUE received or sent changes the remote values, and the stalls where they are published (R150, R265). -/
theorem rvTake_frame : ∃ W, rvTake a v s = { rvLatch (updZlk s (valueGiven a v)) with stl := W } := by
  rw [rvTake_eq]
  exact foldl_published (fun k s => (s.zlk.rv[k]).en && (s.zlk.rv[k]).src = a) (idx 16) (rvLatch (updZlk s (valueGiven a v)))

theorem valueGiven_frame (z : Zlk) : ∃ V, valueGiven a v z = { z with rv := V } ∧ ∀ k : Fin 16, V[k] = rvGiven a v z.rv[k] :=
  ⟨_, rfl, foldl_idx (fun _ => rvGiven a v) z.rv⟩

/-- A VALUE makes the remote values that select its address fresh (R265). -/
theorem rvLatch_given {k : Fin 16} (joined : zlkJoined s = true) (publishes : bit s.zlk.vmap a.val = true) (enabled : s.zlk.rv[k].en = true)
    (selects : s.zlk.rv[k].src = a) :
    (rvLatch (updZlk s (valueGiven a v))).zlk.rv[k] = { s.zlk.rv[k] with val := v, stale := false, quiet := 0 } := by
  obtain ⟨V, given, each⟩ := valueGiven_frame a v s.zlk
  have fresh : V[k] = { s.zlk.rv[k] with val := v, stale := false, quiet := 0 } :=
    (each k).trans (if_pos (by rw [enabled, decide_eq_true selects]; rfl))
  have still : zlkJoined { s with zlk := { s.zlk with rv := V } } = true := joined
  rw [updZlk, given, rvLatch_rv, still]
  dsimp only
  rw [fresh]
  simp only [enabled, selects, publishes]
  rfl

end

/-! ## Counts and bursts -/

theorem zlkBad_eq (s : State) : zlkBad s = { s with zlk := { s.zlk with
    cntCrc := satInc s.zlk.cntCrc 65535, evt := withBit s.zlk.evt 6 true } } := rfl

/-- A mismatch of a burst sent counts and sets COLL (R280). -/
theorem zlkColl_eq (mm : Bool) (s : State) : zlkColl mm s = { s with zlk := { s.zlk with
    cntColl := if mm then satInc s.zlk.cntColl 65535 else s.zlk.cntColl, evt := if mm then withBit s.zlk.evt 7 true else s.zlk.evt } } := by
  cases mm <;> rfl

/-- A device that was in no zone yet has a duplicate address: it is barred, in LISTEN (R258). -/
theorem zlkDup_unjoined {s : State} (f : s.zlk.state ≠ .follower) (l : s.zlk.state ≠ .leader) : ∃ V, zlkDup s = { s with zlk := { s.zlk with
    state := .listen, pmap := 0, vmap := 0, nextP := 0, nextV := 0, heard := 0, missed := 0, joinSent := false, joinOut := false, joinWait := 0
    grant := none, ownColl := 0, rolled := false, pubRef := false, rv := V, dup := true, barred := true, evt := withBit s.zlk.evt 4 true } } := by
  obtain ⟨u, V, -, left, -, same⟩ := zlkLeave_frame .listen s
  rw [same f l] at left
  exact ⟨V, by rw [zlkDup, left]; rfl⟩

end Sys2Proof.Machine

/-!
Troax commands: accesses that reach the link (R258, R266, R269, R279, R283).
-/

namespace Sys2Proof.Machine

open Sys2Proof

theorem zlkJoined_served (w : Mid) (t : Target) (s : State) : zlkJoined (served w t s) = zlkJoined s := by
  rw [zlkJoined, zlkJoined, unusable_served, served_zlk]

section
variable {m : Mid} {off : Nat} {d : W32} {s : State}

/-- A register write that reaches the link and is taken there is answered OKAY. -/
theorem zlkBus_reaches {s' : State} (h : reaches m .zlk (0x40400000 + off) d s = true) (takes : zlkWrite off d (served m .zlk s) = some s') :
    zlkBus m off d s = okay m 0 s' := busWrite_reaches h takes

/-- ZLK_CTRL keeps its enable bit among the bits that it holds (R283). -/
theorem bit_zlkCtrl : bit (d &&& 0xF01F0F70) 31 = bit d 31 := by
  rw [bit, BitVec.getLsbD_and]
  exact Bool.and_true _

/-- EN set: the device listens, with no zone and no bar (R258). -/
theorem effZlkCtrl_enables (off : bit s.zlk.ctrl 31 = false) (sets : bit d 31 = true) : effZlkCtrl d s = some
    (updZlk (zlkLeave .listen (updZlk s (fun z => { z with ctrl := d &&& 0xF01F0F70 }))) (fun z => { z with
      dup := false, barred := false, sent := [] })) := by
  have on : bit (d &&& 0xF01F0F70) 31 = true := bit_zlkCtrl.trans sets
  simp only [effZlkCtrl, off, on, Bool.false_and, Bool.false_eq_true, if_false, Bool.not_false, Bool.and_true, if_true]

section
variable (on : bit s.zlk.ctrl 31 = true)
include on

/-- ADDR, PUB_EN and FORM do not change while EN = 1 (R258). -/
theorem effZlkCtrl_refused (changes : ((d &&& 0xF01F0F70) ^^^ s.zlk.ctrl) &&& 0x301F0000 ≠ 0) : effZlkCtrl d s = none :=
  if_pos (by rw [on, Bool.true_and]; exact bne_iff_ne.2 changes)

variable (keeps : ((d &&& 0xF01F0F70) ^^^ s.zlk.ctrl) &&& 0x301F0000 = 0)
include keeps

/-- EN cleared: the device leaves its zone and goes OFF (R258). -/
theorem effZlkCtrl_disables (clears : bit d 31 = false) :
    effZlkCtrl d s = some (zlkLeave .off (updZlk s (fun z => { z with ctrl := d &&& 0xF01F0F70 }))) := by
  have off : bit (d &&& 0xF01F0F70) 31 = false := bit_zlkCtrl.trans clears
  simp only [effZlkCtrl, on, off, keeps, bne_self_eq_false, Bool.and_false, Bool.false_eq_true, if_false, Bool.not_true, Bool.not_false, Bool.and_true,
    if_true]

theorem effZlkCtrl_stays (sets : bit d 31 = true) : effZlkCtrl d s = some (rvLatch (updZlk s (fun z => { z with ctrl := d &&& 0xF01F0F70 }))) := by
  have stays : bit (d &&& 0xF01F0F70) 31 = true := bit_zlkCtrl.trans sets
  simp only [effZlkCtrl, on, stays, keeps, bne_self_eq_false, Bool.and_false, Bool.false_eq_true, if_false, Bool.not_true, Bool.false_and]

end

theorem bit_clearTop : bit (d &&& 0x7FFFFFFF) 31 = false := by
  rw [bit, BitVec.getLsbD_and]
  exact Bool.and_false _

section
variable (queues : bit d 31 = true)
include queues

/-- QUEUE of a joined device places its scene in the one-entry queue (R266). -/
theorem zlkWrite_queue (joined : zlkJoined s = true) : zlkWrite 0x01C d s = some { s with zlk := { s.zlk with
    group := fld d 10 0, scene := fld d 26 24, qScene := fld d 26 24, qGroup := fld d 10 0, pend := true
    cntRepl := if s.zlk.pend then satInc s.zlk.cntRepl 255 else s.zlk.cntRepl } } := by
  have inRange : fld d 26 24 % 8 = fld d 26 24 := Nat.mod_mod _ _
  have takes : zlkWrite 0x01C d s = effZlkScn d s := rfl
  simp only [takes, effZlkScn, queues, joined, Bool.not_true, Bool.and_false, Bool.false_eq_true, if_false, if_true, zlkQueue, updZlk, inRange]
  rfl

theorem zlkWrite_queueRefused (apart : zlkJoined s = false) : zlkWrite 0x01C d s = none :=
  if_pos (by rw [queues, apart]; rfl)

end

theorem zlkWrite_txqProd : zlkWrite 0x0C4 d s = some (updZlk s (fun z => { z with txqProd := fld d 3 0 })) := rfl

theorem zlkWrite_flush : zlkWrite 0x0CC 1 s = some (effZlkFlush s) := rfl

theorem zlkWrite_cntClr : zlkWrite 0x0EC 1 s = some (updZlk s (fun z => { z with
    cntCrc := 0, cntBeacon := 0, cntColl := 0, cntRepl := 0, cntJoin := 0, cntDrop := 0 })) := rfl

end

/-- Settles O35: what ZLK_CTRL does by its EN, `zlkLeave_frame` for the zone that is left, `zlkCompleteAll_frame` for the descriptors that
are flushed, and the other register writes. -/
theorem troaxCommands : Obligations.TroaxCommands := by
  unfold Obligations.TroaxCommands
  refine fun s m => ⟨fun data h => ⟨fun off => ?enable, fun on keeps => ?stays, fun on changes => ?refused⟩,
    fun data h on keeps => ?disable, fun data h => ⟨fun joined => ?queue, fun apart => ?queueRefused⟩, fun data h => ?prod, fun h => ?flush,
    fun h => ?counts, fun h => ?time⟩
  case enable =>
    have takes := effZlkCtrl_enables (s := served m .zlk s) (by rwa [served_zlk]) (bit_setTop_top data)
    obtain ⟨u, V, ⟨M, P, A, Y, F, q, w, e, rfl, -⟩, left, -, same⟩ :=
      zlkLeave_frame .listen (updZlk (served m .zlk s) (fun z => { z with ctrl := (data ||| 0x80000000) &&& 0xF01F0F70 }))
    rw [left] at takes
    have answer := busWrite_reaches h takes
    obtain ⟨g, serves⟩ := served_frame m .zlk s
    rw [serves] at answer same
    refine ⟨_, congrArg Host.Outcome.next answer, rfl, rfl, rfl, rfl, rfl, rfl, rfl, rfl, rfl, rfl, fun wasOff => ?_⟩
    have untouched := same (by simp [updZlk, wasOff]) (by simp [updZlk, wasOff])
    exact ⟨(congrArg State.mem untouched :), (congrArg (fun z : State => z.zlk.txqCons) untouched :)⟩
  case stays =>
    have takes := effZlkCtrl_stays (s := served m .zlk s) (by rwa [served_zlk]) (by rwa [served_zlk]) (bit_setTop_top data)
    obtain ⟨V, latched⟩ := rvLatch_frame (updZlk (served m .zlk s) (fun z => { z with ctrl := (data ||| 0x80000000) &&& 0xF01F0F70 }))
    rw [latched, updZlk, served_zlk] at takes
    exact ⟨_, congrArg Host.Outcome.next (busWrite_reaches h takes), rfl, rfl⟩
  case refused =>
    exact congrArg Host.Outcome.next (busWrite_refused h (effZlkCtrl_refused (by rwa [served_zlk]) (by rwa [served_zlk])))
  case disable =>
    have takes := effZlkCtrl_disables (s := served m .zlk s) (by rwa [served_zlk]) (by rwa [served_zlk]) bit_clearTop
    obtain ⟨u, V, ⟨M, P, A, Y, F, q, w, e, rfl, reads⟩, left, emptied, -⟩ :=
      zlkLeave_frame .off (updZlk (served m .zlk s) (fun z => { z with ctrl := (data &&& 0x7FFFFFFF) &&& 0xF01F0F70 }))
    rw [left] at takes
    have answer := busWrite_reaches h takes
    obtain ⟨g, serves⟩ := served_frame m .zlk s
    rw [serves] at answer reads emptied
    exact ⟨_, congrArg Host.Outcome.next answer, rfl, rfl, rfl, rfl, rfl, rfl, rfl, emptied, fun formed => (reads formed).2⟩
  case queue =>
    have takes := zlkWrite_queue (s := served m .zlk s) (bit_setTop_top data) (by rwa [zlkJoined_served])
    rw [served_zlk, fld_setTop data (by decide), fld_setTop data (by decide)] at takes
    exact congrArg Host.Outcome.next (zlkBus_reaches h takes)
  case queueRefused =>
    exact congrArg Host.Outcome.next (busWrite_refused h (zlkWrite_queueRefused (bit_setTop_top data) (by rwa [zlkJoined_served])))
  case prod =>
    have takes := zlkWrite_txqProd (d := data) (s := served m .zlk s)
    rw [updZlk, served_zlk] at takes
    exact congrArg Host.Outcome.next (zlkBus_reaches h takes)
  case flush =>
    obtain ⟨⟨M, P, A, Y, F, q, w, e, after, reads⟩, place, flagged, -⟩ := zlkCompleteAll_frame 4 (served m .zlk s)
    have takes := zlkWrite_flush (s := served m .zlk s)
    rw [after] at place flagged
    rw [effZlkFlush, after] at takes
    have answer := zlkBus_reaches h takes
    obtain ⟨g, serves⟩ := served_frame m .zlk s
    rw [serves] at answer reads place flagged
    exact ⟨_, congrArg Host.Outcome.next answer, rfl, place.trans (zlkQueued_cons _), fun waits => flagged (zlkQueued_ne_zero waits),
      fun formed => (reads formed).2⟩
  case counts =>
    have takes := zlkWrite_cntClr (s := served m .zlk s)
    rw [updZlk, served_zlk] at takes
    exact congrArg Host.Outcome.next (zlkBus_reaches h takes)
  case time =>
    have answer := busRead_reaches (eff := zlkRead 0x028) h
    have reads : zlkRead 0x028 (served m .zlk s) = (BitVec.ofNat 32 ((served m .zlk s).zlk.zt / 2 ^ 16),
      updZlk (served m .zlk s) (fun z => { z with ztHi := BitVec.ofNat 16 (z.zt / 2 ^ 48) })) := rfl
    rw [reads, updZlk, served_zlk] at answer
    exact congrArg Host.Outcome.next answer

end Sys2Proof.Machine

/-!
Zones: how a Troax zone is formed, led, joined and left (R255, R257 to R259, R265, R280).
-/

namespace Sys2Proof.Machine

open Sys2Proof

section
variable {s : State}

/-- FORM makes a device that listens the leader of a zone of its own (R258). -/
theorem form_forms (on : zlkOn s = true) (listens : s.zlk.state = .listen) (forms : bit s.zlk.ctrl 28 = true) (free : s.zlk.barred = false) :
    ∃ P Q V, exec .form s = .next { s with pwr := P, pio := Q, zlk := { s.zlk with
      state := .leader, zt := (zoneOf s (BitVec.ofNat 48 s.trx.time)).toNat * 2 ^ 16, ztRem := 0, cycle := 0, leader := zlkAddr s.zlk, sent := []
      dreq := 0, gotRoll := 0, echoed := zlkAddr s.zlk, granted := zlkAddr s.zlk, silent := .replicate 32 0
      nextP := withBit 0 (zlkAddr s.zlk).val true, pmap := withBit 0 (zlkAddr s.zlk).val true
      nextV := withBit 0 (zlkAddr s.zlk).val (zlkPubEn s.zlk && roomV 0 (zlkAddr s.zlk).val)
      vmap := withBit 0 (zlkAddr s.zlk).val (zlkPubEn s.zlk && roomV 0 (zlkAddr s.zlk).val), evt := withBit s.zlk.evt 2 true, rv := V } } := by
  obtain ⟨P, Q, fenced⟩ := fence_frame s
  exact ⟨P, Q, _, congrArg Host.Outcome.next ((if_pos (by rw [on, listens, forms, free]; rfl)).trans (by dsimp only; rw [fenced]; rfl))⟩

/-- A zone of one device has room for its value (R278). -/
theorem roomV_empty (a : Nat) : roomV 0 a = true := by
  have empty : withBit 0 a false = 0 := BitVec.zero_and
  rw [roomV, empty]
  rfl

/-! ## The cycle -/

/-- The link as a cycle starts, before the device leads or follows it. -/
def cycleBegun (s : State) : State := rvAge (updZlk s cycleEnds)

theorem cycleBegun_frame (s : State) : ∃ S V, cycleBegun s = { s with zlk := { s.zlk with
    silent := S, rv := V, ownColl := if s.zlk.rolled then s.zlk.ownColl else 0, rolled := false } } := by
  unfold cycleBegun rvAge rvLatch updZlk cycleEnds
  exact ⟨_, _, rfl⟩

theorem cycleStart_apart (mm : Bool) (on : zlkOn s = true) (apart : zlkJoined s = false) : exec (.cycleStart mm) s = .next (cycleBegun s) := by
  refine congrArg Host.Outcome.next ((effect_of_holds on).trans (if_neg ?_))
  obtain ⟨S, V, begun⟩ := cycleBegun_frame s
  rw [cycleBegun] at begun
  rw [begun]
  exact Bool.eq_false_iff.1 apart

theorem cycleStart_leads (mm : Bool) (on : zlkOn s = true) (joined : zlkJoined s = true) (lowest : lowestOf s.zlk.pmap = some (zlkAddr s.zlk)) :
    exec (.cycleStart mm) s = .next (zlkColl mm (leaderCycle (updZlk (cycleBegun s) (fun z => withOwn z (zlkAddr s.zlk))))) := by
  obtain ⟨S, V, begun⟩ := cycleBegun_frame s
  refine congrArg Host.Outcome.next ((effect_of_holds on).trans ?_)
  rw [begun]
  rw [cycleBegun] at begun
  rw [begun]
  exact (if_pos joined).trans (if_pos lowest)

theorem cycleStart_follows (mm : Bool) (on : zlkOn s = true) (joined : zlkJoined s = true) (lowest : lowestOf s.zlk.pmap ≠ some (zlkAddr s.zlk)) :
    exec (.cycleStart mm) s = .next (updZlk (cycleBegun s) (fun z => { z with
      state := .follower, missed := z.missed + 1, grant := none, gotRoll := 0, dreq := 0 })) := by
  obtain ⟨S, V, begun⟩ := cycleBegun_frame s
  refine congrArg Host.Outcome.next ((effect_of_holds on).trans ?_)
  rw [begun]
  rw [cycleBegun] at begun
  rw [begun]
  exact (if_pos joined).trans (if_neg lowest)

/-! ## The leader's beacon -/

/-- A burst of PRE, SYNC, octets and their check is a burst of its length whose check is right (R253, R254). -/
theorem burstOk_framed {body : List Byte} {n : Nat} (len : body.length + 4 = n) :
    burstOk ([0x55, 0xE2] ++ body ++ leBytes 2 (crc16 body)) n = true := by
  have whole : ([0x55, 0xE2] ++ body ++ leBytes 2 (crc16 body)).length = n := by
    rw [List.length_append, List.length_append, length_leBytes, ← len]
    simp only [List.length_cons, List.length_nil]
    omega
  have checked : (([0x55, 0xE2] ++ body ++ leBytes 2 (crc16 body)).drop 2).take (n - 4) = body := by
    rw [← len, Nat.add_sub_cancel]
    exact List.take_left
  have check : ([0x55, 0xE2] ++ body ++ leBytes 2 (crc16 body)).drop (n - 2) = leBytes 2 (crc16 body) := by
    refine List.drop_left' ?_
    simp only [List.length_append, List.length_cons, List.length_nil]
    omega
  rw [burstOk, checked, check, whole]
  simp [oct]

/-- A leader's beacon is a burst of 26 octets whose check is right, under its own address (R253). -/
theorem beaconOctets_ok (z : Zlk) (echo grant : Option (Fin 32)) : burstOk (beaconOctets z echo grant) 26 = true ∧
    (oct (beaconOctets z echo grant) 2).toNat = 0x20 + (zlkAddr z).val := by
  refine ⟨burstOk_framed ?_, ?_⟩
  · cases echo <;> cases grant <;> rfl
  · have small := (zlkAddr z).isLt
    show (BitVec.ofNat 8 (0x20 + (zlkAddr z).val)).toNat = _
    rw [BitVec.toNat_ofNat]
    omega

/-- What the leader of a cycle takes over, and that it sends a beacon (R255, R257, R262, R268). -/
theorem leaderCycle_frame (s : State) : ∃ u E G X Y D V B, completes s u ∧ leaderCycle s = { u with zlk := { u.zlk with
      state := .leader, leader := zlkAddr s.zlk, cycle := if s.zlk.sent.isEmpty then s.zlk.cycle else s.zlk.cycle + 1
      pmap := s.zlk.nextP, vmap := s.zlk.nextV, gotRoll := 0, dreq := 0, echoed := X, granted := Y, grant := G, missed := 0
      sent := B, burstAt := D, evt := E, rv := V } } ∧ burstOk B 26 = true ∧ (oct B 2).toNat = 0x20 + (zlkAddr s.zlk).val := by
  have done := zlkDreq_frame s
  unfold leaderCycle
  generalize zlkDreq s = p at done
  obtain ⟨own, s1⟩ := p
  obtain ⟨M, P, A, Y, F, q, w, e, rfl, reads⟩ := done
  dsimp only
  split
  · exact ⟨_, _, _, _, _, _, _, _, ⟨M, P, A, Y, F, q, w, e, rfl, reads⟩, rfl, beaconOctets_ok _ _ _⟩
  · exact ⟨_, _, _, _, _, _, _, _, ⟨M, P, A, Y, F, q, w, e, rfl, reads⟩, rfl, beaconOctets_ok _ _ _⟩

/-! ## Joining -/

section
variable (on : zlkOn s = true) (joins : s.zlk.state = .joining) (next : s.zlk.joinOut = false)
include on joins next

theorem joinSlot_turn : (!zlkOn s || s.zlk.state != .joining || s.zlk.joinOut) = false := by
  rw [on, joins, next]
  rfl

/-- A device whose wait has not ended waits on (R258). -/
theorem joinSlot_waits (draw : Fin 8) (mm : Bool) (waits : s.zlk.joinWait ≠ 0) : exec (.joinSlot draw mm) s =
    .next { s with zlk := { s.zlk with joinWait := s.zlk.joinWait - 1 } } :=
  congrArg Host.Outcome.next ((if_neg (Bool.eq_false_iff.1 (joinSlot_turn on joins next))).trans (if_pos (bne_iff_ne.2 waits)))

/-- The header of a JOIN: the address, and whether the device wants to publish (R253). -/
def joinHeader (a : Fin 32) (pub : Bool) : Byte := BitVec.ofNat 8 ((if pub then 0x60 else 0x40) + a.val)

/-- A device whose wait has ended sends its JOIN (R253, R258, R280). -/
theorem joinSlot_sends (draw : Fin 8) (mm : Bool) (ended : s.zlk.joinWait = 0) : exec (.joinSlot draw mm) s =
    .next { s with zlk := { s.zlk with
      sent := [0x55, 0xE2, joinHeader (zlkAddr s.zlk) (zlkPubEn s.zlk)] ++ leBytes 1 (crc8 [joinHeader (zlkAddr s.zlk) (zlkPubEn s.zlk)])
      burstAt := 10 * s.time, joinSent := true, joinOut := true, joinWait := draw.val, cntJoin := satInc s.zlk.cntJoin 255
      cntColl := if mm then satInc s.zlk.cntColl 65535 else s.zlk.cntColl, evt := if mm then withBit s.zlk.evt 7 true else s.zlk.evt } } := by
  refine congrArg Host.Outcome.next ((if_neg (Bool.eq_false_iff.1 (joinSlot_turn on joins next))).trans
    ((if_neg (by rw [ended]; decide)).trans ?_))
  rw [zlkColl_eq]
  rfl

end

theorem joinHeader_fields (a : Fin 32) (pub : Bool) : (joinHeader a pub).toNat % 32 = a.val ∧
    (joinHeader a pub).toNat / 32 = if pub then 3 else 2 := by
  revert a pub
  decide

/-- The leader admits a device that joins to the next maps, publishing within the limit of R278 (R257). -/
theorem join_admits (a : Fin 32) (pub : Bool) (on : zlkOn s = true) (leads : s.zlk.state = .leader) : ∃ S,
    exec (.join [0x55, 0xE2, joinHeader a pub, BitVec.ofNat 8 (crc8 [joinHeader a pub])]) s = .next { s with zlk := { s.zlk with
      nextP := withBit s.zlk.nextP a.val true
      nextV := if pub && roomV s.zlk.nextV a.val then withBit s.zlk.nextV a.val true else s.zlk.nextV, silent := S } } := by
  obtain ⟨address, type⟩ := joinHeader_fields a pub
  have header (c : Byte) : oct [0x55, 0xE2, joinHeader a pub, c] 2 = joinHeader a pub := rfl
  refine ⟨(idx 32).foldl (fun v i => if i.val = a.val then v.set i.val 0 else v) s.zlk.silent,
    congrArg Host.Outcome.next ((effect_of_holds on).trans ((effect_of_holds ?_).trans ((if_neg ?_).trans ?_)))⟩
  · rw [header, type]
    cases pub <;> simp [oct]
  · rw [leads]
    decide
  · simp only [header, type, address, updZlk]
    cases pub <;> rfl

end

/-- Settles O36: each instant's equation, with `leaderCycle_frame` and `beaconOctets_ok` for the cycle that a leader starts and
`zlkLeave_frame` for the zone that a follower loses. -/
theorem troaxZone : Obligations.TroaxZone := by
  unfold Obligations.TroaxZone
  refine fun s => ⟨fun on listens forms free => ?form, fun mm on apart => ?apart, fun mm on joined lowest => ?leads,
    fun mm on joined lowest => ?follows, fun draw mm on joins next => ⟨joinSlot_waits on joins next draw mm, joinSlot_sends on joins next draw mm⟩,
    fun a pub on leads => ?join, fun a on leads other silent => ?drop, fun on follows missed => ?lost, fun k => ?stale⟩
  case form =>
    obtain ⟨P, Q, V, answer⟩ := form_forms on listens forms free
    rw [roomV_empty, Bool.and_true] at answer
    exact ⟨_, answer, rfl, rfl, rfl, rfl, rfl, rfl, bit_withBit _ 2 2 true (by decide), rfl⟩
  case apart =>
    obtain ⟨S, V, begun⟩ := cycleBegun_frame s
    exact ⟨_, (cycleStart_apart mm on apart).trans (congrArg Host.Outcome.next begun), rfl⟩
  case leads =>
    obtain ⟨S, V, begun⟩ := cycleBegun_frame s
    have answer := cycleStart_leads mm on joined lowest
    rw [begun, zlkColl_eq] at answer
    obtain ⟨u, E, G, X, Y, D, W, B, ⟨M, P, A, Z, F, q, w, e, rfl, reads⟩, leads, framed, header⟩ :=
      leaderCycle_frame (updZlk { s with zlk := { s.zlk with
        silent := S, rv := V, ownColl := if s.zlk.rolled then s.zlk.ownColl else 0, rolled := false } } (fun z => withOwn z (zlkAddr s.zlk)))
    rw [leads] at answer
    refine ⟨_, answer, rfl, rfl, rfl, rfl, rfl, rfl, rfl, rfl, framed, header, rfl, fun mismatch => ?_, fun formed => (reads formed).2⟩
    rw [mismatch]
    exact bit_withBit _ 7 7 true (by decide)
  case follows =>
    obtain ⟨S, V, begun⟩ := cycleBegun_frame s
    have answer := cycleStart_follows mm on joined lowest
    rw [begun] at answer
    exact ⟨_, answer, rfl, rfl, rfl, rfl, rfl, rfl, rfl, rfl, rfl⟩
  case join =>
    obtain ⟨S, answer⟩ := join_admits a pub on leads
    refine ⟨_, answer, rfl, rfl, ?_⟩
    simp only [roomV, Bool.and_eq_true, decide_eq_true_eq]
  case drop => exact congrArg Host.Outcome.next (if_pos (by rw [on, leads, bne_iff_ne.2 other, decide_eq_true silent]; rfl))
  case lost =>
    obtain ⟨u, V, ⟨M, P, A, Y, F, q, w, e, rfl, reads⟩, left, emptied, -⟩ := zlkLeave_frame .listen s
    have answer : exec .leaderLost s = .next (zlkEvt 5 (zlkLeave .listen s)) :=
      congrArg Host.Outcome.next (if_pos (by rw [on, follows]; simp [missed]))
    rw [left] at answer
    exact ⟨_, answer, rfl, rfl, bit_withBit _ 5 5 true (by decide), rfl, rfl, rfl, emptied (Or.inl follows), fun formed => (reads formed).2⟩
  case stale =>
    have now := upd_same s.zlk.rv k (fun r => { r with stale := r.stale || staleN s.zlk < r.quiet })
    exact ⟨_, rfl, rfl, now, fun j other => upd_other _ k j _ other⟩

end Sys2Proof.Machine

/-!
Beacons: what a beacon does in each state of the link (R254, R258, R259, R261, R262).
-/

namespace Sys2Proof.Machine

open Sys2Proof

/-! ## The layout and the time that a beacon brings -/

/-- Zone time counts modulo 2⁶⁴ (R259). -/
theorem moveZt_zt (e : Int) (z : Zlk) : ((moveZt e z).zt : Int) = ((z.zt : Int) + e * 8192) % 2 ^ 64 :=
  Int.toNat_of_nonneg (Int.emod_nonneg _ (by decide))

/-- The layout of a beacon taken over changes nothing else but the grant, LAYOUT and the remote values (R255, R265). -/
theorem takeLayout_frame (b : Beacon) (s : State) : ∃ G E V, takeLayout b s = { s with zlk := { s.zlk with
    cycle := b.cycle, leader := b.src, pmap := b.pmap, vmap := b.vmap, nextP := b.pmap, nextV := b.vmap, missed := 0
    grant := G, evt := E, rv := V } } := by
  unfold takeLayout
  dsimp only
  split
  · obtain ⟨V, latched⟩ := rvLatch_frame (zlkEvt 3 (updZlk s (fun z => { z with
      cycle := b.cycle, leader := b.src, pmap := b.pmap, vmap := b.vmap, nextP := b.pmap, nextV := b.vmap, missed := 0
      grant := if h : b.grant < 32 then some ⟨b.grant, h⟩ else none })))
    exact ⟨_, _, V, latched⟩
  · obtain ⟨V, latched⟩ := rvLatch_frame (updZlk s (fun z => { z with
      cycle := b.cycle, leader := b.src, pmap := b.pmap, vmap := b.vmap, nextP := b.pmap, nextV := b.vmap, missed := 0
      grant := if h : b.grant < 32 then some ⟨b.grant, h⟩ else none }))
    exact ⟨_, _, V, latched⟩

/-- A follower's correction by the error of a beacon (R261), and its delay from an echo (R262). -/
theorem followTime_eq (b : Beacon) (rx8 : Nat) (s : State) : followTime b rx8 s = { s with zlk := { s.zlk with
    zt := (moveZt (diff8 (b.t8 + s.zlk.dly.toInt) rx8) s.zlk).zt
    rate := if s.clk.sys.st = .coast then s.zlk.rate else newRate s.zlk (diff8 (b.t8 + s.zlk.dly.toInt) rx8)
    dly := if b.eaddr = (zlkAddr s.zlk).val then BitVec.ofInt 16 (rhaDiv (b.eofs + s.zlk.dSent.toInt) 2) else s.zlk.dly
    dlyValid := if b.eaddr = (zlkAddr s.zlk).val then true else s.zlk.dlyValid } } := by
  by_cases own : b.eaddr = (zlkAddr s.zlk).val
  · rw [if_pos own, if_pos own]
    exact congrArg (fun z => { s with zlk := z }) (if_pos own)
  · rw [if_neg own, if_neg own]
    exact congrArg (fun z => { s with zlk := z }) (if_neg own)

/-- What a beacon gives a device that follows its leader: the time, the rate, the delay and the layout (R255, R259, R261, R262). -/
theorem followed_frame (b : Beacon) (rx8 : Nat) (s : State) : ∃ G E V, takeLayout b (followTime b rx8 s) = { s with zlk := { s.zlk with
    zt := (moveZt (diff8 (b.t8 + s.zlk.dly.toInt) rx8) s.zlk).zt
    rate := if s.clk.sys.st = .coast then s.zlk.rate else newRate s.zlk (diff8 (b.t8 + s.zlk.dly.toInt) rx8)
    dly := if b.eaddr = (zlkAddr s.zlk).val then BitVec.ofInt 16 (rhaDiv (b.eofs + s.zlk.dSent.toInt) 2) else s.zlk.dly
    dlyValid := if b.eaddr = (zlkAddr s.zlk).val then true else s.zlk.dlyValid
    cycle := b.cycle, leader := b.src, pmap := b.pmap, vmap := b.vmap, nextP := b.pmap, nextV := b.vmap, missed := 0
    grant := G, evt := E, rv := V } } := by
  rw [followTime_eq]
  exact takeLayout_frame b _

/-! ## A beacon by the state that it meets -/

/-- The link once a beacon has been counted. -/
def beaconHeard (s : State) : State := updZlk s (fun z => { z with cntBeacon := satInc z.cntBeacon 65535 })

/-- A beacon that fails its check is only counted (R254). -/
theorem beacon_bad {s : State} {octets : List Byte} (rx8 : Nat) (on : zlkOn s = true)
    (bad : (burstOk octets 26 && (oct octets 2).toNat / 32 = 1) = false) :
    exec (.beacon octets rx8) s = .next (zlkBad s) :=
  congrArg Host.Outcome.next ((effect_of_holds on).trans (if_pos (by rw [bad]; rfl)))

section
variable {s : State} {octets : List Byte} (rx8 : Nat) (on : zlkOn s = true)
  (good : (burstOk octets 26 && (oct octets 2).toNat / 32 = 1) = true)
include on good

/-- A leader, a link that is off and a barred device take nothing of a beacon (R258, R259). -/
theorem beacon_passes (apart : s.zlk.state = .off ∨ s.zlk.state = .leader ∨ (s.zlk.state = .listen ∧ s.zlk.barred = true)) :
    exec (.beacon octets rx8) s = .next (beaconHeard s) := by
  refine congrArg Host.Outcome.next ((effect_of_holds on).trans ((effect_of_holds good).trans ?_))
  extract_lets b c
  obtain st | st | ⟨st, barred⟩ := apart
  · rw [show c.zlk.state = .off from st]; rfl
  · rw [show c.zlk.state = .leader from st]; rfl
  · rw [show c.zlk.state = .listen from st]; exact if_pos barred

/-- A PMAP that names a device that is not joined and has sent no JOIN shows a duplicate address (R258). -/
theorem beacon_duplicate (named : inMap (parseBeacon octets) s.zlk = true)
    (unsent : (s.zlk.state = .joining ∧ s.zlk.joinSent = false) ∨ (s.zlk.state = .listen ∧ s.zlk.barred = false)) :
    exec (.beacon octets rx8) s = .next (zlkDup (beaconHeard s)) := by
  refine congrArg Host.Outcome.next ((effect_of_holds on).trans ((effect_of_holds good).trans ?_))
  extract_lets b c
  obtain ⟨st, unsent⟩ | ⟨st, free⟩ := unsent
  · rw [show c.zlk.state = .joining from st]; exact (if_pos named).trans (if_neg (Bool.eq_false_iff.1 unsent))
  · rw [show c.zlk.state = .listen from st]; exact (if_neg (Bool.eq_false_iff.1 free)).trans (if_pos named)

/-- The first beacon that a LISTEN device hears is noted (R258). -/
theorem beacon_first (listens : s.zlk.state = .listen) (free : s.zlk.barred = false) (unnamed : inMap (parseBeacon octets) s.zlk = false)
    (first : ¬ (s.zlk.heard = 1 ∧ (parseBeacon octets).cycle = s.zlk.cycle + 1)) :
    exec (.beacon octets rx8) s = .next { s with zlk := { s.zlk with
      cntBeacon := satInc s.zlk.cntBeacon 65535, heard := 1, cycle := (parseBeacon octets).cycle, leader := (parseBeacon octets).src } } := by
  refine congrArg Host.Outcome.next ((effect_of_holds on).trans ((effect_of_holds good).trans ?_))
  extract_lets b c
  rw [show c.zlk.state = .listen from listens]
  exact (if_neg (Bool.eq_false_iff.1 free)).trans ((if_neg (Bool.eq_false_iff.1 unnamed)).trans
    (if_neg (fun both => first (by rwa [Bool.and_eq_true, decide_eq_true_eq, decide_eq_true_eq] at both))))

/-- The second of two beacons in a row gives a LISTEN device its time, and it starts JOINING (R258). -/
theorem beacon_second (listens : s.zlk.state = .listen) (free : s.zlk.barred = false) (unnamed : inMap (parseBeacon octets) s.zlk = false)
    (heard : s.zlk.heard = 1) (next : (parseBeacon octets).cycle = s.zlk.cycle + 1) : ∃ G E V,
    exec (.beacon octets rx8) s = .next { s with zlk := { s.zlk with
      cntBeacon := satInc s.zlk.cntBeacon 65535, zt := (moveZt (diff8 (parseBeacon octets).t8 rx8) s.zlk).zt
      state := .joining, heard := 2, joinSent := false, joinOut := false, joinWait := 0
      cycle := (parseBeacon octets).cycle, leader := (parseBeacon octets).src, pmap := (parseBeacon octets).pmap
      vmap := (parseBeacon octets).vmap, nextP := (parseBeacon octets).pmap, nextV := (parseBeacon octets).vmap, missed := 0
      grant := G, evt := E, rv := V } } := by
  obtain ⟨G, E, V, taken⟩ := takeLayout_frame (parseBeacon octets) (updZlk (beaconHeard s) (fun z => moveZt (diff8 (parseBeacon octets).t8 rx8)
    { z with state := .joining, heard := 2, joinSent := false, joinOut := false, joinWait := 0 }))
  refine ⟨G, E, V, congrArg Host.Outcome.next ((effect_of_holds on).trans ((effect_of_holds good).trans (.trans ?_ taken)))⟩
  extract_lets b c
  rw [show c.zlk.state = .listen from listens]
  exact (if_neg (Bool.eq_false_iff.1 free)).trans ((if_neg (Bool.eq_false_iff.1 unnamed)).trans
    (if_pos (Bool.and_eq_true_iff.2 ⟨decide_eq_true heard, decide_eq_true next⟩)))

/-- A JOINING device that the PMAP does not name takes the layout, and waits on (R258). -/
theorem beacon_waits (joins : s.zlk.state = .joining) (unnamed : inMap (parseBeacon octets) s.zlk = false) : ∃ G E V,
    exec (.beacon octets rx8) s = .next { s with zlk := { s.zlk with
      cntBeacon := satInc s.zlk.cntBeacon 65535, joinOut := false
      cycle := (parseBeacon octets).cycle, leader := (parseBeacon octets).src, pmap := (parseBeacon octets).pmap
      vmap := (parseBeacon octets).vmap, nextP := (parseBeacon octets).pmap, nextV := (parseBeacon octets).vmap, missed := 0
      grant := G, evt := E, rv := V } } := by
  obtain ⟨G, E, V, taken⟩ := takeLayout_frame (parseBeacon octets) (updZlk (beaconHeard s) (fun z => { z with joinOut := false }))
  refine ⟨G, E, V, congrArg Host.Outcome.next ((effect_of_holds on).trans ((effect_of_holds good).trans (.trans ?_ taken)))⟩
  extract_lets b c
  rw [show c.zlk.state = .joining from joins]
  exact if_neg (Bool.eq_false_iff.1 unnamed)

/-- A device that the PMAP names follows the leader, if it followed or had sent its JOIN: it takes the time, the rate, the delay and the
layout (R258, R259, R261, R262). -/
theorem beacon_follows (named : inMap (parseBeacon octets) s.zlk = true)
    (member : s.zlk.state = .follower ∨ (s.zlk.state = .joining ∧ s.zlk.joinSent = true)) : ∃ R G E V,
    exec (.beacon octets rx8) s = .next { s with zlk := { s.zlk with
      cntBeacon := satInc s.zlk.cntBeacon 65535, state := .follower, pubRef := R
      zt := (moveZt (diff8 ((parseBeacon octets).t8 + s.zlk.dly.toInt) rx8) s.zlk).zt
      rate := if s.clk.sys.st = .coast then s.zlk.rate else newRate s.zlk (diff8 ((parseBeacon octets).t8 + s.zlk.dly.toInt) rx8)
      dly := if (parseBeacon octets).eaddr = (zlkAddr s.zlk).val then BitVec.ofInt 16 (rhaDiv ((parseBeacon octets).eofs + s.zlk.dSent.toInt) 2)
        else s.zlk.dly
      dlyValid := if (parseBeacon octets).eaddr = (zlkAddr s.zlk).val then true else s.zlk.dlyValid
      cycle := (parseBeacon octets).cycle, leader := (parseBeacon octets).src, pmap := (parseBeacon octets).pmap
      vmap := (parseBeacon octets).vmap, nextP := (parseBeacon octets).pmap, nextV := (parseBeacon octets).vmap, missed := 0
      grant := G, evt := E, rv := V } } := by
  obtain follows | ⟨joins, sent⟩ := member
  · obtain ⟨G, E, V, taken⟩ := followed_frame (parseBeacon octets) rx8 (beaconHeard s)
    refine ⟨s.zlk.pubRef, G, E, V, congrArg Host.Outcome.next ((effect_of_holds on).trans ((effect_of_holds good).trans (.trans ?_ (taken.trans ?_))))⟩
    · extract_lets b c
      rw [show c.zlk.state = .follower from follows]
      exact if_pos named
    · rw [← follows]
      rfl
  · obtain ⟨G, E, V, taken⟩ := followed_frame (parseBeacon octets) rx8 (zlkEvt 2 (updZlk (beaconHeard s)
      (fun z => { z with state := .follower, pubRef := zlkPubEn z && !bit (parseBeacon octets).vmap (zlkAddr z).val })))
    refine ⟨zlkPubEn s.zlk && !bit (parseBeacon octets).vmap (zlkAddr s.zlk).val, G, E, V,
      congrArg Host.Outcome.next ((effect_of_holds on).trans ((effect_of_holds good).trans (.trans ?_ (taken.trans ?_))))⟩
    · extract_lets b c
      rw [show c.zlk.state = .joining from joins]
      exact (if_pos named).trans (if_pos sent)
    · dsimp only [beaconHeard, updZlk, zlkEvt, zlkAddr, moveZt, newRate]
      rfl

/-- A follower that the PMAP no longer names leaves the zone (R259). -/
theorem beacon_drops (follows : s.zlk.state = .follower) (unnamed : inMap (parseBeacon octets) s.zlk = false) :
    exec (.beacon octets rx8) s = .next (updZlk (zlkLeave .listen (beaconHeard s)) (fun z => { z with
      heard := 1, cycle := (parseBeacon octets).cycle, leader := (parseBeacon octets).src })) := by
  refine congrArg Host.Outcome.next ((effect_of_holds on).trans ((effect_of_holds good).trans ?_))
  extract_lets b c
  rw [show c.zlk.state = .follower from follows]
  exact if_neg (Bool.eq_false_iff.1 unnamed)

/-- A valid beacon is counted, and changes nothing outside the link but where a follower leaves its zone. -/
theorem beacon_frame {t : State} (answer : exec (.beacon octets rx8) s = .next t) : t.zlk.cntBeacon = satInc s.zlk.cntBeacon 65535 ∧
    (s.zlk.state ≠ .follower ∨ inMap (parseBeacon octets) s.zlk = true → t = { s with zlk := t.zlk }) := by
  have dup (f : s.zlk.state ≠ .follower) (l : s.zlk.state ≠ .leader) (e : exec (.beacon octets rx8) s = .next (zlkDup (beaconHeard s))) :
      t.zlk.cntBeacon = satInc s.zlk.cntBeacon 65535 ∧
      (s.zlk.state ≠ .follower ∨ inMap (parseBeacon octets) s.zlk = true → t = { s with zlk := t.zlk }) := by
    obtain ⟨V, left⟩ := zlkDup_unjoined (s := beaconHeard s) f l
    cases answer.symm.trans (e.trans (congrArg Host.Outcome.next left))
    exact ⟨rfl, fun _ => rfl⟩
  cases st : s.zlk.state with
  | off =>
    cases answer.symm.trans (beacon_passes rx8 on good (Or.inl st))
    exact ⟨rfl, fun _ => rfl⟩
  | leader =>
    cases answer.symm.trans (beacon_passes rx8 on good (Or.inr (Or.inl st)))
    exact ⟨rfl, fun _ => rfl⟩
  | listen =>
    rw [← st]
    cases free : s.zlk.barred with
    | true =>
      cases answer.symm.trans (beacon_passes rx8 on good (Or.inr (Or.inr ⟨st, free⟩)))
      exact ⟨rfl, fun _ => rfl⟩
    | false =>
      cases named : inMap (parseBeacon octets) s.zlk with
      | true => exact named ▸ dup (by rw [st]; decide) (by rw [st]; decide) (beacon_duplicate rx8 on good named (Or.inr ⟨st, free⟩))
      | false =>
        by_cases second : s.zlk.heard = 1 ∧ (parseBeacon octets).cycle = s.zlk.cycle + 1
        · obtain ⟨G, E, V, e⟩ := beacon_second rx8 on good st free named second.1 second.2
          cases answer.symm.trans e
          exact ⟨rfl, fun _ => rfl⟩
        · cases answer.symm.trans (beacon_first rx8 on good st free named second)
          exact ⟨rfl, fun _ => rfl⟩
  | joining =>
    rw [← st]
    cases named : inMap (parseBeacon octets) s.zlk with
    | false =>
      obtain ⟨G, E, V, e⟩ := beacon_waits rx8 on good st named
      cases answer.symm.trans e
      exact ⟨rfl, fun _ => rfl⟩
    | true =>
      cases sent : s.zlk.joinSent with
      | false => exact named ▸ dup (by rw [st]; decide) (by rw [st]; decide) (beacon_duplicate rx8 on good named (Or.inl ⟨st, sent⟩))
      | true =>
        obtain ⟨R, G, E, V, e⟩ := beacon_follows rx8 on good named (Or.inr ⟨st, sent⟩)
        cases answer.symm.trans e
        exact ⟨rfl, fun _ => rfl⟩
  | follower =>
    cases named : inMap (parseBeacon octets) s.zlk with
    | true =>
      obtain ⟨R, G, E, V, e⟩ := beacon_follows rx8 on good named (Or.inl st)
      cases answer.symm.trans e
      exact ⟨rfl, fun _ => rfl⟩
    | false =>
      obtain ⟨u, V, ⟨M, P, A, Y, F, q, w, e, rfl, -⟩, left, -, -⟩ := zlkLeave_frame .listen (beaconHeard s)
      have drops := beacon_drops rx8 on good st named
      rw [left] at drops
      cases answer.symm.trans drops
      exact ⟨rfl, fun stays => by obtain stays | stays := stays <;> contradiction⟩

end

/-- Settles O37: the equation of the state that the beacon meets, and `beacon_frame` for what every valid beacon leaves. -/
theorem troaxBeacons : Obligations.TroaxBeacons := by
  unfold Obligations.TroaxBeacons
  refine fun s octets rx8 on => ⟨fun bad => ?bad, fun framed type => ?valid⟩
  case bad =>
    rw [beacon_bad rx8 on (by obtain bad | bad := bad <;> simp [bad]), zlkBad_eq]
  case valid =>
    have good : (burstOk octets 26 && (oct octets 2).toNat / 32 = 1) = true := by rw [framed, decide_eq_true type]; rfl
    obtain ⟨t, answer⟩ := exec_goesOn (.beacon octets rx8) s
    obtain ⟨counted, within⟩ := beacon_frame rx8 on good answer
    refine ⟨t, answer, counted, within, fun leads => ?leads, fun named member => ?follows, fun named unsent => ?duplicate,
      fun unnamed joins => ?waits, fun unnamed listens free heard next => ?second, fun unnamed follows => ?drops⟩
    case leads =>
      cases answer.symm.trans (beacon_passes rx8 on good (Or.inr (Or.inl leads)))
      rfl
    case follows =>
      obtain ⟨R, G, E, V, e⟩ := beacon_follows rx8 on good named member
      cases answer.symm.trans e
      exact ⟨rfl, moveZt_zt _ _, rfl, rfl, rfl, rfl, rfl, rfl, fun own => ⟨if_pos own, if_pos own⟩, fun other => ⟨if_neg other, if_neg other⟩⟩
    case duplicate =>
      have free : s.zlk.state ≠ .follower ∧ s.zlk.state ≠ .leader := by
        obtain ⟨st, -⟩ | ⟨st, -⟩ := unsent <;> rw [st] <;> decide
      obtain ⟨V, left⟩ := zlkDup_unjoined (s := beaconHeard s) free.1 free.2
      cases answer.symm.trans ((beacon_duplicate rx8 on good named unsent).trans (congrArg Host.Outcome.next left))
      exact ⟨rfl, rfl, rfl, bit_withBit _ 4 4 true (by decide), rfl⟩
    case waits =>
      obtain ⟨G, E, V, e⟩ := beacon_waits rx8 on good joins unnamed
      cases answer.symm.trans e
      exact ⟨joins, rfl, rfl, rfl, rfl⟩
    case second =>
      obtain ⟨G, E, V, e⟩ := beacon_second rx8 on good listens free unnamed heard next
      cases answer.symm.trans e
      exact ⟨rfl, moveZt_zt _ _, rfl, rfl, rfl, rfl⟩
    case drops =>
      obtain ⟨u, V, ⟨M, P, A, Y, F, q, w, e, rfl, reads⟩, left, emptied, -⟩ := zlkLeave_frame .listen (beaconHeard s)
      have drops := beacon_drops rx8 on good follows unnamed
      rw [left] at drops
      cases answer.symm.trans drops
      exact ⟨rfl, rfl, rfl, emptied (Or.inl follows), rfl, rfl, rfl, rfl⟩

end Sys2Proof.Machine

/-!
Roll bursts, as they are sent and as they are received (R253 to R256, R262, R265 to R267, R280).
-/

namespace Sys2Proof.Machine

open Sys2Proof

/-- What a VALUE that a burst may carry does to the link: the remote values, fresh where they select its address, and the stalls where they
are published (R150, R265). -/
theorem rvTakeIf_frame (carries : Prop) [Decidable carries] (a : Fin 32) (v : BitVec 24) (s : State) : ∃ V W,
    (if carries then rvTake a v s else s) = { s with stl := W, zlk := { s.zlk with rv := V } } ∧ (¬ carries → V = s.zlk.rv) ∧
    (carries → zlkJoined s = true → bit s.zlk.vmap a.val = true → ∀ k : Fin 16, s.zlk.rv[k].en = true → s.zlk.rv[k].src = a →
      V[k] = { s.zlk.rv[k] with val := v, stale := false, quiet := 0 }) := by
  by_cases has : carries
  · obtain ⟨W, took⟩ := rvTake_frame a v s
    obtain ⟨V, latched⟩ := rvLatch_frame (updZlk s (valueGiven a v))
    refine ⟨V, W, ?_, fun none => absurd has none, fun _ joined publishes k enabled selects => ?_⟩
    · rw [if_pos has, took, latched]
      rfl
    · have fresh := rvLatch_given a v s joined publishes enabled selects
      rwa [latched] at fresh
  · exact ⟨s.zlk.rv, s.stl, if_neg has, fun _ => rfl, fun yes => absurd yes has⟩

/-- A duplicate address takes the device to LISTEN, and keeps its scene queue, its count of mismatches and its other events (R258, R280). -/
theorem zlkDup_keeps (s : State) : (zlkDup s).zlk.state = .listen ∧ (zlkDup s).zlk.dup = true ∧ (zlkDup s).zlk.pend = s.zlk.pend ∧
    (zlkDup s).zlk.cntColl = s.zlk.cntColl ∧ keepsEvt s.zlk.evt (zlkDup s).zlk.evt ∧
    (zlkDup s).cfg = s.cfg ∧ (zlkDup s).trx = s.trx ∧ (zlkDup s).cry = s.cry ∧ (zlkDup s).boot = s.boot := by
  have keeps : keepsEvt s.zlk.evt (zlkDup s).zlk.evt := fun i small set =>
    keepsEvt_withBit _ 4 i small (zlkLeave_keepsEvt .listen s i small set)
  obtain ⟨u, V, ⟨M, P, A, Y, F, q, w, e, rfl, -⟩, left, -, -⟩ := zlkLeave_frame .listen s
  refine ⟨?_, rfl, ?_, ?_, keeps, ?_, ?_, ?_, ?_⟩ <;> rw [zlkDup, left] <;> rfl

/-! ## Sending -/

/-- The octets of a roll burst between its SYNC and its check: the ROLL word, and the value of a device that publishes (R253, R265). -/
def rollBody (s s1 : State) (dreq : Bool) : List Byte :=
  leBytes 2 (rollWord s.zlk dreq) ++
    (if bit s.zlk.vmap (zlkAddr s.zlk).val then leBytes 3 (BitVec.ofInt 24 (senseBus s1 (fld s.zlk.pub 7 0))).toNat else [])

/-- The link once a mismatch of the roll burst has been judged: the second in a row shows a duplicate address (R280). -/
def rollJudged (mismatch : Bool) (s : State) : State :=
  if !mismatch then updZlk s (fun z => { z with ownColl := 0 })
  else
    let collided := updZlk (zlkColl true s) (fun z => { z with ownColl := z.ownColl + 1 })
    if 2 ≤ collided.zlk.ownColl then zlkDup collided else collided

theorem rollJudged_matched (s : State) : rollJudged false s = { s with zlk := { s.zlk with ownColl := 0 } } := rfl

/-- A first mismatch in a row counts and sets COLL (R280). -/
theorem rollJudged_once {s : State} (first : s.zlk.ownColl = 0) : rollJudged true s = { s with zlk := { s.zlk with
    ownColl := s.zlk.ownColl + 1, cntColl := satInc s.zlk.cntColl 65535, evt := withBit s.zlk.evt 7 true } } :=
  if_neg (show ¬ 2 ≤ s.zlk.ownColl + 1 by omega)

/-- A second mismatch in a row makes the device a duplicate (R280). -/
theorem rollJudged_again {s : State} (again : s.zlk.ownColl ≠ 0) : rollJudged true s = zlkDup { s with zlk := { s.zlk with
    ownColl := s.zlk.ownColl + 1, cntColl := satInc s.zlk.cntColl 65535, evt := withBit s.zlk.evt 7 true } } :=
  if_pos (show 2 ≤ s.zlk.ownColl + 1 by omega)

/-- Whether the device sends a roll burst: it is joined, has a slot, and heard this cycle's beacon if it follows (R256, R259). -/
theorem rollLatch_turn {s : State} (joined : zlkJoined s = true) (slot : bit s.zlk.pmap (zlkAddr s.zlk).val = true)
    (heard : s.zlk.state = .leader ∨ s.zlk.missed = 0) :
    (!zlkJoined s || !bit s.zlk.pmap (zlkAddr s.zlk).val || (s.zlk.state = .follower && s.zlk.missed != 0)) = false := by
  rw [joined, slot]
  obtain leads | heard := heard
  · rw [leads]; rfl
  · rw [heard]; exact Bool.and_false _

section
variable {s s1 : State} {dreq : Bool} (found : zlkDreq s = (dreq, s1)) (joined : zlkJoined s = true)
  (slot : bit s.zlk.pmap (zlkAddr s.zlk).val = true) (heard : s.zlk.state = .leader ∨ s.zlk.missed = 0)
include found joined slot heard

/-- The roll burst of a device: what it sends, and what the link is then, before a mismatch is judged (R253, R256, R265, R266). -/
theorem rollLatch_sends : ∃ X D V W, ∀ mm, exec (.rollLatch mm) s = .next (rollJudged mm { s1 with stl := W, zlk := { s1.zlk with
    sent := [0xE2] ++ rollBody s s1 dreq ++ leBytes 1 (crc8 (rollBody s s1 dreq)), burstAt := D, pend := false, dSent := s.zlk.dly
    rolled := true, txWait := X, rv := V } }) := by
  have done := zlkDreq_frame s
  rw [found] at done
  obtain ⟨M, P, A, Y, F, q, w, e, rfl, -⟩ := done
  obtain ⟨V, W, valued, -⟩ := rvTakeIf_frame (bit s.zlk.vmap (zlkAddr s.zlk).val = true) (zlkAddr s.zlk)
    (BitVec.ofInt 24 (senseBus { s with mem := M, pwr := P, act := A, yard := Y, free := F, zlk := { s.zlk with txqCons := q, txWait := w, evt := e } }
      (fld s.zlk.pub 7 0)))
    { s with mem := M, pwr := P, act := A, yard := Y, free := F, zlk := { s.zlk with
      txqCons := q, evt := e, sent := [0xE2] ++ rollBody s _ dreq ++ leBytes 1 (crc8 (rollBody s _ dreq)), burstAt := 10 * s.time - 1536
      pend := false, dSent := s.zlk.dly, rolled := true, txWait := if dreq then satInc w 65535 else w } }
  refine ⟨_, _, V, W, fun mm => congrArg Host.Outcome.next
    ((if_neg (Bool.eq_false_iff.1 (rollLatch_turn joined slot heard))).trans (.trans ?_ (congrArg (rollJudged mm) valued)))⟩
  rw [found]
  rfl

end

/-! ## Receiving -/

/-- A field inside a burst is a field of the body that it frames. -/
theorem octs_framed {body : List Byte} (h : Byte) (c : List Byte) (i : Nat) {n : Nat} (inside : i + n ≤ body.length) :
    octs ([h] ++ body ++ c) (i + 1) n = octs body i n := by
  have rest : ([h] ++ body ++ c).drop (i + 1) = body.drop i ++ c := by
    rw [List.append_assoc, List.singleton_append, List.drop_succ_cons, List.drop_append_of_le_length (by omega)]
  rw [octs, octs, rest, List.take_append_of_le_length (by rw [List.length_drop]; omega)]

theorem length_rolled (body : List Byte) : ([0xE2] ++ body ++ leBytes 1 (crc8 body)).length = body.length + 2 := by
  rw [List.length_append, List.length_append, length_leBytes, List.length_singleton]
  omega

/-- A burst of SYNC, a body of the layout's length and its check is a valid roll burst (R253, R254). -/
theorem rollOk_rolled {z : Zlk} {a : Fin 32} {body : List Byte} (apart : z.state ≠ .listen)
    (len : body.length = (if bit z.vmap a.val then 5 else 2)) : rollOk z a ([0xE2] ++ body ++ leBytes 1 (crc8 body)) = true := by
  have inner : (([0xE2] ++ body ++ leBytes 1 (crc8 body)).drop 1).take body.length = body := List.take_left
  have check : ([0xE2] ++ body ++ leBytes 1 (crc8 body)).drop (body.length + 1) = leBytes 1 (crc8 body) :=
    List.drop_left' (by rw [List.length_append, List.length_singleton, Nat.add_comm])
  have whole : body.length + 2 = if bit z.vmap a.val then 7 else 4 := by
    rw [len]
    split <;> rfl
  rw [rollOk, length_rolled, if_neg apart, decide_eq_true whole, Nat.add_sub_cancel, inner, show body.length + 2 - 1 = body.length + 1 from rfl, check]
  simp [oct]

theorem zlkOn_of_joined {s : State} (joined : zlkJoined s = true) (powered : domReady s .yard = true) :
    zlkOn s = true ∧ s.zlk.state ≠ .listen := by
  rw [zlkJoined, Bool.and_eq_true, Bool.or_eq_true, decide_eq_true_eq, decide_eq_true_eq] at joined
  obtain ⟨usable, st⟩ := joined
  rw [zlkOn, usable, powered]
  obtain st | st := st <;> rw [st] <;> exact ⟨rfl, by decide⟩

section
variable {s : State} (a : Fin 32) (late8 : Int)

/-- Outside its window no SYNC of a roll burst is taken (R255). -/
theorem roll_outside (octets : List Byte) (outside : late8 < -614 ∨ 614 < late8) : exec (.roll a octets late8) s = .next s := by
  refine congrArg Host.Outcome.next (if_pos ?_)
  have missed : inRollWindow late8 = false := by
    rw [inRollWindow, Bool.and_eq_false_iff, decide_eq_false_iff_not, decide_eq_false_iff_not]
    omega
  rw [missed]
  exact Bool.or_true _

theorem inRollWindow_within (low : -614 ≤ late8) (high : late8 ≤ 614) : inRollWindow late8 = true :=
  Bool.and_eq_true_iff.2 ⟨decide_eq_true low, decide_eq_true high⟩

/-- A burst in its window that is no valid roll burst is only counted (R254). -/
theorem roll_bad {octets : List Byte} (on : zlkOn s = true) (low : -614 ≤ late8) (high : late8 ≤ 614) (bad : rollOk s.zlk a octets = false) :
    exec (.roll a octets late8) s = .next (zlkBad s) :=
  congrArg Host.Outcome.next ((if_neg (by rw [on, inRollWindow_within late8 low high]; decide)).trans (if_pos (by rw [bad]; rfl)))

/-- The link once a member's roll burst has been noted: its DREQ and its time (R257, R262). -/
def rollNoted (w : Nat) (s : State) : State := updZlk s (fun z => { z with
  gotRoll := withBit z.gotRoll a.val true, dreq := withBit z.dreq a.val (w.testBit 15), silent := z.silent.set a.val 0
  late := z.late.set a.val late8 })

/-- The scene of a ROLL word raises the route source of the filter slot that it meets (R267). -/
def sceneRaised (w : Nat) (s : State) : State :=
  if w.testBit 14 then
    match zlkFilter s.zlk (w / 2 ^ 11 % 8) (w % 2 ^ 11) with
    | some k => fire (0x10 + k.val) s
    | none => s
  else s

/-- A valid burst of another member: noted, its VALUE taken, its scene met (R257, R262, R265, R267). -/
theorem roll_takes {octets : List Byte} (joined : zlkJoined s = true) (powered : domReady s .yard = true) (other : a ≠ zlkAddr s.zlk)
    (member : bit s.zlk.pmap a.val = true) (low : -614 ≤ late8) (high : late8 ≤ 614) (good : rollOk s.zlk a octets = true) :
    exec (.roll a octets late8) s = .next (sceneRaised (octs octets 1 2) (if octets.length = 7
      then rvTake a (BitVec.ofNat 24 (octs octets 3 3)) (rollNoted a late8 (octs octets 1 2) s) else rollNoted a late8 (octs octets 1 2) s)) := by
  obtain ⟨on, -⟩ := zlkOn_of_joined joined powered
  refine congrArg Host.Outcome.next ((if_neg (by rw [on, inRollWindow_within late8 low high]; decide)).trans
    ((effect_of_holds good).trans ((if_neg other).trans ?_)))
  rw [joined, member]
  unfold sceneRaised
  dsimp only
  cases (octs octets 1 2).testBit 14 <;> rfl

end

/-- Settles O38: `rollLatch_sends` with the judgement of a mismatch, and `roll_takes` with `rvTakeIf_frame` for the VALUE that a burst
carries. -/
theorem rollBursts : Obligations.RollBursts := by
  unfold Obligations.RollBursts
  refine fun s => ⟨fun dreq s1 found joined slot heard => ?sends, fun a body late8 joined powered other member len low high => ?takes,
    fun a octets late8 => roll_outside a late8 octets, fun a octets late8 on low high sync => ?bad⟩
  case sends =>
    have done := zlkDreq_frame s
    obtain ⟨X, D, V, W, answer⟩ := rollLatch_sends found joined slot heard
    rw [found] at done
    obtain ⟨M, P, A, Y, F, q, w, e, rfl, -⟩ := done
    refine ⟨⟨_, answer false, rfl, rfl, rfl, rfl, rfl, rfl, rfl, rfl, rfl⟩, ?_⟩
    by_cases first : s.zlk.ownColl = 0
    · have answer := (answer true).trans (congrArg Host.Outcome.next (rollJudged_once first))
      exact ⟨_, answer, rfl, rfl, bit_withBit _ 7 7 true (by decide), fun _ => ⟨rfl, rfl⟩, fun again => absurd first again, rfl, rfl, rfl, rfl⟩
    · have answer := (answer true).trans (congrArg Host.Outcome.next (rollJudged_again first))
      obtain ⟨listens, dup, pend, counted, events, cfg, trx, cry, boot⟩ := zlkDup_keeps _
      exact ⟨_, answer, pend, counted, events 7 (by decide) (bit_withBit _ 7 7 true (by decide)), fun once => absurd once first,
        fun _ => ⟨listens, dup⟩, cfg, trx, cry, boot⟩
  case takes =>
    obtain ⟨-, apart⟩ := zlkOn_of_joined joined powered
    have answer := roll_takes a late8 joined powered other member low high (rollOk_rolled apart len)
    have two : 0 + 2 ≤ body.length := by rw [len]; split <;> decide
    have word : octs ([0xE2] ++ body ++ leBytes 1 (crc8 body)) 1 2 = octs body 0 2 := octs_framed _ _ 0 two
    rw [word] at answer
    obtain ⟨V, W, valued, without, fresh⟩ := rvTakeIf_frame (([0xE2] ++ body ++ leBytes 1 (crc8 body)).length = 7) a
      (BitVec.ofNat 24 (octs ([0xE2] ++ body ++ leBytes 1 (crc8 body)) 3 3)) (rollNoted a late8 (octs body 0 2) s)
    rw [valued] at answer
    rw [length_rolled, len] at fresh without
    refine ⟨{ rollNoted a late8 (octs body 0 2) s with stl := W, zlk := { (rollNoted a late8 (octs body 0 2) s).zlk with rv := V } },
      rfl, rfl, rfl, rfl, rfl, fun k publishes enabled selects => ?_, fun k silent => ?_, rfl, rfl, rfl, answer.trans ?_⟩
    · have value : octs ([0xE2] ++ body ++ leBytes 1 (crc8 body)) 3 3 = octs body 2 3 :=
        octs_framed _ _ 2 (by rw [len, if_pos publishes])
      rw [value] at fresh
      exact fresh (by rw [if_pos publishes]) joined publishes k enabled selects
    · have same : V = s.zlk.rv := without (by rw [silent]; decide)
      rw [same]
    · unfold sceneRaised
      rfl
  case bad =>
    have bad : rollOk s.zlk a octets = false := by
      rw [rollOk, decide_eq_false sync]
      simp only [Bool.and_false, Bool.false_and]
    rw [roll_bad a late8 on low high bad, zlkBad_eq]

end Sys2Proof.Machine

/-!
Synthesizers: losses of lock and of reference, and the way from a start through coast and relock (R289, R291 to R296, R311, R427).
-/

namespace Sys2Proof.Machine

open Sys2Proof

/-- An event that changes the clock system alone, by what it makes of the clocks. -/
theorem updClk_eq {s : State} {f : Clk → Clk} {c : Clk} (makes : f s.clk = c) : updClk s f = { s with clk := c } :=
  congrArg (fun c : Clk => { s with clk := c }) makes

/-! ## The sleep-clock measurement that a change may end -/

/-- No measurement runs while the SYSPLL is not LOCKED (R307). -/
theorem slkActive_unlocked {s : State} (unlocked : s.clk.sys.st ≠ .locked) : slkActive s = false := by
  simp [slkActive, unlocked]

/-- A change that ends no measurement sets nothing. -/
theorem slkLapse_of_runs {s t : State} (runs : slkActive s = true → slkActive t = true) : slkLapse s t = t := by
  refine if_neg fun ended => ?_
  rw [Bool.and_eq_true, Bool.not_eq_true'] at ended
  exact Bool.false_ne_true (ended.2.symm.trans (runs ended.1))

/-- What a change does to a measurement: SLK_DISC sets if one was ended, and no other event (R307). -/
theorem slkLapse_frame (s t : State) : ∃ e, slkLapse s t = { t with clk := { t.clk with evt := e } } ∧
    (slkActive s = true → slkActive t = false → bit e 9 = true) ∧ ∀ i, i < 32 → i ≠ 9 → bit e i = bit t.clk.evt i := by
  by_cases ends : slkActive s = true ∧ slkActive t = false
  · refine ⟨withBit t.clk.evt 9 true, if_pos (by rw [ends.1, ends.2]; rfl), fun _ _ => bit_withBit _ 9 9 true (by decide), fun i small other => ?_⟩
    rw [bit_withBit _ 9 i true small, if_neg other.symm]
  · refine ⟨t.clk.evt, slkLapse_of_runs fun was => ?_, fun was ended => absurd ⟨was, ended⟩ ends, fun _ _ _ => rfl⟩
    exact Bool.not_eq_false _ ▸ fun ended => ends ⟨was, ended⟩

/-! ## Losses -/

/-- The events of a clock system whose XTAL fails: XTAL_FAIL, and XLF_FAIL where XLF is not OK either (R289, R314). -/
def xtalFailEvt (c : Clk) : W32 := if c.xlfOk then withBit c.evt 5 true else withBit (withBit c.evt 5 true) 6 true

theorem xtalFail_eq (c : Clk) : xtalFail c = { c with xtalOk := false, evt := xtalFailEvt c } := by
  cases xlf : c.xlfOk <;> simp [xtalFail, xtalFailEvt, clkEvt, xlf]

theorem xtalFailEvt_bits (c : Clk) : bit (xtalFailEvt c) 5 = true ∧ bit (xtalFailEvt c) 6 = (bit c.evt 6 || !c.xlfOk) ∧
    ∀ i, i < 32 → i ≠ 5 → i ≠ 6 → bit (xtalFailEvt c) i = bit c.evt i := by
  cases xlf : c.xlfOk
  · have events : xtalFailEvt c = withBit (withBit c.evt 5 true) 6 true := if_neg (by simp [xlf])
    refine ⟨?_, ?_, fun i small five six => ?_⟩ <;> rw [events]
    · rw [bit_withBit _ 6 5 true (by decide)]
      exact bit_withBit _ 5 5 true (by decide)
    · exact (bit_withBit _ 6 6 true (by decide)).trans (Bool.or_true _).symm
    · rw [bit_withBit _ 6 i true small, bit_withBit _ 5 i true small, if_neg six.symm, if_neg five.symm]
  · have events : xtalFailEvt c = withBit c.evt 5 true := if_pos xlf
    refine ⟨?_, ?_, fun i small five _ => ?_⟩ <;> rw [events]
    · exact bit_withBit _ 5 5 true (by decide)
    · exact (bit_withBit _ 5 6 true (by decide)).trans (Bool.or_false _).symm
    · rw [bit_withBit _ 5 i true small, if_neg five.symm]

/-- A loss in LOCKED, in the cycle in which a coast began or during a reference switch is declared, each of the two once (R293, R311). -/
theorem lossApplies_iff (s : State) (x : Pll) (ref : Bool) : lossApplies s x ref = true ↔ pllSt s x = .locked ∨
    (pllSt s x = .coast ∧ (if ref then (pllOf s x).lor else (pllOf s x).lol) = false ∧ ((pllOf s x).switching = true ∨ (pllOf s x).coastCyc = 0)) := by
  have st : pllSt s x = (pllOf s x).st := by cases x <;> rfl
  simp only [lossApplies, st, Bool.or_eq_true, Bool.and_eq_true, decide_eq_true_eq, Bool.not_eq_true']
  tauto

/-- A synthesizer that coasts from now on, with the loss that it coasts for (R293). -/
def coasting (ref : Bool) (p : PllSt) : PllSt := { p with st := .coast, coastCyc := 0, lol := !ref, lor := ref }

theorem lossCoast_sys {s : State} (ref : Bool) (locked : s.clk.sys.st = .locked) : lossCoast s .sys ref =
    { s with clk := { s.clk with sys := coasting ref s.clk.sys }, lpe := { s.lpe with coastSeen := true } } := by
  have starts : pllSt s .sys = .locked := locked
  cases ref <;> simp [lossCoast, starts, coastStart, updClk, coasting]

theorem lossCoast_rf {s : State} (ref : Bool) (locked : s.clk.rf.st = .locked) : lossCoast s .rf ref =
    { s with clk := { s.clk with rf := coasting ref s.clk.rf } } := by
  have starts : pllSt s .rf = .locked := locked
  cases ref <;> simp [lossCoast, starts, coastStart, updClk, coasting]

/-- What a loss of the locked SYSPLL changes before it is counted: the coast, and the measurement that it ends (R293, R298, R307). -/
theorem sysLoss_frame {s : State} (ref : Bool) (locked : s.clk.sys.st = .locked) : ∃ e, slkLapse s (lossCoast s .sys ref) =
    { s with clk := { s.clk with sys := coasting ref s.clk.sys, evt := e }, lpe := { s.lpe with coastSeen := true } } ∧
    (slkActive s = true → bit e 9 = true) ∧ ∀ i, i < 32 → i ≠ 9 → bit e i = bit s.clk.evt i := by
  rw [lossCoast_sys ref locked]
  obtain ⟨e, lapsed, discarded, others⟩ := slkLapse_frame s
    { s with clk := { s.clk with sys := coasting ref s.clk.sys }, lpe := { s.lpe with coastSeen := true } }
  exact ⟨e, lapsed, fun was => discarded was (slkActive_unlocked nofun), others⟩

/-- A loss that is noted in a coast of the SYSPLL ends no measurement: none runs (R307, R311). -/
theorem sysLoss_coasting {s : State} (ref : Bool) (coasts : s.clk.sys.st = .coast) : slkLapse s (lossCoast s .sys ref) =
    { s with clk := { s.clk with sys := if ref then { s.clk.sys with lor := true } else { s.clk.sys with lol := true } } } := by
  have unlocked : s.clk.sys.st ≠ .locked := by rw [coasts]; decide
  have noStart : pllSt s .sys ≠ .locked := unlocked
  have quiet : slkActive s = false := slkActive_unlocked unlocked
  rw [slkLapse_of_runs fun was => absurd (quiet.symm.trans was) Bool.false_ne_true]
  simp [lossCoast, noStart, updClk]

/-- A loss of the locked RFPLL leaves a measurement running (R293, R307). -/
theorem rfLoss_eq {s : State} (ref : Bool) (locked : s.clk.rf.st = .locked) : slkLapse s (lossCoast s .rf ref) =
    { s with clk := { s.clk with rf := coasting ref s.clk.rf } } := by
  rw [lossCoast_rf ref locked]
  exact slkLapse_of_runs id

section
variable {s : State} {x : Pll}

/-- A loss that is not declared changes nothing (R311, log 16). -/
theorem lossOfLock_ignored (ignored : lossApplies s x false = false) : exec (.lossOfLock x) s = .next s := by
  have noLoss : lossLock x s = s := if_neg (by rw [ignored]; decide)
  refine congrArg Host.Outcome.next ?_
  rw [noLoss, rfLost, ignored, Bool.and_false]
  rfl

theorem lossOfReference_ignored (ignored : lossApplies s x true = false) : exec (.lossOfReference x) s = .next s := by
  have noLoss : lossRef x s = s := if_neg (by rw [ignored]; decide)
  refine congrArg Host.Outcome.next ?_
  rw [noLoss, rfLost, ignored, Bool.and_false]
  rfl

end

section
variable {s : State}

/-- A declared loss of lock of the SYSPLL is counted (R293). -/
theorem lossOfLock_sys (declared : lossApplies s .sys false = true) : exec (.lossOfLock .sys) s =
    .next (updClk (slkLapse s (lossCoast s .sys false)) (fun c => clkEvt 0 { c with cntSysLol := satInc c.cntSysLol 255 })) :=
  congrArg Host.Outcome.next (if_pos declared)

/-- A declared loss of reference of the SYSPLL is counted, and XTAL fails (R289, R293). -/
theorem lossOfReference_sys (declared : lossApplies s .sys true = true) : exec (.lossOfReference .sys) s =
    .next (updClk (slkLapse s (lossCoast s .sys true)) (fun c => xtalFail (clkEvt 1 { c with cntSysLor := satInc c.cntSysLor 255 }))) :=
  congrArg Host.Outcome.next (if_pos declared)

/-- What a loss of the RFPLL does to a radio that has no frame on air: a frame being received is lost (R200). -/
def rxLost (t : Trx) : Trx :=
  if t.rxOn then { t with rxOn := false, cntCrc := satInc t.cntCrc 65535, evt := withBit t.evt 4 true } else t

theorem radioLoss_notOnAir (silent : ∀ x, s.trx.tx = some x → x.stage ≠ .onAir) : radioLoss s = { s with trx := rxLost s.trx } := by
  have received : (if s.trx.rxOn then trxEvt 4 (updTrx s (fun t => { t with rxOn := false, cntCrc := satInc t.cntCrc 65535 })) else s) =
      { s with trx := rxLost s.trx } := by
    unfold rxLost
    split <;> rfl
  have kept : (rxLost s.trx).tx = s.trx.tx := by
    unfold rxLost
    split <;> rfl
  unfold radioLoss
  rw [received]
  dsimp only
  rw [kept]
  cases inHand : s.trx.tx with
  | none => rfl
  | some x => exact if_pos (bne_iff_ne.2 (silent x inHand))

section
variable (locked : s.clk.rf.st = .locked) (silent : ∀ x, s.trx.tx = some x → x.stage ≠ .onAir)
include locked silent

/-- A loss of lock of the locked RFPLL (R200, R293). -/
theorem lossOfLock_rf : exec (.lossOfLock .rf) s = .next { s with
    trx := rxLost s.trx
    clk := { s.clk with
      rf := coasting false s.clk.rf, cntRfLol := satInc s.clk.cntRfLol 255, evt := withBit s.clk.evt 3 true } } := by
  have declared : lossApplies s .rf false = true := (lossApplies_iff s .rf false).2 (.inl locked)
  refine congrArg Host.Outcome.next ?_
  rw [rfLost, declared, lossLock, if_pos declared, rfLoss_eq false locked]
  exact radioLoss_notOnAir silent

/-- A loss of reference of the locked RFPLL (R200, R293). -/
theorem lossOfReference_rf : exec (.lossOfReference .rf) s = .next { s with
    trx := rxLost s.trx
    clk := { s.clk with
      rf := coasting true s.clk.rf, cntRfLor := satInc s.clk.cntRfLor 255, evt := withBit s.clk.evt 4 true } } := by
  have declared : lossApplies s .rf true = true := (lossApplies_iff s .rf true).2 (.inl locked)
  refine congrArg Host.Outcome.next ?_
  rw [rfLost, declared, lossRef, if_pos declared, rfLoss_eq true locked]
  exact radioLoss_notOnAir silent

end
end

/-! ## Start, lock and relock -/

section
variable {s : State}

/-- XTAL_OK starts the band search of a SYSPLL that is to run, but not in SLUMBER before an exit (R289, R291, R296). -/
theorem xtalOk_starts (on : s.clk.xtalOn = true) (notYet : s.clk.xtalOk = false) : exec .xtalOk s = .next { s with clk := { s.clk with
    xtalOk := true
    sys := if s.clk.sys.st = .off ∧ ¬(s.pwr.state = .slumber ∧ s.pwr.move = .none) then { s.clk.sys with st := .search } else s.clk.sys } } := by
  refine congrArg Host.Outcome.next ((if_pos (by rw [on, notYet]; rfl)).trans ?_)
  by_cases sleeps : s.pwr.state = .slumber ∧ s.pwr.move = .none
  · simp [updClk, sleeps]
  · by_cases off : s.clk.sys.st = .off <;> simp [updClk, sysStart, sleeps, off]

theorem xtalFail_running (running : s.clk.xtalOk = true) : exec .xtalFail s = .next { s with clk := { s.clk with
    xtalOk := false, evt := xtalFailEvt s.clk } } :=
  congrArg Host.Outcome.next ((if_pos running).trans (updClk_eq (xtalFail_eq s.clk)))

theorem lockPll_sys_acquire (acquires : s.clk.sys.st = .acquire) : lockPll .sys s = { s with
    clk := { s.clk with sys := { s.clk.sys with st := .locked } } } := by
  simp [lockPll, updClk, acquires]

/-- A relock of the SYSPLL ends a reference switch too, and sets SYS_RELOCK (R294, R297). -/
theorem lockPll_sys_coast (coasts : s.clk.sys.st = .coast) : lockPll .sys s = { s with clk := { s.clk with
    sys := { s.clk.sys with st := .locked, coastCyc := 0, switching := false }, evt := withBit s.clk.evt 2 true } } := by
  simp [lockPll, updClk, clkEvt, coasts]

/-- Lock declared by the RFPLL, from ACQUIRE or from a coast, while no tune waits (R292, R294, R311). -/
theorem lockPll_rf (unlocked : s.clk.rf.st = .acquire ∨ s.clk.rf.st = .coast) (noTune : s.clk.want = none) : lockPll .rf s = { s with
    clk := { s.clk with rf := { s.clk.rf with st := .locked, coastCyc := 0 } } } := by
  simp [lockPll, updClk, unlocked, noTune]

end

/-- Settles O43: each loss by whether it is declared (`lossApplies_iff`), with what it changes, and the equation of each later event. -/
theorem synthesizerEvents : Obligations.SynthesizerEvents := by
  unfold Obligations.SynthesizerEvents
  refine fun s => ⟨fun locked => ?lol, fun locked => ?lor, fun coasts inCoast => ⟨fun first => ?lolNoted, fun first => ?lorNoted⟩,
    fun x unlocked past => ?ignored, fun locked silent => ?rf, xtalOk_starts, fun running => ?xtalFail,
    fun band => ⟨fun searches => ?sysBand, fun searches => ?rfBand⟩,
    fun acquires => ?sysLock, fun coasts => ?sysRelock, fun noTune => ⟨fun acquires => ?rfLock, fun coasts => ?rfRelock⟩, fun coasts => ?research,
    fun starts => ?failed⟩
  case lol =>
    obtain ⟨e, began, discarded, others⟩ := sysLoss_frame false locked
    have answer := lossOfLock_sys ((lossApplies_iff s .sys false).2 (.inl locked))
    rw [began] at answer
    refine ⟨_, answer, rfl, bit_withBit _ 0 0 true (by decide), fun was => ?_, ?_⟩
    · exact (bit_withBit _ 0 9 true (by decide)).trans (discarded was)
    · exact (bit_withBit _ 0 1 true (by decide)).trans (others 1 (by decide) (by decide))
  case lor =>
    obtain ⟨e, began, discarded, others⟩ := sysLoss_frame true locked
    have answer := lossOfReference_sys ((lossApplies_iff s .sys true).2 (.inl locked))
    rw [began, updClk, xtalFail_eq] at answer
    obtain ⟨failed, alone, kept⟩ := xtalFailEvt_bits (clkEvt 1 { s.clk with
      sys := coasting true s.clk.sys, evt := e, cntSysLor := satInc s.clk.cntSysLor 255 })
    refine ⟨_, answer, rfl, ?_, failed, fun noXlf => ?_, fun was => ?_, ?_⟩
    · exact (kept 1 (by decide) (by decide) (by decide)).trans (bit_withBit _ 1 1 true (by decide))
    · exact alone.trans (by simp [clkEvt, noXlf])
    · exact (kept 9 (by decide) (by decide) (by decide)).trans ((bit_withBit _ 1 9 true (by decide)).trans (discarded was))
    · exact (kept 0 (by decide) (by decide) (by decide)).trans ((bit_withBit _ 1 0 true (by decide)).trans (others 0 (by decide) (by decide)))
  case lolNoted =>
    rw [lossOfLock_sys ((lossApplies_iff s .sys false).2 (.inr ⟨coasts, first, inCoast⟩)), sysLoss_coasting false coasts]
    rfl
  case lorNoted =>
    have answer := lossOfReference_sys ((lossApplies_iff s .sys true).2 (.inr ⟨coasts, first, inCoast⟩))
    rw [sysLoss_coasting true coasts, updClk, xtalFail_eq] at answer
    obtain ⟨failed, -, kept⟩ := xtalFailEvt_bits (clkEvt 1 { s.clk with
      sys := { s.clk.sys with lor := true }, cntSysLor := satInc s.clk.cntSysLor 255 })
    exact ⟨_, answer, rfl, (kept 1 (by decide) (by decide) (by decide)).trans (bit_withBit _ 1 1 true (by decide)), failed⟩
  case ignored =>
    have ignored (ref : Bool) : lossApplies s x ref = false := by
      refine Bool.eq_false_iff.2 fun declared => ?_
      obtain locked | ⟨coasts, -, inCoast⟩ := (lossApplies_iff s x ref).1 declared
      · exact unlocked locked
      · obtain apart | ⟨noSwitch, later⟩ := past
        · exact apart coasts
        · exact inCoast.elim (fun switches => Bool.false_ne_true (noSwitch.symm.trans switches)) later
    exact ⟨lossOfLock_ignored (ignored false), lossOfReference_ignored (ignored true)⟩
  case rf => exact ⟨⟨_, lossOfLock_rf locked silent, rfl, rfl⟩, ⟨_, lossOfReference_rf locked silent, rfl, rfl⟩⟩
  case xtalFail =>
    obtain ⟨failed, alone, -⟩ := xtalFailEvt_bits s.clk
    exact ⟨_, xtalFail_running running, rfl, failed, alone⟩
  case sysBand => exact congrArg Host.Outcome.next (updClk_eq (if_pos searches))
  case rfBand => exact congrArg Host.Outcome.next (updClk_eq (if_pos searches))
  case sysLock => exact congrArg (fun t => Host.Outcome.next (buckSync t)) (lockPll_sys_acquire acquires)
  case sysRelock => exact congrArg Host.Outcome.next ((if_pos coasts).trans (lockPll_sys_coast coasts))
  case rfLock =>
    refine congrArg Host.Outcome.next ?_
    rw [lockPll_rf (.inl acquires) noTune, buckSync]
    by_cases sysLocked : s.clk.sys.st = .locked <;> simp [sysLocked]
  case rfRelock => exact congrArg Host.Outcome.next ((if_pos coasts).trans (lockPll_rf (.inr coasts) noTune))
  case research => exact congrArg Host.Outcome.next (updClk_eq (if_pos coasts))
  case failed => exact congrArg Host.Outcome.next (updClk_eq (if_pos starts))

end Sys2Proof.Machine

/-!
Sleep clock: what a measurement makes of the table (R307 to R309).
-/

namespace Sys2Proof.Machine

open Sys2Proof

theorem upd_unchanged {α : Type} {n : Nat} (v : Vector α n) (i : Fin n) : upd v i id = v := Vector.set_getElem_self i.isLt

/-- An entry with the measured error. -/
def slkTaken (m : Int) (x : SlkEntry) : SlkEntry := { x with e := BitVec.ofInt 24 (satS 24 m) }

/-- The table that a measurement `m` updates: an unlearned one first takes it whole (R309). -/
def slkBase (v : Vector SlkEntry 16) (m : Int) : Vector SlkEntry 16 :=
  if (idx 16).all (fun j => (v[j]).upd == 0) then (idx 16).foldl (fun v j => upd v j (slkTaken m)) v else v

/-- Entry `j` updated, if it is one of the pair at position `p` (R308, R309). -/
def slkPair (m r : Int) (p lsh : Nat) (j : Fin 16) : SlkEntry → SlkEntry :=
  if j.val = p / 704 then slkBump m r (704 - p % 704) lsh else if j.val = p / 704 + 1 then slkBump m r (p % 704) lsh else id

/-- An entry after a measurement (R309). -/
theorem slkUpdate_at (v₀ : Vector SlkEntry 16) (lsh : Nat) (m t : Int) (j : Fin 16) :
    (slkUpdate v₀ lsh m t)[j] = slkPair m (m - slkPred v₀ t) (slkPos t) lsh j (slkBase v₀ m)[j] := by
  have each : (fun (v : Vector SlkEntry 16) (k : Fin 16) =>
      if k.val = slkPos t / 704 then upd v k (slkBump m (m - slkPred v₀ t) (704 - slkPos t % 704) lsh)
      else if k.val = slkPos t / 704 + 1 then upd v k (slkBump m (m - slkPred v₀ t) (slkPos t % 704) lsh) else v) =
      fun v k => upd v k (slkPair m (m - slkPred v₀ t) (slkPos t) lsh k) := by
    funext v k
    by_cases lower : k.val = slkPos t / 704
    · simp [slkPair, lower]
    · by_cases upper : k.val = slkPos t / 704 + 1
      · simp [slkPair, upper]
      · simp [slkPair, lower, upper, upd_unchanged]
  have folded : slkUpdate v₀ lsh m t = (idx 16).foldl (fun v k => upd v k (slkPair m (m - slkPred v₀ t) (slkPos t) lsh k)) (slkBase v₀ m) :=
    congrArg (fun f => (idx 16).foldl f (slkBase v₀ m)) each
  rw [folded]
  exact foldl_idx (slkPair m (m - slkPred v₀ t) (slkPos t) lsh) (slkBase v₀ m) j

theorem slkBase_learned {v : Vector SlkEntry 16} (m : Int) (learned : ∃ j : Fin 16, v[j].upd ≠ 0) : slkBase v m = v := by
  obtain ⟨j, used⟩ := learned
  refine if_neg fun fresh => used ?_
  exact beq_iff_eq.1 (List.all_eq_true.1 fresh j (mem_idx j))

theorem slkBase_fresh {v : Vector SlkEntry 16} (m : Int) (fresh : ∀ j : Fin 16, v[j].upd = 0) (j : Fin 16) :
    (slkBase v m)[j] = slkTaken m v[j] := by
  have all : (idx 16).all (fun j => (v[j]).upd == 0) = true := List.all_eq_true.2 fun j _ => beq_iff_eq.2 (fresh j)
  rw [slkBase, if_pos all]
  exact foldl_idx (fun _ => slkTaken m) v j

/-- An entry that no measurement has updated takes the measured error (R309). -/
theorem slkPair_fresh {m : Int} (r : Int) (p lsh : Nat) (j : Fin 16) {x : SlkEntry} (unlearned : x.upd = 0)
    (taken : x.e = BitVec.ofInt 24 (satS 24 m)) : (slkPair m r p lsh j x).e = BitVec.ofInt 24 (satS 24 m) := by
  have bump (w : Nat) : (slkBump m r w lsh x).e = BitVec.ofInt 24 (satS 24 m) := by
    by_cases noShare : w = 0
    · rw [slkBump, if_pos noShare, taken]
    · rw [slkBump, if_neg noShare, if_pos unlearned]
  unfold slkPair
  split
  · exact bump _
  · split
    · exact bump _
    · exact taken

theorem slkPair_outside {p : Nat} (m r : Int) (lsh : Nat) {j : Fin 16} (x : SlkEntry) (below : j.val ≠ p / 704) (above : j.val ≠ p / 704 + 1) :
    slkPair m r p lsh j x = x :=
  congrFun ((if_neg below).trans (if_neg above)) x

/-- The lower entry of the pair moves by its share of the difference from the prediction (R309). -/
theorem slkPair_lower {p : Nat} (m r : Int) (lsh : Nat) {j : Fin 16} {x : SlkEntry} (lower : j.val = p / 704) (learned : x.upd ≠ 0) :
    (slkPair m r p lsh j x).e = BitVec.ofInt 24 (satS 24 (x.e.toInt + rhaDiv (r * ((704 - p % 704 : Nat) : Int)) (704 * 2 ^ lsh))) ∧
    (slkPair m r p lsh j x).upd = min (x.upd + 1) 255 := by
  have share : 704 - p % 704 ≠ 0 := by omega
  rw [slkPair, if_pos lower, slkBump, if_neg share, if_neg learned]
  exact ⟨rfl, rfl⟩

/-- A measurement ends: its error, and the table at the TEMP published last (R307, R309). -/
theorem sleepClockMeasurement_ends {s : State} {c : Nat} (active : slkActive s = true) (counted : c ≠ 0) :
    exec (.sleepClockMeasurement c) s = .next { s with clk := { s.clk with
      slkValid := true, slkLast := BitVec.ofInt 24 (satS 24 (slkMeasure s.clk.slkCfg c)), slkT := s.sns.tempData
      slk := slkUpdate s.clk.slk (fld s.clk.slkCfg 26 24) (slkMeasure s.clk.slkCfg c) s.sns.tempData.toInt
      evt := withBit s.clk.evt 8 true } } :=
  congrArg Host.Outcome.next (if_pos (by rw [active, bne_iff_ne.2 counted]; rfl))

end Sys2Proof.Machine

/-!
Clock commands: the reference switch, BYPASS, the low-frequency crystal and the crystal load (R289, R297, R304 to R306, R311, R316, R401, R431).
-/

namespace Sys2Proof.Machine

open Sys2Proof

/-! ## Registers -/

/-- A REFSEL that is no reference, or that changes while the SYSPLL is not LOCKED, is refused (R297). -/
theorem effSysCfg_refused {d : W32} {s : State} (bad : fld (d &&& 0x00033300) 17 16 = 3 ∨
    (fld (d &&& 0x00033300) 17 16 ≠ fld s.clk.sys.cfg 17 16 ∧ s.clk.sys.st ≠ .locked)) : effSysCfg d s = none := by
  unfold effSysCfg
  dsimp only
  obtain noReference | ⟨changes, unlocked⟩ := bad
  · rw [if_pos noReference]
  · rw [if_neg changes, if_neg unlocked, ite_self]

/-- A change of REFSEL in LOCKED coasts through the switch, with no event but the discard of a measurement (R297, R307). -/
theorem effSysCfg_switches {d : W32} {s : State} (reference : fld (d &&& 0x00033300) 17 16 ≠ 3)
    (changes : fld (d &&& 0x00033300) 17 16 ≠ fld s.clk.sys.cfg 17 16) (locked : s.clk.sys.st = .locked) : ∃ e,
    effSysCfg d s = some { s with
      lpe := { s.lpe with coastSeen := true }
      clk := { s.clk with evt := e, sys := { s.clk.sys with
        cfg := d &&& 0x00033300, path := fld (d &&& 0x00033300) 17 16, st := .coast, coastCyc := 0, switching := true
        lol := false, lor := false } } } ∧ ∀ i, i < 32 → i ≠ 9 → bit e i = bit s.clk.evt i := by
  obtain ⟨e, lapsed, -, others⟩ := slkLapse_frame s (coastStart .sys (updClk s (fun c => { c with sys := { c.sys with
    cfg := d &&& 0x00033300, path := fld (d &&& 0x00033300) 17 16, switching := true } })))
  refine ⟨e, ?_, others⟩
  unfold effSysCfg
  dsimp only
  rw [if_neg reference, if_neg changes, if_pos locked, lapsed]
  rfl

/-- BYPASS of a device whose SYSPLL has not FAILED is refused (R304). -/
theorem effBypass_refused {s : State} (normal : s.clk.bypass = false) (works : s.clk.sys.st ≠ .failed) :
    effBypass 0x80000000 s = none :=
  (if_neg (by rw [normal]; decide)).trans (if_neg works)

/-- BYPASS of a device whose SYSPLL has FAILED: the divisor, the PWM counters and the gates (R304). -/
theorem effBypass_failed {s : State} (normal : s.clk.bypass = false) (failed : s.clk.sys.st = .failed) :
    effBypass 0x80000000 s = some { s with
      clk := { s.clk with bypass := true, fast := false }
      stl := (idx 32).foldl (fun v n => upd v n (fun t => { t with gate := false })) s.stl
      lpe := { s.lpe with pwmBase := 0 } } :=
  (if_neg (by rw [normal]; decide)).trans (if_pos failed)

theorem effClkCntClr_one (s : State) : effClkCntClr 1 s = { s with clk := { s.clk with
    cntSysLol := 0, cntSysLor := 0, cntRfLol := 0, cntRfLor := 0 } } := if_pos (by decide)

/-! ## The low-frequency crystal -/

/-- The sleep interval with an instant at which LTICK took another source (R310, R311). -/
def sleepNoted (xlf : Bool) (p : Pwr) : Option SleepPoint :=
  p.sleep.map (fun q => { q with moves := q.moves ++ [(p.ltime, xlf)] })

theorem noteMove_asleep {xlf : Bool} {s : State} (asleep : s.pwr.state = .slumber) :
    noteMove xlf s = { s with pwr := { s.pwr with sleep := sleepNoted xlf s.pwr } } := if_pos asleep

theorem noteMove_awake {xlf : Bool} {s : State} (awake : s.pwr.state ≠ .slumber) : noteMove xlf s = s := if_neg awake

section
variable {s : State} (unready : s.clk.xlfOk = false)
include unready

/-- XLF_OK outside SLUMBER: LTICK moves to XLF (R305, R306). -/
theorem xlfOk_awake (awake : s.pwr.state ≠ .slumber) : exec .xlfOk s = .next { s with
    clk := { s.clk with xlfOk := true, ltXlf := true, evt := withBit s.clk.evt 7 true } } := by
  simp [exec, execXlfOk, unready, noteMove, updClk, clkEvt, awake]

/-- XLF_OK in SLUMBER, where XTAL is kept, a sniff runs or an exit does: XTAL runs on (R289, R311). -/
theorem xlfOk_keepsXtal (asleep : s.pwr.state = .slumber) (needed : bit s.clk.xtalCfg 30 = true ∨ s.clk.rfPower = true ∨ s.pwr.move ≠ .none) :
    exec .xlfOk s = .next { s with
      pwr := { s.pwr with sleep := sleepNoted true s.pwr }
      clk := { s.clk with xlfOk := true, ltXlf := true, evt := withBit s.clk.evt 7 true } } := by
  obtain kept | sniffs | exits := needed
  · simp [exec, execXlfOk, unready, noteMove_asleep, updClk, clkEvt, asleep, xtalRest, kept]
  · simp [exec, execXlfOk, unready, noteMove_asleep, updClk, clkEvt, asleep, sniffs]
  · simp [exec, execXlfOk, unready, noteMove_asleep, updClk, clkEvt, asleep, exits]

/-- XLF_OK in SLUMBER turns an XTAL off that nothing else needs (R289, R311). -/
theorem xlfOk_restsXtal (asleep : s.pwr.state = .slumber) (released : bit s.clk.xtalCfg 30 = false) (noSniff : s.clk.rfPower = false)
    (noExit : s.pwr.move = .none) : exec .xlfOk s = .next { s with
      pwr := { s.pwr with sleep := sleepNoted true s.pwr }
      clk := { s.clk with xlfOk := true, ltXlf := true, xtalOn := false, xtalOk := false, evt := withBit s.clk.evt 7 true } } := by
  simp [exec, execXlfOk, unready, noteMove_asleep, updClk, clkEvt, asleep, xtalRest, released, noSniff, noExit]

end

/-- XLF_FAIL: LTICK moves to XTAL, and a measurement is discarded (R305, R306, R307). -/
theorem xlfFail_ready {s : State} (ready : s.clk.xlfOk = true) : ∃ e, exec .xlfFail s = .next (noteMove false { s with
      clk := { s.clk with xlfOk := false, ltXlf := false, xtalOn := true, evt := e } }) ∧
    bit e 6 = true ∧ (slkActive s = true → bit e 9 = true) := by
  obtain ⟨e, lapsed, discarded, others⟩ := slkLapse_frame s
    (updClk s (fun c => clkEvt 6 { c with xlfOk := false, ltXlf := false, xtalOn := true }))
  refine ⟨e, congrArg Host.Outcome.next ((if_pos ready).trans (congrArg (noteMove false) lapsed)), ?_, fun was => discarded was ?_⟩
  · exact (others 6 (by decide) (by decide)).trans (bit_withBit _ 6 6 true (by decide))
  · simp [slkActive, updClk, clkEvt]

/-! ## The crystal load -/

section
variable {s : State}

theorem cloadStep_early (early : s.clk.cloadDue ≠ 0) : exec .cloadStep s = .next s :=
  congrArg Host.Outcome.next (if_pos (bne_iff_ne.2 early))

/-- The crystal load once a step is due (R431). -/
theorem cloadStep_due (due : s.clk.cloadDue = 0) : exec .cloadStep s = .next { s with clk := { s.clk with
    cloadDue := if s.clk.cload = fld s.clk.xtalCfg 5 0 then 0 else 153600
    cload := if s.clk.cload < fld s.clk.xtalCfg 5 0 then s.clk.cload + 1
      else if fld s.clk.xtalCfg 5 0 < s.clk.cload then s.clk.cload - 1 else s.clk.cload } } :=
  congrArg Host.Outcome.next (if_neg (by rw [due]; decide))

/-- With no XTAL the loft sequencer starts it anew; the SYSPLL waits for it (R401). -/
theorem xtalStartRetry_none (released : s.boot.inReset = false) (waits : s.boot.started = false) (noXtal : s.clk.xtalOk = false) :
    exec .xtalStartRetry s = .next { s with clk := { s.clk with xtalOn := true } } := by
  have noStart : sysStart { s.clk with xtalOn := true } = { s.clk with xtalOn := true } := if_neg (by simp [noXtal])
  exact congrArg Host.Outcome.next ((if_pos (by rw [released, waits, noXtal]; rfl)).trans (updClk_eq noStart))

end

/-- Settles O44: what each register write makes of the clocks, the equation of each event, and `slkUpdate_at` for the table's entries. -/
theorem clockCommands : Obligations.ClockCommands := by
  unfold Obligations.ClockCommands
  refine fun s m => ⟨fun data h => ⟨fun bad => ?refused, fun reference changes locked => ?switches⟩,
    fun h normal => ⟨fun works => ?bypassRefused, fun failed => ?bypass⟩, fun h => ?counts, xlfOk_awake, fun unready asleep => ?xlfOk,
    fun ready => ?xlfFail, fun c active counted => ?measures, cloadStep_early, fun due => ?cload, xtalStartRetry_none⟩
  case refused =>
    refine congrArg Host.Outcome.next (busWrite_refused h (effSysCfg_refused ?_))
    rwa [served_clk]
  case switches =>
    rw [← served_clk m .sys s] at changes locked
    obtain ⟨e, switched, others⟩ := effSysCfg_switches reference changes locked
    rw [served_clk] at switched others
    rw [served_lpe] at switched
    exact ⟨_, congrArg Host.Outcome.next (busWrite_reaches h switched), rfl, others 0 (by decide) (by decide), others 1 (by decide) (by decide)⟩
  case bypassRefused =>
    refine congrArg Host.Outcome.next (busWrite_refused h (effBypass_refused ?_ ?_)) <;> rwa [served_clk]
  case bypass =>
    have effect := effBypass_failed (s := served m .sys s) (by rwa [served_clk]) (by rwa [served_clk])
    rw [served_clk, served_stl, served_lpe] at effect
    exact ⟨_, congrArg Host.Outcome.next (busWrite_reaches h effect), rfl, foldl_idx (fun _ (t : Stall) => { t with gate := false }) s.stl⟩
  case counts =>
    have cleared := busWrite_some (f := effClkCntClr 1) h
    rw [effClkCntClr_one, served_clk] at cleared
    exact congrArg Host.Outcome.next cleared
  case xlfOk =>
    by_cases needed : bit s.clk.xtalCfg 30 = true ∨ s.clk.rfPower = true ∨ s.pwr.move ≠ .none
    · refine ⟨_, xlfOk_keepsXtal unready asleep needed, rfl, rfl, fun released noSniff noExit => ?_, fun _ => ⟨rfl, rfl⟩, fun p sleeps => ?_⟩
      · exact absurd needed (by simp [released, noSniff, noExit])
      · exact congrArg (Option.map _) sleeps
    · obtain ⟨released, noSniff, noExit⟩ : bit s.clk.xtalCfg 30 = false ∧ s.clk.rfPower = false ∧ s.pwr.move = .none := by simpa using needed
      exact ⟨_, xlfOk_restsXtal unready asleep released noSniff noExit, rfl, rfl, fun _ _ _ => ⟨rfl, rfl⟩, fun still => absurd still needed,
        fun p sleeps => congrArg (Option.map _) sleeps⟩
  case xlfFail =>
    obtain ⟨e, answer, failed, discarded⟩ := xlfFail_ready ready
    by_cases asleep : s.pwr.state = .slumber
    · rw [noteMove_asleep (by exact asleep)] at answer
      exact ⟨_, answer, rfl, failed, discarded, fun _ p sleeps => congrArg (Option.map _) sleeps, fun awake => absurd asleep awake⟩
    · rw [noteMove_awake (by exact asleep)] at answer
      exact ⟨_, answer, rfl, failed, discarded, fun sleeps => absurd sleeps asleep, fun _ => rfl⟩
  case measures =>
    refine ⟨_, sleepClockMeasurement_ends active counted, rfl, fun learned j below above => ?_, fun fresh j => ?_, fun j lower learned => ?_⟩
    · rw [slkUpdate_at, slkPair_outside _ _ _ _ below above, slkBase_learned _ learned]
    · rw [slkUpdate_at]
      refine slkPair_fresh _ _ _ j ?_ ?_ <;> rw [slkBase_fresh _ fresh]
      · exact fresh j
      · rfl
    · rw [slkUpdate_at, slkBase_learned _ ⟨j, learned⟩]
      exact slkPair_lower _ _ _ lower learned
  case cload =>
    refine ⟨_, cloadStep_due due, rfl, fun there => ?_, fun below => ?_, fun above => ?_⟩
    · simp [there]
    · simp [below, Nat.ne_of_lt below]
    · simp [Nat.lt_asymm above, above, Nat.ne_of_gt above]
      omega

end Sys2Proof.Machine

/-!
Request instant: the refusers of an entry, and the entry that starts (R286, R323 to R325, R328, R330, R335, R418).
-/

namespace Sys2Proof.Machine

open Sys2Proof

/-! ## Bits and fields of PWR_REFUSER and PWR_DETAIL -/

/-- The low field of a word is told by its bits. -/
theorem fld_low_congr {w v : W32} {hi : Nat} (agree : ∀ i, i ≤ hi → bit w i = bit v i) : fld w hi 0 = fld v hi 0 := by
  refine Nat.eq_of_testBit_eq fun i => ?_
  simp only [fld, Nat.shiftRight_zero, Nat.testBit_mod_two_pow]
  by_cases inField : i < hi + 1 - 0
  · exact congrArg (decide (i < hi + 1 - 0) && ·) (agree i (by omega))
  · rw [decide_eq_false inField, Bool.false_and, Bool.false_and]

theorem fld_put_low {v : Nat} (small : v < 16) : fld (put v 0) 3 0 = v := by
  simp only [fld, put, BitVec.toNat_ofNat, Nat.shiftLeft_zero, Nat.shiftRight_zero]
  omega

theorem bit_put_below (v : Nat) {lo i : Nat} (below : i < lo) : bit (put v lo) i = false := by
  simp [bit, put, BitVec.getLsbD_ofNat, Nat.testBit_shiftLeft, Nat.not_le.2 below]

/-- PWR_REFUSER with a bit for every refuser of a list (R324). -/
def withRefusers (l : List Refuser) (w : W32) : W32 := l.foldl (fun w x => withBit w (15 + x.1) true) w

theorem bit_withRefusers (l : List Refuser) (w : W32) {i : Nat} (small : i < 32) :
    bit (withRefusers l w) i = (bit w i || l.any (fun x => 15 + x.1 = i)) := by
  induction l generalizing w with
  | nil => exact (Bool.or_false _).symm
  | cons x l ih =>
    refine (ih (withBit w (15 + x.1) true)).trans ?_
    rw [bit_withBit w _ i true small, List.any_cons]
    by_cases own : 15 + x.1 = i <;> simp [own]

/-! ## Refusers -/

theorem refLpe_code {s : State} {x : Refuser} (holds : refLpe s = some x) : x.1 = 1 := by
  unfold refLpe at holds
  dsimp only at holds
  repeat' split at holds
  all_goals cases holds
  all_goals rfl

theorem refTrx_code {s : State} {x : Refuser} (holds : refTrx s = some x) : x.1 = 2 := by
  unfold refTrx at holds
  dsimp only at holds
  repeat' split at holds
  all_goals cases holds
  all_goals rfl

theorem refCry_code {s : State} {x : Refuser} (holds : refCry s = some x) : x.1 = 3 := by
  unfold refCry at holds
  repeat' split at holds
  all_goals cases holds
  all_goals rfl

theorem refZlk_code {s : State} {x : Refuser} (holds : refZlk s = some x) : x.1 = 4 := by
  unfold refZlk at holds
  split at holds
  all_goals cases holds
  all_goals rfl

theorem refFlash_code {s : State} {x : Refuser} (holds : refFlash s = some x) : x.1 = 5 := by
  obtain ⟨_, -, rfl⟩ := Option.map_eq_some_iff.1 holds
  rfl

theorem refWake_code {s : State} {t : PwrState} {x : Refuser} (holds : refWake s t = some x) : x.1 = 6 := by
  obtain ⟨_, -, rfl⟩ := Option.map_eq_some_iff.1 holds
  rfl

/-- The six refusers by rising code, each if it holds (R323). -/
def sixRefusers (s : State) (t : PwrState) : List (Option Refuser) :=
  [refLpe s, refTrx s, refCry s, refZlk s, refFlash s, refWake s t]

/-- A target state has the last of the six as its refusers (R323). -/
theorem refusers_eq_drop (s : State) (t : PwrState) : ∃ n, refusers s t = ((sixRefusers s t).drop n).filterMap id := by
  cases t with
  | slumber => exact ⟨0, rfl⟩
  | nap => exact ⟨4, rfl⟩
  | run => exact ⟨5, rfl⟩
  | runFast => exact ⟨5, rfl⟩
  | doze => exact ⟨5, rfl⟩

theorem refuser_cases {s : State} {t : PwrState} {x : Refuser} (refuses : x ∈ refusers s t) : refLpe s = some x ∨ refTrx s = some x ∨
    refCry s = some x ∨ refZlk s = some x ∨ refFlash s = some x ∨ refWake s t = some x := by
  obtain ⟨n, own⟩ := refusers_eq_drop s t
  have listed : x ∈ (sixRefusers s t).filterMap id := ((List.drop_sublist n _).filterMap id).subset (own ▸ refuses)
  simpa [sixRefusers, List.mem_filterMap, eq_comm] using listed

/-- The codes of the refusers are 1 to 6 (R323). -/
theorem refuser_code {s : State} {t : PwrState} {x : Refuser} (refuses : x ∈ refusers s t) : 1 ≤ x.1 ∧ x.1 ≤ 6 := by
  obtain lpe | trx | cry | zlk | flash | wake := refuser_cases refuses
  · rw [refLpe_code lpe]; decide
  · rw [refTrx_code trx]; decide
  · rw [refCry_code cry]; decide
  · rw [refZlk_code zlk]; decide
  · rw [refFlash_code flash]; decide
  · rw [refWake_code wake]; decide

/-- An enabled stall refuses SLUMBER with code 1, KIND 1 (R323). -/
theorem refLpe_enabled {s : State} {n : Fin 32} (enabled : s.stl[n].en = true) (usable : pdkUnusable s (pdkOf n) = false) :
    ∃ k : Fin 32, refLpe s = some (1, 1, k.val) := by
  have found : ((idx 32).find? (fun n => s.stl[n].en && !pdkUnusable s (pdkOf n))).isSome = true :=
    List.find?_isSome.2 ⟨n, mem_idx n, by rw [enabled, usable]; rfl⟩
  obtain ⟨k, first⟩ := Option.isSome_iff_exists.1 found
  refine ⟨k, ?_⟩
  unfold refLpe
  dsimp only
  rw [first]

theorem refusers_slumber_enabled {s : State} {n : Fin 32} (enabled : s.stl[n].en = true) (usable : pdkUnusable s (pdkOf n) = false) :
    ∃ (k : Fin 32) (l : List Refuser), refusers s .slumber = (1, 1, k.val) :: l := by
  obtain ⟨k, holds⟩ := refLpe_enabled enabled usable
  refine ⟨k, [refTrx s, refCry s, refZlk s, refFlash s, refWake s .slumber].filterMap id, ?_⟩
  rw [refusers, holds]
  rfl

/-- PRIMARY is the first refuser, and every refuser has its bit (R324). -/
theorem refuserWord_fields {c k i : Nat} {l : List Refuser} (codes : ∀ x ∈ (c, k, i) :: l, 1 ≤ x.1 ∧ x.1 ≤ 6) :
    fld (withRefusers ((c, k, i) :: l) (put c 0)) 3 0 = c ∧
    ∀ x ∈ (c, k, i) :: l, bit (withRefusers ((c, k, i) :: l) (put c 0)) (15 + x.1) = true := by
  refine ⟨?primary, fun x refuses => ?shown⟩
  case primary =>
    obtain ⟨-, small⟩ := codes _ List.mem_cons_self
    refine (fld_low_congr fun j low => ?_).trans (fld_put_low (v := c) (by omega))
    have apart : ((c, k, i) :: l).any (fun x => 15 + x.1 = j) = false := by
      refine List.any_eq_false.2 fun x refuses => ?_
      obtain ⟨least, -⟩ := codes x refuses
      rw [decide_eq_true_eq]
      omega
    rw [bit_withRefusers _ _ (by omega), apart, Bool.or_false]
  case shown =>
    obtain ⟨-, most⟩ := codes x refuses
    have listed : ((c, k, i) :: l).any (fun y => 15 + y.1 = 15 + x.1) = true :=
      List.any_eq_true.2 ⟨x, refuses, decide_eq_true rfl⟩
    rw [bit_withRefusers _ _ (by omega), listed, Bool.or_true]

/-- KIND of PWR_DETAIL (R324). -/
theorem detail_kind {k : Nat} (i : Nat) (small : k < 16) : fld (put i 8 ||| put k 0) 3 0 = k := by
  refine (fld_low_congr fun j low => ?_).trans (fld_put_low small)
  have clear : bit (put i 8) j = false := bit_put_below i (by omega)
  rw [bit] at clear
  rw [bit, BitVec.getLsbD_or, clear, Bool.false_or, bit]

/-! ## The request -/

/-- The entry to a state: it starts unless a refuser holds (R323, R325). -/
def requested (t : PwrState) (s : State) : State := if (refusers s t).isEmpty then startEntry t s else refuse (refusers s t) s

section
variable {s : State} {t : PwrState} {a : Mid} (armed : s.pwr.armed = some (t, a))
include armed

/-- REQUEST_INSTANT of an armed request: a test stops for NAP and SLUMBER (R418, R420). -/
theorem requestInstant_armed : exec .requestInstant s =
    .next (requested t (if t = .nap || t = .slumber then bistAbort s else s)) := by
  refine congrArg Host.Outcome.next ?_
  rw [armed]
  rfl

/-- Where no test runs, or for DOZE, the request meets the state as it is. -/
theorem requestInstant_untested (untested : t = .doze ∨ s.bist.run = none) : exec .requestInstant s = .next (requested t s) := by
  rw [requestInstant_armed armed]
  obtain rfl | idle := untested
  · rfl
  · have noTest : bistAbort s = s := by rw [bistAbort, idle]
    rw [noTest, ite_self]

theorem requestInstant_starts (untested : t = .doze ∨ s.bist.run = none) (free : refusers s t = []) :
    exec .requestInstant s = .next (startEntry t s) := by
  rw [requestInstant_untested armed untested, requested, free]
  rfl

/-- A refused entry (R324). -/
theorem requestInstant_refused {c k i : Nat} {l : List Refuser} (untested : t = .doze ∨ s.bist.run = none)
    (refuses : refusers s t = (c, k, i) :: l) : exec .requestInstant s = .next { s with pwr := { s.pwr with
      armed := none, refCnt := satInc s.pwr.refCnt 65535, evt := withBit s.pwr.evt 0 true
      refuser := withRefusers ((c, k, i) :: l) (put c 0), detail := put i 8 ||| put k 0 } } := by
  rw [requestInstant_untested armed untested, requested, refuses]
  rfl

end

/-- The state once a running test has been stopped with RESULT = ABORTED (R418, R420). -/
def testAborted (r : BistRun) (s : State) : State :=
  { s with bist := { s.bist with run := none, result := 5, slice := r.cur, evt := withBit s.bist.evt 0 true } }

theorem bistAbort_unfailed {s : State} {r : BistRun} (runs : s.bist.run = some r) (unfailed : r.result ≠ some 2) :
    bistAbort s = testAborted r s := by
  rw [bistAbort, runs]
  dsimp only
  rw [if_neg unfailed]
  rfl

/-- The request for NAP or SLUMBER is judged in the state that the stopped test leaves (R418). -/
theorem requestInstant_aborts {s : State} {t : PwrState} {a : Mid} {r : BistRun} (armed : s.pwr.armed = some (t, a))
    (stops : t = .nap ∨ t = .slumber) (runs : s.bist.run = some r) (unfailed : r.result ≠ some 2) :
    exec .requestInstant s = exec .requestInstant (testAborted r s) := by
  have stopped : (t = .nap || t = .slumber : Bool) = true := by simpa using stops
  have after : exec .requestInstant (testAborted r s) = .next (requested t (testAborted r s)) := requestInstant_untested armed (.inr rfl)
  rw [after, requestInstant_armed armed, if_pos stopped, bistAbort_unfailed runs unfailed]

/-- What latching the pads changes: the image of every pad, FAULT_N, and the free values drawn for open levels (R335). -/
theorem latchPads_frame (s : State) : ∃ D L C, latchPads s = { s with
    free := s.free + 24, pio := { s.pio with heldDrive := D, heldLevel := L, heldCfg := C, hold := 7 }
    pwr := { s.pwr with faultHeld := some (faultLow s) } } := ⟨_, _, _, rfl⟩

/-- The entry to SLUMBER starts: the ports are cut off, and the pads and FAULT_N are latched (R325, R328, R335). -/
theorem startEntry_slumber (s : State) : ∃ D L C, startEntry .slumber s = { s with
    free := s.free + 24, pio := { s.pio with heldDrive := D, heldLevel := L, heldCfg := C, hold := 7 }
    pwr := { s.pwr with armed := none, move := .entering .slumber s.pwr.state, faultHeld := some (faultLow s) }
    dli := (cutPorts s).dli, uart := (cutPorts s).uart, i2c := (cutPorts s).i2c
    zlk := { s.zlk with sent := if zlkDe s then [] else s.zlk.sent } } := by
  obtain ⟨D, L, C, latched⟩ := latchPads_frame (cutPorts { s with pwr := { s.pwr with armed := none, move := .entering .slumber s.pwr.state } })
  exact ⟨D, L, C, latched⟩

/-- Settles O46: `requestInstant_untested` with the refusers that hold, `refuserWord_fields` for PWR_REFUSER, and `bistAbort_unfailed` for
a test that runs. -/
theorem requestInstant : Obligations.RequestInstant := by
  unfold Obligations.RequestInstant
  refine fun s a => ⟨fun armed awake => ?doze, fun armed idle noFlash noWake => ?nap, fun armed idle free => ?slumber,
    fun tt c k i l armed idle refuses => ?refused, fun n armed idle enabled usable => ?stall, fun r runs unfailed armed => ?tested⟩
  case doze => exact requestInstant_starts armed (.inl rfl) (congrArg (fun w => [w].filterMap id) awake)
  case nap => exact requestInstant_starts armed (.inr idle) (by rw [refusers, noFlash, noWake]; rfl)
  case slumber =>
    obtain ⟨D, L, C, entry⟩ := startEntry_slumber s
    exact ⟨_, (requestInstant_starts armed (.inr idle) free).trans (congrArg Host.Outcome.next entry), rfl, rfl, rfl,
      foldl_idx (fun _ (q : Uart) => { q with cur := none }) s.uart,
      foldl_idx (fun _ (q : I2c) => { q with busy := false, held := false, out := [], more := [] }) s.i2c⟩
  case refused =>
    obtain ⟨primary, shown⟩ := refuserWord_fields fun x listed => refuser_code (refuses ▸ listed)
    exact ⟨_, requestInstant_refused armed (.inr idle) refuses, rfl, primary, shown⟩
  case stall =>
    obtain ⟨k, l, refuses⟩ := refusers_slumber_enabled enabled usable
    obtain ⟨primary, -⟩ := refuserWord_fields fun x listed => refuser_code (refuses ▸ listed)
    exact ⟨_, requestInstant_refused armed (.inr idle) refuses, rfl, rfl, rfl, rfl, primary, detail_kind k.val (by decide)⟩
  case tested =>
    obtain armed | armed := armed
    · exact requestInstant_aborts armed (.inl rfl) runs unfailed
    · exact requestInstant_aborts armed (.inr rfl) runs unfailed

end Sys2Proof.Machine

/-!
Wake events: what an event sets, and the exit or the abort that it brings (R325, R327, R329, R330, R332).
-/

namespace Sys2Proof.Machine

open Sys2Proof

/-- PWR_LASTWAKE of an exit: ABORT is 0 (R327, R341). -/
theorem lastWake_exit (code : Nat) (prior : PwrState) (p : Pwr) :
    (lastWake code prior false p).lastWake = put 1 31 ||| put (pwrNum prior) 8 ||| put code 0 :=
  congrArg (· ||| put (pwrNum prior) 8 ||| put code 0) BitVec.or_zero

/-! ## The exit and the abort -/

/-- The start of an exit changes the power controller and the clocks, but no PWR_WAKE_PEND bit (R327, R329, R330). -/
theorem startExit_frame (code : Nat) (s : State) : ∃ P C, startExit code s = { s with pwr := P, clk := C } ∧ P.wakePend = s.pwr.wakePend := by
  unfold startExit
  split
  · exact ⟨_, _, rfl, rfl⟩
  · exact ⟨_, s.clk, rfl, rfl⟩
  · exact ⟨_, _, rfl, rfl⟩
  · exact ⟨s.pwr, s.clk, rfl, rfl⟩

/-- An abort changes the power controller and the latches, but no PWR_WAKE_PEND bit (R325). -/
theorem abortEntry_frame (code : Nat) (s : State) : ∃ P Q, abortEntry code s = { s with pwr := P, pio := Q } ∧ P.wakePend = s.pwr.wakePend := by
  unfold abortEntry
  split
  · exact ⟨_, _, rfl, rfl⟩
  · exact ⟨s.pwr, s.pio, rfl, rfl⟩

section
variable {s : State} (code : Nat)

/-- An entry that is aborted (R325). -/
theorem abortEntry_entering {target prior : PwrState} (enters : s.pwr.move = .entering target prior) : abortEntry code s = { s with
    pwr := lastWake code prior true (pwrEvt 1 { s.pwr with move := .none, faultHeld := none, abortCnt := satInc s.pwr.abortCnt 65535 })
    pio := { s.pio with hold := 0 } } := by
  simp only [abortEntry, enters]

/-- DOZE is left at once, for the state that it was entered from (R330). -/
theorem startExit_doze (dozes : s.pwr.state = .doze) : startExit code s = { s with
    pwr := lastWake code .doze false { s.pwr with state := s.pwr.dozeFrom }
    clk := { s.clk with fast := s.pwr.dozeFrom = .runFast && !s.clk.bypass } } := by
  simp only [startExit, dozes, updClk, updPwr]

/-- The exit from NAP leads to RUN (R327). -/
theorem startExit_nap (naps : s.pwr.state = .nap) : startExit code s =
    { s with pwr := lastWake code .nap false { s.pwr with move := .exiting .run } } := by
  simp only [startExit, naps, updPwr]

/-- The exit from SLUMBER starts XTAL (R329). -/
theorem startExit_slumber (sleeps : s.pwr.state = .slumber) : startExit code s = { s with
    pwr := lastWake code .slumber false { s.pwr with move := .exiting (if s.pwr.exitNap then .nap else .run), tadj := true }
    clk := xtalStart s.clk } := by
  simp only [startExit, sleeps, updClk, updPwr]

end

/-- XTAL is on once it is started, whether or not the SYSPLL can start yet (R289). -/
theorem xtalStart_on (c : Clk) : (xtalStart c).xtalOn = true := by
  unfold xtalStart sysStart
  split <;> rfl

/-! ## The event -/

/-- The power controller once an event of a source has been recorded in PWR_WAKE_PEND (R332). -/
def pended (src : WakeSrc) (p : Pwr) : Pwr := { p with wakePend := withBit p.wakePend (wakeCode src) true }

/-- A source whose event shows has a bit in PWR_WAKE_PEND (R332). -/
theorem wakeCode_of_shown {s : State} {src : WakeSrc} (shown : wakeShown s src = true) : wakeCode src ≤ 6 := by
  cases src with
  | fence | groomReq => exact absurd shown Bool.false_ne_true
  | timer | sniff | pio | hostIrq | groomIrq | dbg => decide

theorem bit_pended {src : WakeSrc} (listed : wakeCode src ≤ 6) (p : Pwr) : bit (pended src p).wakePend (wakeCode src) = true :=
  (bit_withBit p.wakePend _ _ true (by omega)).trans (if_pos rfl)

section
variable {s : State} {src : WakeSrc} (listed : wakeCode src ≤ 6)
include listed

/-- Outside an entry and an exit an event is recorded, and starts an exit if its source wakes (R332). -/
theorem wake_still (still : s.pwr.move = .none) : wake src s =
    if wakes s.pwr src s.pwr.state then startExit (wakeCode src) (updPwr s (pended src)) else updPwr s (pended src) := by
  simp only [wake, if_pos listed, updPwr_pwr, still]
  rfl

/-- In an entry an event is recorded, and aborts it if its source wakes from the target state (R325, R332). -/
theorem wake_entering {target prior : PwrState} (enters : s.pwr.move = .entering target prior) : wake src s =
    if wakes s.pwr src target then abortEntry (wakeCode src) (updPwr s (pended src)) else updPwr s (pended src) := by
  simp only [wake, if_pos listed, updPwr_pwr, enters]
  rfl

/-- In an exit, and while the forward bias settles, an event is recorded only (R332). -/
theorem wake_moving (busy : s.pwr.move ≠ .none) (noEntry : ∀ target prior, s.pwr.move ≠ .entering target prior) :
    wake src s = updPwr s (pended src) := by
  simp only [wake, if_pos listed, updPwr_pwr]
  cases moves : s.pwr.move with
  | none => exact absurd moves busy
  | entering target prior => exact absurd moves (noEntry target prior)
  | exiting _ => rfl
  | biasing => rfl

/-- Every event sets its PWR_WAKE_PEND bit, and changes no more than the power controller, the latches and the clocks (R332). -/
theorem wake_frame : ∃ P Q C, wake src s = { s with pwr := P, pio := Q, clk := C } ∧ bit P.wakePend (wakeCode src) = true := by
  have recorded := bit_pended listed s.pwr
  cases moves : s.pwr.move with
  | none =>
    rw [wake_still listed moves]
    obtain ⟨P, C, exits, same⟩ := startExit_frame (wakeCode src) (updPwr s (pended src))
    split
    · exact ⟨P, s.pio, C, exits, same ▸ recorded⟩
    · exact ⟨_, s.pio, s.clk, rfl, recorded⟩
  | entering target prior =>
    rw [wake_entering listed moves]
    obtain ⟨P, Q, aborts, same⟩ := abortEntry_frame (wakeCode src) (updPwr s (pended src))
    split
    · exact ⟨P, Q, s.clk, aborts, same ▸ recorded⟩
    · exact ⟨_, s.pio, s.clk, rfl, recorded⟩
  | exiting _ =>
    exact ⟨_, s.pio, s.clk, wake_moving listed (by simp [moves]) (by simp [moves]), recorded⟩
  | biasing =>
    exact ⟨_, s.pio, s.clk, wake_moving listed (by simp [moves]) (by simp [moves]), recorded⟩

end

theorem wakeEvent_shown {s : State} {src : WakeSrc} (shown : wakeShown s src = true) : exec (.wakeEvent src) s = .next (wake src s) :=
  congrArg Host.Outcome.next (if_pos shown)

/-- TIMER where PWR_LTIME equals PWR_TIMER_CMP is that source's event (R332). -/
theorem timer_due {s : State} (due : s.pwr.ltime = s.pwr.timerCmp) : exec .timer s = .next (wake .timer s) :=
  congrArg Host.Outcome.next (if_pos due)

/-- Settles O48: `wake_frame` for every event, and by what the power controller is moving through `wake_still` with the exit, or
`wake_entering` with the abort. -/
theorem wakeEvents : Obligations.WakeEvents := by
  unfold Obligations.WakeEvents
  refine fun s => ⟨fun src shown => ?event, fun due => ?timer, fun early => congrArg Host.Outcome.next (if_neg early)⟩
  case event =>
    have listed := wakeCode_of_shown shown
    obtain ⟨P, Q, C, woken, recorded⟩ := wake_frame (s := s) listed
    refine ⟨wake src s, wakeEvent_shown shown, by rw [woken], by rwa [woken], fun still asleep => ?asleep, fun still wakes dozes => ?doze,
      fun still wakes naps => ?nap, fun still wakes sleeps => ?slumber, fun target prior enters wakes => ?abort⟩
    case asleep => rw [wake_still listed still, asleep]; rfl
    case doze =>
      rw [wake_still listed still, dozes, if_pos wakes, startExit_doze _ (by exact dozes)]
      exact ⟨rfl, still, lastWake_exit .., rfl⟩
    case nap =>
      rw [wake_still listed still, naps, if_pos wakes, startExit_nap _ (by exact naps)]
      exact ⟨naps, rfl, lastWake_exit ..⟩
    case slumber =>
      rw [wake_still listed still, sleeps, if_pos wakes, startExit_slumber _ (by exact sleeps)]
      exact ⟨sleeps, rfl, rfl, xtalStart_on _, lastWake_exit ..⟩
    case abort =>
      rw [wake_entering listed enters, if_pos wakes, abortEntry_entering _ (by exact enters)]
      exact ⟨rfl, rfl, rfl, bit_withBit1 _, rfl, rfl, rfl⟩
  case timer =>
    obtain ⟨P, Q, C, woken, recorded⟩ := wake_frame (s := s) (src := .timer) (by decide)
    have event := wakeEvent_shown (s := s) (src := .timer) (decide_eq_true due)
    exact ⟨(timer_due due).trans event.symm, _, (timer_due due).trans (congrArg Host.Outcome.next woken), recorded⟩

end Sys2Proof.Machine

/-!
Power requests: which are refused, carried out and armed (R322, R331, R338, R341).
-/

namespace Sys2Proof.Machine

open Sys2Proof

/-! ## What a request asks -/

/-- The data of a request for SLUMBER: TARGET and EXIT (R341). -/
theorem slumberReq_fields (e : Bool) : pwrOfNum (fld (put 4 0 ||| putB e 8) 2 0) = some .slumber ∧
    (put 4 0 ||| putB e 8) &&& 0x107 = put 4 0 ||| putB e 8 ∧ bit (put 4 0 ||| putB e 8) 8 = e := by
  cases e <;> decide

/-! ## The table of requests -/

/-- A request by a master that may make none, or while BUSY, is refused (R322). -/
theorem effPwrReq_barred {m : Mid} (d : W32) {s : State} (barred : (m ≠ .hostS ∧ m ≠ .groom) ∨ s.pwr.move ≠ .none) :
    effPwrReq m d s = none := by
  refine if_pos ?_
  obtain ⟨notHost, notGroom⟩ | busy := barred
  · simp [notHost, notGroom]
  · simp [busy]

section
variable {s : State} {p : Pwr} {d : W32} (own : s.pwr = p) (still : p.move = .none)
include own still

/-- RUN by the master that armed a request disarms it (R322). -/
theorem effPwrReq_disarms {m : Mid} {t : PwrState} (asks : pwrOfNum (fld d 2 0) = some .run) (allowed : m = .hostS ∨ m = .groom)
    (armed : p.armed = some (t, m)) : effPwrReq m d s = some { s with pwr := { p with armed := none, req := d &&& 0x107 } } := by
  subst own
  obtain rfl | rfl := allowed
  · simp [effPwrReq, still, armed, asks, updPwr]
  · simp [effPwrReq, still, armed, asks, updPwr]

variable (unarmed : p.armed = none)
include unarmed

/-- RUN-FAST biases first, unless the die is at 110 °C or more (R331). -/
theorem effPwrReq_runFast (asks : pwrOfNum (fld d 2 0) = some .runFast) (runs : p.state = .run) : effPwrReq .hostS d s =
    if 7040 ≤ s.sns.tempData.toInt then none else some { s with pwr := { p with move := .biasing, req := d &&& 0x107 } } := by
  subst own
  simp [effPwrReq, still, unarmed, runs, asks, updPwr]

/-- RUN leaves RUN-FAST at once (R331). -/
theorem effPwrReq_leavesFast (asks : pwrOfNum (fld d 2 0) = some .run) (fast : p.state = .runFast) : effPwrReq .hostS d s =
    some { s with pwr := { p with state := .run, req := d &&& 0x107 }, clk := { s.clk with fast := false } } := by
  subst own
  simp [effPwrReq, still, unarmed, fast, asks, updPwr, updClk]

/-- RUN leaves NAP as a wake of source GROOMREQ does (R322). -/
theorem effPwrReq_leavesNap (asks : pwrOfNum (fld d 2 0) = some .run) (naps : p.state = .nap) : effPwrReq .groom d s =
    some { s with pwr := lastWake 8 .nap false { p with req := d &&& 0x107, move := .exiting .run } } := by
  subst own
  have judged : effPwrReq .groom d s = some (startExit 8 (updPwr s (fun p => { p with req := d &&& 0x107 }))) := by
    simp [effPwrReq, still, unarmed, naps, asks]
  exact judged.trans (congrArg some (startExit_nap 8 naps))

/-- DOZE and NAP arm (R322). -/
theorem effPwrReq_arms {t : PwrState} (asks : pwrOfNum (fld d 2 0) = some t) (dozeOrNap : t = .doze ∨ t = .nap)
    (awake : p.state = .run ∨ p.state = .runFast) : effPwrReq .hostS d s = some (armReq t .hostS d s) := by
  subst own
  obtain rfl | rfl := dozeOrNap
  all_goals
    obtain runs | runs := awake
    all_goals simp [effPwrReq, still, unarmed, asks, runs]

/-- SLUMBER arms where an enabled source wakes from it (R322). -/
theorem effPwrReq_slumber {m : Mid} (asks : pwrOfNum (fld d 2 0) = some .slumber)
    (may : (m = .hostS ∧ (p.state = .run ∨ p.state = .runFast)) ∨ (m = .groom ∧ p.state = .nap)) :
    effPwrReq m d s = if slumberWakes p then some (armReq .slumber m d s) else none := by
  subst own
  obtain ⟨rfl, runs | runs⟩ | ⟨rfl, runs⟩ := may
  all_goals simp [effPwrReq, still, unarmed, asks, runs]

end

/-- A request that is armed (R322). -/
theorem armReq_eq {s : State} {p : Pwr} (own : s.pwr = p) (t : PwrState) (m : Mid) (d : W32) :
    armReq t m d s = { s with pwr := { p with armed := some (t, m), req := d &&& 0x107, exitNap := bit d 8 } } := by
  subst own
  rfl

/-! ## The write of PWR_REQ -/

section
variable {s : State} {m : Mid} {d : W32} (h : reaches m .pwr 0x40004004 d s = true)
include h

theorem pwrReq_carried {t : State} (carried : effPwrReq m d (served m .pwr s) = some t) : pwrReq m d s = .next (okay m 0 t) :=
  congrArg Host.Outcome.next (busWrite_reaches h carried)

theorem pwrReq_refused (refused : effPwrReq m d (served m .pwr s) = none) :
    pwrReq m d s = .next (respond (served m .pwr s) m (BitVec.ofNat 32 0x40004004) .write .slverr 0) :=
  congrArg Host.Outcome.next (busWrite_refused h refused)

end

/-- The forward bias has settled: the divisor changes, and a die of 115 °C or more drops RUN-FAST at once (R331, R338). -/
theorem forwardBiasSettled_biasing {s : State} (biases : s.pwr.move = .biasing) : exec .forwardBiasSettled s =
    .next (fastDrop { s with pwr := { s.pwr with move := .none, state := .runFast }, clk := { s.clk with fast := !s.clk.bypass } }) :=
  congrArg Host.Outcome.next (if_pos biases)

theorem effPwrCntClr_one (s : State) : effPwrCntClr 1 s = { s with pwr := { s.pwr with refCnt := 0, abortCnt := 0 } } := if_pos (by decide)

/-- Settles O45: `pwrReq_carried` and `pwrReq_refused` with what the table makes of each request, and `forwardBiasSettled_biasing`. -/
theorem powerRequests : Obligations.PowerRequests := by
  unfold Obligations.PowerRequests
  refine fun s m => ⟨fun barred => ?barred, fun h still unarmed runs => ?runFast, fun biases => ?biased, fun h still unarmed fast => ?leavesFast,
    fun h still unarmed naps => ?leavesNap, fun t h allowed still armed => ?disarms, fun still unarmed awake => ⟨fun h => ?doze, fun h => ?nap⟩,
    fun e h still unarmed may => ?slumber, fun h => ?counts⟩
  case barred =>
    have refused (d : W32) (h : reaches m .pwr 0x40004004 d s = true) :=
      pwrReq_refused h (effPwrReq_barred d (barred.imp_right fun busy => by rwa [served_pwr]))
    simp only [List.forall_mem_cons, List.not_mem_nil, false_imp_iff, implies_true, and_true]
    exact ⟨refused 1, refused 0, refused 2, refused 3, refused 4, refused 0x104⟩
  case runFast =>
    have judged := effPwrReq_runFast (d := 1) (served_pwr .hostS .pwr s) still unarmed rfl runs
    rw [served_sns] at judged
    exact ⟨fun cool => pwrReq_carried h (judged.trans (if_neg (by omega))), fun hot => pwrReq_refused h (judged.trans (if_pos hot))⟩
  case biased =>
    rw [forwardBiasSettled_biasing biases]
    refine ⟨fun cool => congrArg Host.Outcome.next (if_neg ?_), fun hot => congrArg Host.Outcome.next (if_pos ?_)⟩
    · simp [cool]
    · simp [hot]
  case leavesFast =>
    have carried := effPwrReq_leavesFast (d := 0) (served_pwr .hostS .pwr s) still unarmed rfl fast
    rw [served_clk] at carried
    exact pwrReq_carried h carried
  case leavesNap => exact pwrReq_carried h (effPwrReq_leavesNap (served_pwr .groom .pwr s) still unarmed rfl naps)
  case disarms => exact pwrReq_carried h (effPwrReq_disarms (served_pwr m .pwr s) still rfl allowed armed)
  case doze =>
    have arms := effPwrReq_arms (d := 2) (served_pwr .hostS .pwr s) still unarmed rfl (.inl rfl) awake
    rw [armReq_eq (served_pwr .hostS .pwr s)] at arms
    exact pwrReq_carried h arms
  case nap =>
    have arms := effPwrReq_arms (d := 3) (served_pwr .hostS .pwr s) still unarmed rfl (.inr rfl) awake
    rw [armReq_eq (served_pwr .hostS .pwr s)] at arms
    exact pwrReq_carried h arms
  case slumber =>
    obtain ⟨asks, req, exit⟩ := slumberReq_fields e
    have judged := effPwrReq_slumber (served_pwr m .pwr s) still unarmed asks may
    rw [armReq_eq (served_pwr m .pwr s), req, exit] at judged
    exact ⟨fun wakes => pwrReq_carried h (judged.trans (if_pos wakes)), fun none => pwrReq_refused h (judged.trans (if_neg (by simp [none])))⟩
  case counts =>
    have cleared := busWrite_some (f := effPwrCntClr 1) h
    rw [effPwrCntClr_one, served_pwr] at cleared
    exact congrArg Host.Outcome.next cleared

end Sys2Proof.Machine

/-!
Domains: what powering domains down and up again changes (R96, R317, R319 to R321, R338).
-/

namespace Sys2Proof.Machine

open Sys2Proof

theorem domBit_injective {d e : Domain} (same : domBit d = domBit e) : d = e := by
  cases d with
  | sram k => cases e <;> grind [domBit]
  | paddock p => cases e <;> grind [domBit]
  | _ => cases e <;> grind [domBit]

/-- Clearing a bit that is clear changes nothing. -/
theorem withBit_clear {w : W32} {i : Nat} (clear : bit w i = false) : withBit w i false = w := by
  refine BitVec.eq_of_getLsbD_eq fun j inRange => ?_
  refine (bit_withBit w i j false inRange).trans ?_
  split
  · rename_i same
    exact (same ▸ clear).symm
  · rfl

/-! ## Domains that go down -/

/-- No frame is on air. -/
def offAir (s : State) : Prop := ∀ x, s.trx.tx = some x → x.stage ≠ .onAir

/-- The domains `l` go down, and no others (R96, R317, R319). Only SENSE, RADIO and CRYPTO have work in progress to lose (`plain`), the
air rules are charged only for a frame on air, and SRAM banks in retention keep their contents. -/
structure PowersDown (l : List Domain) (s t : State) : Prop where
  pwr : t.pwr = { s.pwr with ready := t.pwr.ready, domOn := t.pwr.domOn }
  off : ∀ d ∈ l, domReady t d = false
  kept : ∀ d, d ∉ l → domReady t d = domReady s d
  rest : t = { s with pwr := t.pwr, mem := t.mem, sns := t.sns, trx := t.trx, rgy := t.rgy, clk := t.clk, cry := t.cry, pkv := t.pkv }
  sys : t.clk.sys = s.clk.sys
  air : offAir s → offAir t ∧ t.rgy = s.rgy
  plain : .sense ∉ l → .radio ∉ l → .crypto ∉ l → t = { s with pwr := t.pwr, mem := t.mem }
  retained : (∀ k, .sram k ∈ l → bit s.pwr.sramRet k.val = true) → t.mem = s.mem

namespace PowersDown

theorem refl (s : State) : PowersDown [] s s where
  pwr := rfl
  off _ inNil := nomatch inNil
  kept _ _ := rfl
  rest := rfl
  sys := rfl
  air quiet := ⟨quiet, rfl⟩
  plain _ _ _ := rfl
  retained _ := rfl

theorem trans {l k : List Domain} {s t u : State} (first : PowersDown l s t) (second : PowersDown k t u) : PowersDown (l ++ k) s u where
  pwr := second.pwr.trans (by rw [first.pwr])
  off d listed := by
    by_cases later : d ∈ k
    · exact second.off d later
    · exact (second.kept d later).trans (first.off d ((List.mem_append.1 listed).resolve_right later))
  kept d unlisted := by
    obtain ⟨notFirst, notSecond⟩ := not_or.1 (mt List.mem_append.2 unlisted)
    exact (second.kept d notSecond).trans (first.kept d notFirst)
  rest := second.rest.trans (by rw [first.rest])
  sys := second.sys.trans first.sys
  air quiet := by
    obtain ⟨still, same⟩ := first.air quiet
    exact (second.air still).imp_right (·.trans same)
  plain sense radio crypto := by
    simp only [List.mem_append, not_or] at sense radio crypto
    exact (second.plain sense.2 radio.2 crypto.2).trans (by rw [first.plain sense.1 radio.1 crypto.1])
  retained keeps := by
    have same : t.pwr.sramRet = s.pwr.sramRet := by rw [first.pwr]
    refine (second.retained fun k listed => ?_).trans (first.retained fun k listed => keeps k (List.mem_append_left _ listed))
    exact same ▸ keeps k (List.mem_append_right _ listed)

theorem foldl {ι : Type} {f : State → ι → State} {dom : ι → Domain} (each : ∀ s i, PowersDown [dom i] s (f s i)) (l : List ι) (s : State) :
    PowersDown (l.map dom) s (l.foldl f s) := by
  induction l generalizing s with
  | nil => exact refl s
  | cons i l ih => exact (each s i).trans (ih (f s i))

end PowersDown

/-- The power controller once a domain is off. -/
def unready (d : Domain) (p : Pwr) : Pwr := { p with ready := withBit p.ready (domBit d) false }

theorem unready_bit (d e : Domain) (p : Pwr) : bit (unready d p).ready (domBit e) = if d = e then false else bit p.ready (domBit e) := by
  refine (bit_withBit p.ready _ _ false (domBit_lt e)).trans ?_
  by_cases same : d = e
  · rw [if_pos (congrArg domBit same), if_pos same]
  · rw [if_neg (mt domBit_injective same), if_neg same]

section
variable {d : Domain} {s t : State}

/-- One domain is off now. -/
theorem PowersDown.one (pwr : t.pwr = unready d s.pwr)
    (rest : t = { s with pwr := t.pwr, mem := t.mem, sns := t.sns, trx := t.trx, rgy := t.rgy, clk := t.clk, cry := t.cry, pkv := t.pkv })
    (sys : t.clk.sys = s.clk.sys) (air : offAir s → offAir t ∧ t.rgy = s.rgy)
    (plain : .sense ≠ d → .radio ≠ d → .crypto ≠ d → t = { s with pwr := t.pwr, mem := t.mem })
    (retained : (∀ k, d = .sram k → bit s.pwr.sramRet k.val = true) → t.mem = s.mem) : PowersDown [d] s t where
  pwr := by rw [pwr]; rfl
  off e listed := by rw [domReady, pwr, unready_bit, if_pos (List.mem_singleton.1 listed).symm]
  kept e unlisted := by rw [domReady, pwr, unready_bit, if_neg (fun same => unlisted (List.mem_singleton.2 same.symm)), domReady]
  rest := rest
  sys := sys
  air := air
  plain sense radio crypto := plain (mt List.mem_singleton.2 sense) (mt List.mem_singleton.2 radio) (mt List.mem_singleton.2 crypto)
  retained keeps := retained fun k own => keeps k (List.mem_singleton.2 own.symm)

/-- One domain is off now, which had no work in progress. -/
theorem PowersDown.onePlain {M : Mem} (retained : (∀ k, d = .sram k → bit s.pwr.sramRet k.val = true) → M = s.mem) :
    PowersDown [d] s { s with pwr := unready d s.pwr, mem := M } :=
  .one rfl rfl rfl (fun quiet => ⟨fun x inHand => quiet x inHand, rfl⟩) (fun _ _ _ => rfl) retained

end

/-- What a radio that is powered down loses: the RFPLL, and the attempt in hand, whose octets sent are charged (R214, R319). -/
theorem radioDrop_frame (s : State) : ∃ T R, radioDrop s = { s with trx := T, rgy := R, clk := rfOff s.clk } ∧ T.tx = none ∧
    (offAir s → R = s.rgy) := by
  unfold radioDrop
  cases inHand : s.trx.tx with
  | none => exact ⟨_, _, rfl, rfl, fun _ => rfl⟩
  | some x =>
    dsimp only
    split
    · rename_i onAir
      have charged : ∃ R, cutOff x s = { s with rgy := R } := by
        unfold cutOff
        split
        · split
          · exact ⟨_, rfl⟩
          · exact (charge_frame _ _ s).imp fun R charges => charges.1
        · exact ⟨_, rfl⟩
      obtain ⟨R, charges⟩ := charged
      rw [charges]
      exact ⟨_, R, rfl, rfl, fun quiet => absurd onAir (quiet x inHand)⟩
    · exact ⟨_, _, rfl, rfl, fun _ => rfl⟩

section
variable {d : Domain} {keep : Bool} {s : State}

/-- A domain other than SENSE is powered down; a bank that is not to be kept loses its contents (R317, R319). -/
theorem domDown_eq (notSense : d ≠ .sense) : ∃ M, domDown s d keep = { s with pwr := unready d s.pwr, mem := M } ∧
    ((∀ k, d = .sram k → keep = true) → M = s.mem) := by
  cases d with
  | sense => exact absurd rfl notSense
  | sram k =>
    cases keep with
    | true => exact ⟨_, rfl, fun _ => rfl⟩
    | false => exact ⟨_, rfl, fun kept => nomatch kept k rfl⟩
  | flash | radio | crypto | paddock _ | host | groom | yard => exact ⟨_, rfl, fun _ => rfl⟩

/-- A bank in retention is powered down with its contents kept. -/
def spares (d : Domain) (keep : Bool) (s : State) : Prop := ∀ k, d = .sram k → bit s.pwr.sramRet k.val = true → keep = true

/-- SENSE is powered down with its work in progress (R96). -/
theorem domDown_sense : domDown s .sense keep = { s with pwr := unready .sense s.pwr, sns := senseStop s.sns } := rfl

theorem domDown_powersDown (retains : spares d keep s) : PowersDown [d] s (domDown s d keep) := by
  by_cases sense : d = .sense
  · subst sense
    rw [domDown_sense]
    exact .one rfl rfl rfl (fun quiet => ⟨fun x inHand => quiet x inHand, rfl⟩) (fun other => absurd rfl other) (fun _ => rfl)
  · obtain ⟨M, down, same⟩ := domDown_eq (keep := keep) (s := s) sense
    rw [down]
    exact .onePlain fun keeps => same fun k own => retains k own (keeps k own)

/-- A domain that is off already stays off; a bank in retention that is not to be kept loses its contents (R317, R319). -/
theorem retire_unready (down : domReady s d = false) : ∃ M, retire d keep s = { s with mem := M } ∧
    ((∀ k, d = .sram k → keep = true) → M = s.mem) := by
  unfold retire
  simp only [down, Bool.not_false, if_true]
  cases d with
  | sram k =>
    cases keep with
    | true => exact ⟨_, rfl, fun _ => rfl⟩
    | false =>
      dsimp only
      split
      · exact ⟨_, rfl, fun kept => nomatch kept k rfl⟩
      · exact ⟨_, rfl, fun _ => rfl⟩
  | flash | sense | radio | crypto | paddock _ | host | groom | yard => exact ⟨_, rfl, fun _ => rfl⟩

theorem retire_powersDown (retains : spares d keep s) : PowersDown [d] s (retire d keep s) := by
  cases ready : domReady s d with
  | false =>
    obtain ⟨M, down, same⟩ := retire_unready (keep := keep) ready
    have still : unready d s.pwr = s.pwr := congrArg (fun w => { s.pwr with ready := w }) (withBit_clear ready)
    have asOne : retire d keep s = { s with pwr := unready d s.pwr, mem := M } := by rw [down, still]
    rw [asOne]
    exact .onePlain fun keeps => same fun k own => retains k own (keeps k own)
  | true =>
    unfold retire
    simp only [ready, Bool.not_true, Bool.false_eq_true, if_false]
    cases d with
    | radio =>
      obtain ⟨T, R, drop, none, charged⟩ := radioDrop_frame s
      dsimp only
      rw [drop]
      refine .one rfl rfl rfl (fun quiet => ⟨fun x inHand => ?_, charged quiet⟩) (fun _ other => absurd rfl other) (fun _ => rfl)
      exact nomatch none.symm.trans inHand
    | crypto => exact .one rfl rfl rfl (fun quiet => ⟨fun x inHand => quiet x inHand, rfl⟩) (fun _ _ other => absurd rfl other) (fun _ => rfl)
    | flash | sense | sram _ | paddock _ | host | groom | yard => exact domDown_powersDown retains

theorem setDomOn_powersDown (d : Domain) (b : Bool) (s : State) : PowersDown [] s (setDomOn d b s) where
  pwr := rfl
  off _ inNil := nomatch inNil
  kept _ _ := rfl
  rest := rfl
  sys := rfl
  air quiet := ⟨quiet, rfl⟩
  plain _ _ _ := rfl
  retained _ := rfl

theorem flashDown_powersDown (s : State) : PowersDown [.flash] s (flashDown s) :=
  (retire_powersDown (d := .flash) (fun _ bank => nomatch bank)).trans (setDomOn_powersDown .flash false _)

/-- An SRAM bank goes into retention or off by its PWR_SRAM_RET bit (R326, R328). -/
theorem sramRest_powersDown (s : State) (k : Fin 8) : PowersDown [.sram k] s (sramRest s k) := by
  unfold sramRest
  split
  · exact retire_powersDown fun _ _ _ => rfl
  · rename_i notKept
    refine (retire_powersDown fun j own kept => ?_).trans (setDomOn_powersDown (.sram k) false _)
    cases own
    exact absurd kept notKept

end

/-! ## Domains that return -/

/-- Domains among `l` become ready, and no others change (R317, R320). -/
structure PowersUp (l : List Domain) (s t : State) : Prop where
  pwr : t.pwr = { s.pwr with ready := t.pwr.ready, waking := t.pwr.waking, domOn := t.pwr.domOn }
  up : ∀ d, domReady s d = true → domReady t d = true
  kept : ∀ d, d ∉ l → domReady t d = domReady s d
  rest : t = { s with pwr := t.pwr, sns := t.sns }
  plain : .sense ∉ l → t = { s with pwr := t.pwr }

namespace PowersUp

theorem refl (l : List Domain) (s : State) : PowersUp l s s where
  pwr := rfl
  up _ ready := ready
  kept _ _ := rfl
  rest := rfl
  plain _ := rfl

theorem trans {l k : List Domain} {s t u : State} (first : PowersUp l s t) (second : PowersUp k t u) : PowersUp (l ++ k) s u where
  pwr := second.pwr.trans (by rw [first.pwr])
  up d ready := second.up d (first.up d ready)
  kept d unlisted := by
    obtain ⟨notFirst, notSecond⟩ := not_or.1 (mt List.mem_append.2 unlisted)
    exact (second.kept d notSecond).trans (first.kept d notFirst)
  rest := second.rest.trans (by rw [first.rest])
  plain sense := by
    simp only [List.mem_append, not_or] at sense
    exact (second.plain sense.2).trans (by rw [first.plain sense.1])

theorem foldl {ι : Type} {f : State → ι → State} {dom : ι → Domain} (each : ∀ s i, PowersUp [dom i] s (f s i)) (l : List ι) (s : State) :
    PowersUp (l.map dom) s (l.foldl f s) := by
  induction l generalizing s with
  | nil => exact refl [] s
  | cons i l ih => exact (each s i).trans (ih (f s i))

theorem isolated {l : List Domain} {s t : State} (ups : PowersUp l s t) (d : Domain) : domIsolated t d = domIsolated s d := by
  rw [domIsolated, ups.pwr, domIsolated]

end PowersUp

theorem domReady_domUp (s : State) (d e : Domain) : domReady (domUp s d) e = if d = e then true else domReady s e := by
  obtain ⟨P, S, up, ready, -⟩ := domUp_frame s d
  rw [up, domReady, ready, bit_withBit _ _ _ _ (domBit_lt e)]
  by_cases same : d = e
  · rw [if_pos (congrArg domBit same), if_pos same]
  · rw [if_neg (mt domBit_injective same), if_neg same, domReady]

theorem domUp_powersUp (s : State) (d : Domain) : PowersUp [d] s (domUp s d) where
  pwr := by unfold domUp; split <;> rfl
  up e ready := by rw [domReady_domUp, ready, ite_self]
  kept e unlisted := by rw [domReady_domUp, if_neg (fun same => unlisted (List.mem_singleton.2 same.symm))]
  rest := by unfold domUp; split <;> rfl
  plain sense := by rw [domUp, if_neg (fun own => sense (List.mem_singleton.2 own.symm))]

theorem setDomOn_powersUp (s : State) (d : Domain) (b : Bool) : PowersUp [] s (setDomOn d b s) :=
  ⟨rfl, fun _ ready => ready, fun _ _ => rfl, rfl, fun _ => rfl⟩

theorem domReturn_powersUp (s : State) (d : Domain) : PowersUp [d] s (domReturn s d) := by
  unfold domReturn
  split
  · exact domUp_powersUp s d
  · exact .refl [d] s

/-- A domain whose PWR_DOM_ON bit is set returns unless it is isolated (R329, R338). -/
theorem domReturn_ready {s : State} {d : Domain} (demanded : bit s.pwr.domOn (domBit d) = true) (free : domIsolated s d = false) :
    domReady (domReturn s d) d = true := by
  unfold domReturn
  rw [demanded, free]
  cases ready : domReady s d with
  | true => exact ready
  | false => exact (domReady_domUp s d d).trans (if_pos rfl)

/-! ## The cores -/

/-- FLASH returns with its PWR_DOM_ON bit set (R327, R329). -/
def flashBack (s : State) : State := if domIsolated s .flash then s else domReturn (setDomOn .flash true s) .flash

theorem flashBack_powersUp (s : State) : PowersUp [.flash] s (flashBack s) := by
  unfold flashBack
  split
  · exact .refl [.flash] s
  · exact (setDomOn_powersUp s .flash true).trans (domReturn_powersUp _ .flash)

theorem flashBack_ready {s : State} (free : domIsolated s .flash = false) : domReady (flashBack s) .flash = true := by
  unfold flashBack
  rw [if_neg (by rw [free]; decide)]
  exact domReturn_ready (bit_withBit _ 0 0 true (by decide)) free

/-- What the return of FLASH and HOST leaves: the host core starts unless its domain is isolated (R327, R329, R338). -/
structure HostReturns (s t : State) : Prop where
  rest : t = { s with pwr := t.pwr }
  pwr : t.pwr = { s.pwr with
    ready := t.pwr.ready, waking := t.pwr.waking, domOn := t.pwr.domOn
    hostOn := t.pwr.hostOn, hostPc := t.pwr.hostPc, hostSp := t.pwr.hostSp, hostA0 := t.pwr.hostA0 }
  up : ∀ d, domReady s d = true → domReady t d = true
  starts : domIsolated s .host = false → t.pwr.hostOn = true ∧ t.pwr.hostPc = s.pwr.hostVec ∧ t.pwr.hostSp = 0 ∧ t.pwr.hostA0 = 0 ∧
    domReady t .host = true
  leftOut : domIsolated s .host = true → t.pwr.hostOn = s.pwr.hostOn ∧ domReady t .host = domReady s .host
  flash : domIsolated s .flash = false → domReady t .flash = true

/-- The host core starts at its vector with its integer registers zero (R327). -/
def hostStarted (p : Pwr) : Pwr := { p with hostOn := true, hostPc := p.hostVec, hostSp := 0, hostA0 := 0 }

theorem hostUp_eq (s : State) : hostUp s =
    if domIsolated s .host then flashBack s else updPwr (domUp (flashBack s) .host) hostStarted := by
  rw [← (flashBack_powersUp s).isolated .host]
  rfl

theorem hostUp_returns (s : State) : HostReturns s (hostUp s) := by
  have back := flashBack_powersUp s
  have flash := flashBack_ready (s := s)
  rw [hostUp_eq]
  generalize flashBack s = u at back flash
  split
  · rename_i out
    have on : u.pwr.hostOn = s.pwr.hostOn := by rw [back.pwr]
    exact ⟨back.plain (by decide), back.pwr.trans (by rw [back.pwr]), back.up, fun free => absurd out (by simp [free]),
      fun _ => ⟨on, back.kept .host (by decide)⟩, flash⟩
  · rename_i free
    have both := back.trans (domUp_powersUp u .host)
    have vec : (domUp u .host).pwr.hostVec = s.pwr.hostVec := by rw [both.pwr]
    have host : domReady (domUp u .host) .host = true := (domReady_domUp u .host .host).trans (if_pos rfl)
    refine ⟨?rest, ?pwr, both.up, fun _ => ⟨rfl, vec, rfl, rfl, host⟩, fun out => absurd out free,
      fun free => (domUp_powersUp u .host).up _ (flash free)⟩
    case rest => exact congrArg (updPwr · hostStarted) (both.plain (by decide))
    case pwr => rw [updPwr_pwr, both.pwr]; rfl

/-- The return of FLASH and HOST after that of other domains. -/
theorem HostReturns.after {l : List Domain} {s t u : State} (host : HostReturns t u) (ups : PowersUp l s t) (noSense : .sense ∉ l)
    (noHost : .host ∉ l) : HostReturns s u := by
  have same : t.pwr.hostVec = s.pwr.hostVec ∧ t.pwr.hostOn = s.pwr.hostOn := by
    rw [ups.pwr]
    exact ⟨rfl, rfl⟩
  obtain ⟨vec, on⟩ := same
  refine ⟨?rest, ?pwr, fun d ready => host.up d (ups.up d ready), fun free => ?starts, fun out => ?leftOut,
    fun free => host.flash ((ups.isolated .flash).trans free)⟩
  case rest => exact host.rest.trans (by rw [ups.plain noSense])
  case pwr => exact host.pwr.trans (by rw [ups.pwr])
  case starts =>
    obtain ⟨starts, pc, zero⟩ := host.starts ((ups.isolated .host).trans free)
    exact ⟨starts, pc.trans vec, zero⟩
  case leftOut =>
    obtain ⟨hostOn, ready⟩ := host.leftOut ((ups.isolated .host).trans out)
    exact ⟨hostOn.trans on, ready.trans (ups.kept .host noHost)⟩

/-- What the return of GROOM leaves: the groom core starts unless its domain is isolated (R329, R338). -/
structure GroomReturns (s t : State) : Prop where
  rest : t = { s with pwr := t.pwr }
  pwr : t.pwr = { s.pwr with
    ready := t.pwr.ready, waking := t.pwr.waking, domOn := t.pwr.domOn, groomOn := t.pwr.groomOn, groomPc := t.pwr.groomPc }
  up : ∀ d, domReady s d = true → domReady t d = true
  starts : domIsolated s .groom = false → t.pwr.groomOn = true ∧ t.pwr.groomPc = s.pwr.groomVec ∧ domReady t .groom = true
  leftOut : domIsolated s .groom = true → t.pwr.groomOn = s.pwr.groomOn

/-- The groom core starts at its vector (R329). -/
def groomStarted (p : Pwr) : Pwr := { p with groomOn := true, groomPc := p.groomVec }

theorem groomUp_returns (s : State) : GroomReturns s (groomUp s) := by
  unfold groomUp
  split
  · rename_i out
    exact ⟨rfl, rfl, fun _ ready => ready, fun free => absurd out (by simp [free]), fun _ => rfl⟩
  · rename_i free
    have up := domUp_powersUp s .groom
    have vec : (domUp s .groom).pwr.groomVec = s.pwr.groomVec := by rw [up.pwr]
    have groom : domReady (domUp s .groom) .groom = true := (domReady_domUp s .groom .groom).trans (if_pos rfl)
    refine ⟨?rest, ?pwr, up.up, fun _ => ⟨rfl, vec, groom⟩, fun out => absurd out free⟩
    case rest => exact congrArg (updPwr · groomStarted) (up.plain (by decide))
    case pwr => rw [updPwr_pwr, up.pwr]

end Sys2Proof.Machine

/-!
Entry and exit: the last step of an entry to NAP or SLUMBER, and the way out (R321, R326 to R329, R338, R427).
-/

namespace Sys2Proof.Machine

open Sys2Proof

/-! ## NAP -/

/-- The SRAM banks that NAP powers down (R326). -/
def napBanks : List (Fin 8) := (idx 8).filter (fun k => k.val < 7)

/-- The domains that NAP powers down (R326). -/
def napDomains : List Domain := [.host, .flash] ++ napBanks.map .sram

/-- The host core stopped. -/
def hostStopped (s : State) : State := updPwr s (fun p => { p with hostOn := false })

/-- The domains of NAP go down once the host core has stopped (R326). -/
def napDown (s : State) : State := napBanks.foldl sramRest (flashDown (domDown (hostStopped s) .host false))

theorem napDown_powersDown (s : State) : PowersDown napDomains (hostStopped s) (napDown s) := by
  have host := domDown_powersDown (d := .host) (keep := false) (s := hostStopped s) (fun _ bank => nomatch bank)
  exact (host.trans (flashDown_powersDown _)).trans (.foldl sramRest_powersDown napBanks _)

/-- ENTRY_COMPLETE of an entry to NAP (R326). -/
theorem entryComplete_nap {s : State} {prior : PwrState} (enters : s.pwr.move = .entering .nap prior) :
    exec .entryComplete s = .next { napDown s with
      pwr := { (napDown s).pwr with state := .nap, move := .none }, clk := { (napDown s).clk with fast := false } } := by
  refine congrArg Host.Outcome.next ?_
  rw [enters]
  rfl

/-! ## SLUMBER -/

/-- The domains that SLUMBER powers down (R321, R328). -/
def slumberDomains : List Domain :=
  [Domain.host, .groom, .flash] ++ ([Domain.sense, .radio, .crypto] ++ (idx 8).map Domain.paddock) ++ (idx 8).map Domain.sram ++ [Domain.yard]

/-- SLUMBER powers every domain down (R328). -/
theorem mem_slumberDomains (d : Domain) : d ∈ slumberDomains := by
  cases d <;> simp [slumberDomains, mem_idx]

/-- The sleep point is captured, the FIFOs and the gallery are lost, and both cores stop (R310, R321, R328). -/
def coresStopped (s : State) : State :=
  updPwr (galleryDown (dropFifos (captureSleep s))) (fun p => { p with hostOn := false, groomOn := false })

theorem coresStopped_frame (s : State) : coresStopped s = { s with
    mem := s.mem.clear 0x40120000 0x40130000, gal := { s.gal with ctrl := withBit s.gal.ctrl 31 false, left := none }
    uart := (dropFifos s).uart, i2c := (dropFifos s).i2c
    pwr := { s.pwr with sleep := (captureSleep s).pwr.sleep, hostOn := false, groomOn := false } } := rfl

/-- The domains of SLUMBER go down once the cores have stopped (R328). -/
def slumberDown (s : State) : State :=
  let cores := flashDown (domDown (domDown (coresStopped s) .host false) .groom false)
  let blocks := ([.sense, .radio, .crypto] ++ (idx 8).map .paddock : List Domain).foldl (fun s d => retire d true s) cores
  domDown ((idx 8).foldl sramRest blocks) .yard true

theorem slumberDown_powersDown (s : State) : PowersDown slumberDomains (coresStopped s) (slumberDown s) := by
  have host := domDown_powersDown (d := .host) (keep := false) (s := coresStopped s) (fun _ bank => nomatch bank)
  have groom := host.trans (domDown_powersDown (d := .groom) (keep := false) (fun _ bank => nomatch bank))
  have blocks := PowersDown.foldl (f := fun s d => retire d true s) (dom := id) (fun _ _ => retire_powersDown fun _ _ _ => rfl)
    ([.sense, .radio, .crypto] ++ (idx 8).map .paddock)
  have banks := PowersDown.foldl sramRest_powersDown (idx 8)
  exact (((groom.trans (flashDown_powersDown _)).trans (blocks _)).trans (banks _)).trans (domDown_powersDown fun _ _ _ => rfl)

/-- The blocks that SLUMBER's entry leaves as they are (R321). -/
theorem slumberDown_blocks (s : State) : (slumberDown s).stl = s.stl ∧ (slumberDown s).cfg = s.cfg ∧ (slumberDown s).boot = s.boot ∧
    (slumberDown s).zlk = s.zlk ∧ (slumberDown s).act = s.act ∧ (slumberDown s).irq = s.irq ∧ (slumberDown s).sup = s.sup := by
  have down := slumberDown_powersDown s
  generalize slumberDown s = u at down
  rw [down.rest, coresStopped_frame]
  exact ⟨rfl, rfl, rfl, rfl, rfl, rfl, rfl⟩

/-- The gallery is disarmed and the UARTs' FIFOs are lost (R321). -/
theorem slumberDown_lost (s : State) : bit (slumberDown s).gal.ctrl 31 = false ∧
    ∀ u : Fin 2, (slumberDown s).uart[u].rx = [] ∧ (slumberDown s).uart[u].tx = [] := by
  have down := slumberDown_powersDown s
  generalize slumberDown s = t at down
  have lost : t.gal = (galleryDown s).gal ∧ t.uart = (dropFifos s).uart := by
    rw [down.rest, coresStopped_frame]
    exact ⟨rfl, rfl⟩
  obtain ⟨gallery, fifos⟩ := lost
  rw [gallery, fifos]
  refine ⟨bit_withBit _ 31 31 false (by decide), fun u => ?_⟩
  have emptied := foldl_idx (fun _ (q : Uart) => { q with rx := [], tx := [] }) s.uart u
  exact ⟨congrArg Uart.rx emptied, congrArg Uart.tx emptied⟩

/-- Both cores have stopped, and the sleep point is the one captured (R310, R328). -/
theorem slumberDown_cores (s : State) : (slumberDown s).pwr.hostOn = false ∧ (slumberDown s).pwr.groomOn = false ∧
    (slumberDown s).pwr.sleep = (captureSleep s).pwr.sleep := by
  have down := slumberDown_powersDown s
  generalize slumberDown s = u at down
  rw [down.pwr, coresStopped_frame]
  exact ⟨rfl, rfl, rfl⟩

/-- ENTRY_COMPLETE of an entry to SLUMBER while the Troax link is off (R321, R328, R427). -/
theorem entryComplete_slumber {s : State} {prior : PwrState} (enters : s.pwr.move = .entering .slumber prior) (noLink : zlkOn s = false) :
    exec .entryComplete s = .next (buckAt 700 (updPwr (clocksDown (slumberDown s)) (fun p => { p with state := .slumber, move := .none }))) := by
  refine congrArg Host.Outcome.next ?_
  have noLeave : zlkOn (galleryDown (dropFifos (captureSleep s))) = false := noLink
  simp only [enters, enterSlumber, noLeave, Bool.false_eq_true, if_false]
  rfl

/-- Turning XTAL off leaves the divisor and the synthesizers as they are (R289). -/
theorem xtalRest_keeps (c : Clk) : (xtalRest c).fast = c.fast ∧ (xtalRest c).rf = c.rf ∧ (xtalRest c).sys = c.sys := by
  unfold xtalRest
  split <;> exact ⟨rfl, rfl, rfl⟩

/-- The synthesizers stop, but a failed SYSPLL stays FAILED (R296, R328). -/
theorem clocksDown_frame (s : State) : ∃ K, clocksDown s = { s with clk := K } ∧ K.fast = false ∧ K.rf.st = .off ∧
    K.sys.st = if s.clk.sys.st = .failed then .failed else .off := by
  obtain ⟨fast, rf, sys⟩ := xtalRest_keeps { rfOff s.clk with
    fast := false
    sys := { s.clk.sys with st := if s.clk.sys.st = .failed then .failed else .off, coastCyc := 0, switching := false } }
  exact ⟨_, rfl, fast, congrArg PllSt.st rf, congrArg PllSt.st sys⟩

/-! ## The way out -/

theorem exitComplete_nap {s : State} {target : PwrState} (exits : s.pwr.move = .exiting target) (naps : s.pwr.state = .nap) :
    exec .exitComplete s = .next (exitNap s) := by
  refine congrArg Host.Outcome.next ?_
  rw [exits, naps]

theorem exitComplete_slumber {s : State} {target : PwrState} (exits : s.pwr.move = .exiting target) (sleeps : s.pwr.state = .slumber) :
    exec .exitComplete s = .next (if clocksBack s then exitSlumber target s else s) := by
  refine congrArg Host.Outcome.next ?_
  rw [exits, sleeps]

/-- Where no frame is held from a sniff, the task that delivers one changes nothing (R329). -/
theorem heldFrame_none {s : State} (noFrame : s.trx.heldRx = none) : engineRun .heldFrame [] deliverHeld s = s := by
  have delivers (u : State) (same : u.trx.heldRx = none) : deliverHeld u = u := by rw [deliverHeld, same]
  have idle := delivers (updEng s (fun e => { e with got := [], stuck := none })) noFrame
  rw [engineRun_done (by rw [idle]; rfl), idle]
  rfl

/-- The SRAM banks return in NAP's exit (R327). -/
theorem sramReturn_powersUp (s : State) : PowersUp ((idx 8).map .sram) s (((idx 8).map Domain.sram).foldl domReturn s) := by
  have banks := PowersUp.foldl (dom := id) domReturn_powersUp ((idx 8).map Domain.sram) s
  rwa [List.map_id] at banks

/-- NAP's exit returns FLASH and HOST (R327). -/
theorem exitNap_returns (s : State) : ∃ u, exitNap s = woke .run u ∧ HostReturns s u :=
  ⟨_, rfl, (hostUp_returns _).after (sramReturn_powersUp s) (by decide) (by decide)⟩

/-- The domains with a PWR_DOM_ON bit, but FLASH, return (R329). -/
def blocksBack (s : State) : State := maskDomains.foldl (fun s d => if d = .flash then s else domReturn s d) s

theorem blocksBack_powersUp (s : State) : PowersUp maskDomains s (blocksBack s) := by
  have each (u : State) (d : Domain) : PowersUp [d] u (if d = .flash then u else domReturn u d) := by
    split
    · exact .refl [d] u
    · exact domReturn_powersUp u d
  have returns := PowersUp.foldl (dom := id) each maskDomains s
  rwa [List.map_id] at returns

/-- The domains that return in SLUMBER's exit, before the cores (R329). -/
def wakeDomains (s : State) : State := blocksBack (domUp s .yard)

theorem wakeDomains_powersUp (s : State) : PowersUp (.yard :: maskDomains) s (wakeDomains s) :=
  (domUp_powersUp s .yard).trans (blocksBack_powersUp _)

theorem wakeDomains_yard (s : State) : domReady (wakeDomains s) .yard = true :=
  (blocksBack_powersUp _).up .yard ((domReady_domUp s .yard .yard).trans (if_pos rfl))

/-- SLUMBER's exit once its domains have returned: the sleep interval ends, FAULT_N is released, the PWM base starts anew and VCORE is
raised (R329, R335, R427). -/
def awakened (s : State) : State :=
  buckAt 900 { updPwr s (fun p => { p with sleep := p.sleep.map (fun q => { q with back := p.ltime }), faultHeld := none }) with
    lpe := { s.lpe with pwmBase := 0 } }

/-- SLUMBER's exit with no held frame and the Troax link disabled (R329). -/
theorem exitSlumber_eq (target : PwrState) {s : State} (noFrame : s.trx.heldRx = none) (noLink : bit s.zlk.ctrl 31 = false) :
    exitSlumber target s = woke target (if target = .run then hostUp (groomUp (rfFollow (awakened (wakeDomains s))))
      else groomUp (rfFollow (awakened (wakeDomains s)))) := by
  have whole : exitSlumber target s =
      let w := if bit (awakened (wakeDomains s)).zlk.ctrl 31 && !unusable (awakened (wakeDomains s)) 57 then
        zlkLeave .listen (awakened (wakeDomains s)) else awakened (wakeDomains s)
      let x := groomUp (engineRun .heldFrame [] deliverHeld (rfFollow w))
      woke target (if target = .run then hostUp x else x) := rfl
  have up := wakeDomains_powersUp s
  rw [whole]
  generalize wakeDomains s = u at up
  have link : bit (awakened u).zlk.ctrl 31 = false := by
    have same : u.zlk = s.zlk := by rw [up.rest]
    exact same ▸ noLink
  have frame : (rfFollow (awakened u)).trx.heldRx = none := by
    obtain ⟨E, K, follows, -⟩ := rfFollow_frame (awakened u)
    have same : u.trx = s.trx := by rw [up.rest]
    rw [follows]
    exact same ▸ noFrame
  simp only [link, Bool.false_and, Bool.false_eq_true, if_false, heldFrame_none frame]

/-- The cores that SLUMBER's exit starts, in the power controller that it leaves: GROOM, and HOST on the way to RUN, unless their domain
is isolated (R329, R338). -/
structure ExitCores (target : PwrState) (s : State) (p : Pwr) : Prop where
  groom : domIsolated s .groom = false → p.groomOn = true ∧ p.groomPc = s.pwr.groomVec ∧ bit p.ready (domBit .groom) = true
  groomOut : domIsolated s .groom = true → p.groomOn = s.pwr.groomOn
  host : target = .run → domIsolated s .host = false → p.hostOn = true ∧ p.hostPc = s.pwr.hostVec ∧ p.hostSp = 0 ∧ p.hostA0 = 0
  hostOut : target ≠ .run → p.hostOn = s.pwr.hostOn

/-- HOST returns on the way to RUN only (R329). -/
theorem hostUp_toRun (target : PwrState) (s : State) : ∃ P, (if target = .run then hostUp s else s) = { s with pwr := P } ∧
    P = { s.pwr with
      ready := P.ready, waking := P.waking, domOn := P.domOn
      hostOn := P.hostOn, hostPc := P.hostPc, hostSp := P.hostSp, hostA0 := P.hostA0 } ∧
    (∀ d, domReady s d = true → bit P.ready (domBit d) = true) ∧
    (target = .run → domIsolated s .host = false → P.hostOn = true ∧ P.hostPc = s.pwr.hostVec ∧ P.hostSp = 0 ∧ P.hostA0 = 0) ∧
    (target ≠ .run → P.hostOn = s.pwr.hostOn) := by
  by_cases toRun : target = .run
  · have host := hostUp_returns s
    rw [if_pos toRun]
    refine ⟨_, host.rest, host.pwr, host.up, fun _ free => ?_, fun other => absurd toRun other⟩
    obtain ⟨on, pc, sp, a0, -⟩ := host.starts free
    exact ⟨on, pc, sp, a0⟩
  · rw [if_neg toRun]
    exact ⟨s.pwr, rfl, rfl, fun _ ready => ready, fun same => absurd same toRun, fun _ => rfl⟩

/-- What SLUMBER's exit leaves, with no held frame and the Troax link disabled (R329, R335, R427). -/
theorem exitSlumber_frame (target : PwrState) {s : State} (noFrame : s.trx.heldRx = none) (noLink : bit s.zlk.ctrl 31 = false) :
    ∃ P S E K, exitSlumber target s = { s with
        pwr := P, sns := S, lpe := { s.lpe with pwmBase := 0 }, trx := { s.trx with evt := E }, clk := K, sup := { s.sup with vcore := 900 } } ∧
      P = { s.pwr with
        state := target, move := .none, evt := withBit s.pwr.evt 2 true, faultHeld := none
        sleep := s.pwr.sleep.map (fun q => { q with back := s.pwr.ltime })
        ready := P.ready, waking := P.waking, domOn := P.domOn, hostOn := P.hostOn, hostPc := P.hostPc, hostSp := P.hostSp, hostA0 := P.hostA0
        groomOn := P.groomOn, groomPc := P.groomPc } ∧
      bit P.ready (domBit .yard) = true ∧ ExitCores target s P := by
  rw [exitSlumber_eq target noFrame noLink]
  have up := wakeDomains_powersUp s
  have yard := wakeDomains_yard s
  generalize wakeDomains s = v at up yard
  obtain ⟨E, K, follows, -⟩ := rfFollow_frame (awakened v)
  rw [follows]
  have groom := groomUp_returns { awakened v with trx := { (awakened v).trx with evt := E }, clk := K }
  generalize groomUp _ = x at groom
  obtain ⟨P, toRun, host, ready, starts, still⟩ := hostUp_toRun target x
  rw [toRun]
  have rest : x = { s with
      pwr := x.pwr, sns := v.sns, lpe := { s.lpe with pwmBase := 0 }
      trx := { s.trx with evt := E }, clk := K, sup := { s.sup with vcore := 900 } } := by
    refine groom.rest.trans ?_
    dsimp only [awakened, buckAt, updPwr]
    rw [up.rest]
  have pwr : x.pwr = { s.pwr with
      sleep := s.pwr.sleep.map (fun q => { q with back := s.pwr.ltime }), faultHeld := none
      ready := x.pwr.ready, waking := x.pwr.waking, domOn := x.pwr.domOn, groomOn := x.pwr.groomOn, groomPc := x.pwr.groomPc } := by
    refine groom.pwr.trans ?_
    dsimp only [awakened, buckAt, updPwr]
    rw [up.pwr]
  have isolated (d : Domain) : domIsolated x d = domIsolated s d := by
    rw [domIsolated, pwr]
    rfl
  have isolatedAfter (d : Domain) : domIsolated v d = domIsolated s d := up.isolated d
  refine ⟨pwrEvt 2 { P with state := target, move := .none }, v.sns, E, K, ?rest, ?pwr, ready _ (groom.up _ yard),
    ?groom, ?groomOut, ?host, ?hostOut⟩
  case rest => rw [rest]; rfl
  case pwr => rw [host, pwr]; rfl
  case groom =>
    intro free
    obtain ⟨on, pc, groomReady⟩ := groom.starts ((isolatedAfter .groom).trans free)
    have vec : v.pwr.groomVec = s.pwr.groomVec := by rw [up.pwr]
    rw [host]
    exact ⟨on, pc.trans vec, ready _ groomReady⟩
  case groomOut =>
    intro out
    have before : v.pwr.groomOn = s.pwr.groomOn := by rw [up.pwr]
    rw [host]
    exact (groom.leftOut ((isolatedAfter .groom).trans out)).trans before
  case host =>
    intro toRun free
    obtain ⟨on, pc, zero⟩ := starts toRun ((isolated .host).trans free)
    have vec : x.pwr.hostVec = s.pwr.hostVec := by rw [pwr]
    exact ⟨on, pc.trans vec, zero⟩
  case hostOut =>
    intro other
    have before : x.pwr.hostOn = s.pwr.hostOn := by rw [pwr]
    exact (still other).trans before

/-- Settles O47: what `PowersDown` says of the domains of an entry, and of a way out `PowersUp` with `HostReturns` and `GroomReturns`. -/
theorem entryAndExit : Obligations.EntryAndExit := by
  unfold Obligations.EntryAndExit
  refine fun s prior target => ⟨fun enters => ?nap, fun enters noLink => ?slumber, fun exits naps => ?leavesNap,
    fun exits sleeps back noFrame noLink => ?leavesSlumber, fun exits sleeps notBack => ?waits⟩
  case nap =>
    have down := napDown_powersDown s
    have answer := entryComplete_nap enters
    generalize napDown s = u at down answer
    refine ⟨_, answer, ?_, rfl, rfl, ?_, ?_, down.off .host (by decide), down.off .flash (by decide),
      down.kept .groom (by decide), down.kept .sense (by decide), fun kept => down.retained fun k listed => kept k ?_,
      fun k small => down.off (.sram k) ?_⟩
    · rw [down.plain (by decide) (by decide) (by decide)]
      rfl
    · rw [down.pwr]
      rfl
    · rw [down.pwr]
      rfl
    · revert k
      decide
    · revert k
      decide
  case slumber =>
    have down := slumberDown_powersDown s
    have off (d : Domain) := down.off d (mem_slumberDomains d)
    have answer := entryComplete_slumber enters noLink
    obtain ⟨stl, cfg, boot, zlk, act, irq, sup⟩ := slumberDown_blocks s
    obtain ⟨gallery, fifos⟩ := slumberDown_lost s
    obtain ⟨host, groom, slept⟩ := slumberDown_cores s
    generalize slumberDown s = u at *
    obtain ⟨K, clocks, fast, rf, sys⟩ := clocksDown_frame u
    rw [clocks] at answer
    rw [down.sys] at sys
    exact ⟨_, answer, rfl, rfl, host, groom, slept, sys, rf, fast, congrArg (fun p : Sup => { p with vcore := 700 }) sup, gallery,
      off .yard, off .groom, off .sense, off .radio, off .crypto, fun p => off (.paddock p), fifos,
      fun quiet => (down.air fun x inHand => quiet x inHand).2, stl, cfg, boot, zlk, act, irq⟩
  case leavesNap =>
    obtain ⟨u, leaves, host⟩ := exitNap_returns s
    have answer := (exitComplete_nap exits naps).trans (congrArg Host.Outcome.next leaves)
    have kept : u.pwr.groomOn = s.pwr.groomOn ∧ u.pwr.lastWake = s.pwr.lastWake := by
      rw [host.pwr]
      exact ⟨rfl, rfl⟩
    refine ⟨_, answer, ?_, rfl, rfl, kept.1, host.starts, host.leftOut, bit_withBit _ 2 2 true (by decide), host.flash, kept.2⟩
    rw [host.rest]
    rfl
  case leavesSlumber =>
    obtain ⟨P, S, E, K, leaves, pwr, yard, cores⟩ := exitSlumber_frame target noFrame noLink
    have answer := (exitComplete_slumber exits sleeps).trans (congrArg Host.Outcome.next ((if_pos back).trans leaves))
    refine ⟨_, answer, by rw [pwr], by rw [pwr], cores.groom, cores.groomOut, ?_, yard, by rw [pwr], rfl, rfl,
      cores.host, cores.hostOut, fun p slept => ?_, rfl, rfl, rfl, rfl, rfl, rfl, rfl⟩
    · rw [pwr]
      exact bit_withBit _ 2 2 true (by decide)
    · rw [pwr]
      exact congrArg (Option.map _) slept
  case waits => rw [exitComplete_slumber exits sleeps, if_neg (by rw [notBack]; decide)]

end Sys2Proof.Machine

/-!
Rollback: over every step the floor and the OTP only grow, and the queue loses the command taken (R394, R395).
-/

namespace Sys2Proof.Machine

open Sys2Proof

/-- Settles O60: the floor, the key slots and the queue are what every step keeps. -/
theorem otpOnlyGrows : Obligations.OtpOnlyGrows := by
  unfold Obligations.OtpOnlyGrows
  intro s t next
  have kept := (keepsX_step s).keeps t next
  exact ⟨kept.floor, kept.otp, kept.pending⟩

end Sys2Proof.Machine

/-!
Access tables: the locks, the captures cleared, and the registers of a locked gate (R346, R347, R349, R356, R357).
-/

namespace Sys2Proof.Machine

open Sys2Proof

/-- Which of a gate's windows an ACT offset lies in (R357). -/
theorem windowIdx_gate (g : Fin 25) {o : Nat} (inside : o < 0x80) : windowIdx 25 0x80 (g.val * 0x80 + o) = some g := by
  have gate : (g.val * 0x80 + o) / 0x80 = g.val := by omega
  simp [windowIdx, gate]

/-- A write of a gate's register by a master that may write ACT (R347, R357). -/
theorem actWrite_gate {m : Mid} (writes : actWriter m = true) (g : Fin 25) {o : Nat} (inside : o < 0x80) (d : W32) (s : State) :
    actWrite m (0x80 + g.val * 0x80 + o) d s = effGate g o d s := by
  have place : 0x80 + g.val * 0x80 + o - 0x80 = g.val * 0x80 + o := by omega
  have within : (g.val * 0x80 + o) % 0x80 = o := by omega
  have notGlobal : ∀ k, k < 0x80 → ¬ 0x80 + g.val * 0x80 + o = k := by omega
  have above : 0x80 ≤ 0x80 + g.val * 0x80 + o := by omega
  simp only [actWrite, writes, Bool.not_true, Bool.false_eq_true, if_false, notGlobal 0 (by decide), notGlobal 4 (by decide),
    notGlobal 0x10 (by decide), above, if_true, place, windowIdx_gate g inside, within]

/-- The addresses of the ACT window (R23). -/
theorem decodeTarget_act {a : Nat} (low : 0x40010000 ≤ a) (high : a < 0x40011000) : decodeTarget a = some .act := by
  unfold decodeTarget
  repeat rw [if_neg (by omega)]
  exact if_pos ⟨low, high⟩

/-- What a register target does with a word written at a multiple of 4 (R22). -/
theorem perform_writeWord {m : Mid} {t : Target} {a d : W32} (s : State) (at_t : decodeTarget a.toNat = some t) (register : isMemory t = false)
    (aligned : a.toNat % 4 = 0) : perform m a .b32 .write d s =
      if (regWrite m t (targetOff t a.toNat) d s).1 then (some 0, (regWrite m t (targetOff t a.toNat) d s).2)
      else (none, (regWrite m t (targetOff t a.toNat) d s).2) := by
  have fits : alignedTo a.toNat .b32 = true := decide_eq_true aligned
  simp only [perform, at_t, performWrite, fits, register, Bool.not_true, Bool.false_eq_true, if_false, if_true]
  generalize regWrite m t (targetOff t a.toNat) d s = r
  obtain ⟨_ | _, _⟩ := r <;> rfl

/-- A region, default or control register of a locked gate takes no write (R349). -/
theorem effGate_locked {g : Fin 25} {s : State} (locked : s.act.gate[g].locked = true) {o : Nat} (settings : o ≤ 0x64) (aligned : o % 4 = 0)
    (d : W32) : effGate g o d s = none := by
  unfold effGate
  simp only [locked, if_true]
  split
  · split <;> rfl
  · have last : o = 0x60 ∨ o = 0x64 := by omega
    rcases last with rfl | rfl <;> rfl

/-- ACT_LOCK.ALL locks every gate (R349). -/
theorem effActLock_all (s : State) : effActLock 0x80000000 s = some (updAct s (fun a => { a with
    gate := (idx 25).foldl (fun v g => upd v g (fun q => { q with locked := true })) a.gate })) := rfl

/-- ACT_LOCK.ONE locks the gate that GATE names (R349). -/
theorem effActLock_one (g : Fin 25) (s : State) : effActLock (put 1 30 ||| (BitVec.ofNat 5 g.val).setWidth 32) s =
    some (updAct s (fun a => { a with gate := upd a.gate g (fun q => { q with locked := true }) })) := by
  have fields : ∀ g : Fin 25, fld (put 1 30 ||| (BitVec.ofNat 5 g.val).setWidth 32) 4 0 = g.val ∧
      bit (put 1 30 ||| (BitVec.ofNat 5 g.val).setWidth 32) 30 = true ∧
      bit (put 1 30 ||| (BitVec.ofNat 5 g.val).setWidth 32) 31 = false := by decide
  obtain ⟨gate, one, notAll⟩ := fields g
  have known : ¬ 25 ≤ g.val := by omega
  simp [effActLock, gate, one, notAll, known]

/-- The access tables updated by a transaction that ACT serves. -/
theorem updAct_served (m : Mid) (t : Target) (s : State) (f : Act → Act) : updAct (served m t s) f = { served m t s with act := f s.act } := by
  rw [updAct, served_act]

/-- A write that gives the gates new tables, and changes nothing else. -/
theorem busWrite_gates {m : Mid} {a : Nat} {d : W32} {eff : State → Option State} {s : State} {G : Vector Gate 25}
    (h : reaches m .act a d s = true) (effect : eff (served m .act s) = some { served m .act s with act := { s.act with gate := G } }) :
    ∃ t, busWrite m .act a d eff s = t ∧ t = okay m 0 { served m .act s with act := { s.act with gate := t.act.gate } } ∧ t.act.gate = G :=
  ⟨_, busWrite_reaches h effect, rfl, rfl⟩

/-- Settles O8: `effActLock_all` and `effActLock_one` for the locks, `actWrite_gate` for a gate's registers, and `effGate_locked` for
those of a locked one. -/
theorem accessTableCommands : Obligations.AccessTableCommands := by
  unfold Obligations.AccessTableCommands
  refine ⟨fun s m writes => ⟨fun h => ?all, fun g h => ?one, fun g h => ?clear, fun h => ?count⟩, fun s m g o d writes locked free go => ?locked⟩
  case all =>
    have effect : actWrite m 4 0x80000000 (served m .act s) = effActLock 0x80000000 (served m .act s) := by simp [actWrite, writes]
    rw [effActLock_all, updAct_served] at effect
    obtain ⟨t, answer, frame, gates⟩ := busWrite_gates h effect
    refine ⟨t, congrArg Host.Outcome.next answer, frame, fun g => ?_⟩
    rw [gates, foldl_idx (fun _ (q : Gate) => { q with locked := true })]
  case one =>
    have effect : ∀ d, actWrite m 4 d (served m .act s) = effActLock d (served m .act s) := by simp [actWrite, writes]
    have effect := effect (put 1 30 ||| (BitVec.ofNat 5 g.val).setWidth 32)
    rw [effActLock_one, updAct_served] at effect
    obtain ⟨t, answer, frame, gates⟩ := busWrite_gates h effect
    exact ⟨t, congrArg Host.Outcome.next answer, frame, gates ▸ upd_same .., fun j other => gates ▸ upd_other _ _ _ _ other⟩
  case clear =>
    have effect : actWrite m (0x80 + g.val * 0x80 + 0x6C) 0x80000000 (served m .act s) = some (effViolInfo g 0x80000000 (served m .act s)) :=
      actWrite_gate writes g (by decide) _ _
    rw [effViolInfo, if_pos (by decide), updAct_served] at effect
    obtain ⟨t, answer, frame, gates⟩ := busWrite_gates h effect
    exact ⟨t, congrArg Host.Outcome.next answer, frame, gates ▸ upd_same .., fun j other => gates ▸ upd_other _ _ _ _ other⟩
  case count =>
    have effect : actWrite m 0x10 0x80000000 (served m .act s) = some (effViolCnt 0x80000000 (served m .act s)) := by simp [actWrite, writes]
    rw [effViolCnt, if_pos (by decide), updAct_served] at effect
    exact congrArg Host.Outcome.next (busWrite_reaches h effect)
  case locked =>
    have address : (BitVec.ofNat 32 (0x40010080 + g.val * 0x80 + 4 * o.val)).toNat = 0x40010000 + (0x80 + g.val * 0x80 + 4 * o.val) := by
      rw [BitVec.toNat_ofNat]
      omega
    generalize BitVec.ofNat 32 (0x40010080 + g.val * 0x80 + 4 * o.val) = a at address
    have go : verdict s m (some .act) a.toNat .write = .go .act := by
      rw [address, ← Nat.add_assoc, ← Nat.add_assoc]
      exact go
    have at_act : decodeTarget a.toNat = some .act := decodeTarget_act (by omega) (by omega)
    have refuses : perform m a .b32 .write d (served m .act s) = (none, served m .act s) := by
      have offset : targetOff .act a.toNat = 0x80 + g.val * 0x80 + 4 * o.val  :=
        show a.toNat % 0x1000 = _ by omega
      have refused : actWrite m (0x80 + g.val * 0x80 + 4 * o.val) d (served m .act s) = none :=
        (actWrite_gate writes g (by omega) d _).trans (effGate_locked (by rwa [served_act]) (by omega) (by omega) d)
      rw [perform_writeWord _ at_act rfl (by omega), offset]
      simp only [regWrite, accepted, refused, Bool.false_eq_true, if_false]
    refine congrArg Host.Outcome.next ?_
    rw [transact, at_act]
    exact access_refused free go refuses

end Sys2Proof.Machine

/-!
Pins: hold release and the map's lock, the masked windows, and qualified edges (R332, R364 to R366, R368, R369).
-/

namespace Sys2Proof.Machine

open Sys2Proof

/-- An update of the pins changes nothing else; the keepers take up the levels that their nodes have then (R362). -/
theorem updPio_eq (s : State) (f : Pio → Pio) : ∃ K, updPio s f = { s with pio := { f s.pio with keep := K } } := ⟨_, rfl⟩

/-- A register write that updates the pins. -/
theorem busWrite_updPio {m : Mid} {a : Nat} {d : W32} {eff : State → Option State} {s : State} {f : Pio → Pio}
    (h : reaches m .pio a d s = true) (effect : eff (served m .pio s) = some (updPio (served m .pio s) f)) :
    ∃ K, busWrite m .pio a d eff s = okay m 0 { served m .pio s with pio := { f s.pio with keep := K } } := by
  obtain ⟨K, updated⟩ := updPio_eq (served m .pio s) f
  refine ⟨K, ?_⟩
  rw [busWrite_reaches h effect, updated, served_pio]

/-! ## Hold release and the map's lock -/

/-- PIO_HOLDREL after the wake sequence releases the latches of its groups (R368). -/
theorem effHoldrel_awake {s : State} (mask : BitVec 3) (awake : s.pwr.state ≠ .slumber) (still : s.pwr.move = .none) :
    effHoldrel (mask.setWidth 32) s = updPio s (fun p => { p with hold := p.hold &&& ~~~ mask }) := by
  have ended : wakeRuns s.pwr = false := by simp [wakeRuns, awake, still]
  have groups : (mask.setWidth 32).setWidth 3 = mask := by simp
  rw [effHoldrel, ended, if_neg Bool.false_ne_true, groups]

/-! ## The masked windows (R364) -/

/-- The word of a masked window that an offset names. -/
theorem windowAt_word (g : Fin 3) (mask : Byte) : windowAt (0x400 + g.val * 0x400 + mask.toNat * 4) = some (g, mask) := by
  have small : mask.toNat < 0x100 := mask.isLt
  have inGroup : (0x400 + g.val * 0x400 + mask.toNat * 4 - 0x400) / 0x400 = g.val := by omega
  have word : BitVec.ofNat 8 ((0x400 + g.val * 0x400 + mask.toNat * 4) / 4) = mask := by
    refine BitVec.eq_of_toNat_eq ?_
    rw [BitVec.toNat_ofNat]
    omega
  have window : 0x400 ≤ 0x400 + g.val * 0x400 + mask.toNat * 4 := by omega
  simp only [windowAt, window, if_true, windowIdx, inGroup, g.isLt, dite_true, Option.map_some, word]

/-- A masked write takes the data's bits where the mask is set in the group, and leaves every other bit (R364). -/
theorem getLsbD_maskedOut (out : BitVec 24) (g : Fin 3) (mask : Byte) (d : W32) (i : Fin 24) :
    (maskedOut out g mask d).getLsbD i.val =
      if i.val / 8 = g.val ∧ mask.getLsbD (i.val % 8) = true then d.getLsbD (i.val % 8) else out.getLsbD i.val := by
  simp only [maskedOut, BitVec.getLsbD_or, BitVec.getLsbD_and, BitVec.getLsbD_not, BitVec.getLsbD_shiftLeft, BitVec.getLsbD_setWidth]
  by_cases group : i.val / 8 = g.val
  · have place : i.val - 8 * g.val = i.val % 8 := by omega
    have notBelow : ¬ i.val < 8 * g.val := by omega
    have inByte : i.val % 8 < 8 := Nat.mod_lt _ (by decide)
    have inWord : i.val % 8 < 24 := by omega
    simp only [group, place, notBelow, inByte, inWord, i.isLt, decide_true, decide_false, Bool.not_false, Bool.and_true, Bool.true_and,
      true_and]
    cases mask.getLsbD (i.val % 8)
    · rw [if_neg Bool.false_ne_true, Bool.and_false, Bool.or_false, Bool.not_false, Bool.and_true]
    · rw [if_pos rfl, Bool.not_true, Bool.and_false, Bool.false_or, Bool.and_true]
  · have outside : mask.getLsbD (i.val - 8 * g.val) = false ∨ i.val < 8 * g.val := by
      by_cases below : i.val < 8 * g.val
      · exact .inr below
      · exact .inl (BitVec.getLsbD_of_ge _ _ (by omega))
    rcases outside with clear | below
    · simp only [group, clear, i.isLt, decide_true, Bool.and_false, Bool.not_false, Bool.and_true, Bool.or_false, false_and, if_false]
    · simp only [group, below, i.isLt, decide_true, Bool.not_true, Bool.and_false, Bool.false_and, Bool.not_false, Bool.and_true,
        Bool.or_false, false_and, if_false]

/-- The addresses of the PIO window (R23). -/
theorem decodeTarget_pio {a : Nat} (low : 0x40030000 ≤ a) (high : a < 0x40031000) : decodeTarget a = some .pio := by
  unfold decodeTarget
  repeat rw [if_neg (by omega)]
  exact if_pos ⟨low, high⟩

/-- What a masked read gives: the group's latch bits under the mask (R364). -/
def windowRead (out : BitVec 24) (g : Fin 3) (mask : Byte) : W32 := (((out >>> (8 * g.val)).setWidth 8) &&& mask).setWidth 32

theorem getLsbD_windowRead (out : BitVec 24) (g : Fin 3) (mask : Byte) (j : Fin 32) :
    (windowRead out g mask).getLsbD j.val = (decide (j.val < 8) && mask.getLsbD j.val && out.getLsbD (8 * g.val + j.val)) := by
  simp only [windowRead, BitVec.getLsbD_setWidth, BitVec.getLsbD_and, BitVec.getLsbD_ushiftRight, j.isLt, decide_true, Bool.true_and]
  cases decide (j.val < 8) <;> cases mask.getLsbD j.val <;> simp

/-- What a register target does with a word read at a multiple of 4 (R22). -/
theorem perform_readWord {m : Mid} {t : Target} {a : W32} (s : State) (at_t : decodeTarget a.toNat = some t) (register : isMemory t = false)
    (aligned : a.toNat % 4 = 0) : perform m a .b32 .read 0 s = regRead m t (targetOff t a.toNat) s := by
  have fits : alignedTo a.toNat .b32 = true := decide_eq_true aligned
  simp only [perform, at_t, performRead, fits, register, Bool.not_true, Bool.false_eq_true, if_false, if_true]

/-- A read of a masked window's word by a transaction that reaches PIO (R364). -/
theorem transact_window {s : State} {m : Mid} (g : Fin 3) (mask : Byte)
    (h : readReaches m .pio (0x40030000 + (0x400 + g.val * 0x400 + mask.toNat * 4)) s = true) :
    transact m (BitVec.ofNat 32 (0x40030000 + (0x400 + g.val * 0x400 + mask.toNat * 4))) .b32 .read 0 s =
      okay m (windowRead s.pio.out g mask) (served m .pio s) := by
  have small : mask.toNat < 0x100 := mask.isLt
  have address : (BitVec.ofNat 32 (0x40030000 + (0x400 + g.val * 0x400 + mask.toNat * 4))).toNat =
      0x40030000 + (0x400 + g.val * 0x400 + mask.toNat * 4) := by
    rw [BitVec.toNat_ofNat]
    omega
  have offset : targetOff .pio (0x40030000 + (0x400 + g.val * 0x400 + mask.toNat * 4)) = 0x400 + g.val * 0x400 + mask.toNat * 4 :=
    show (0x40030000 + (0x400 + g.val * 0x400 + mask.toNat * 4)) % 0x1000 = _ by omega
  have read : pioRead (0x400 + g.val * 0x400 + mask.toNat * 4) (served m .pio s) = (windowRead s.pio.out g mask, served m .pio s) := by
    simp only [pioRead, windowAt_word, served_pio, windowRead]
  have at_pio : decodeTarget (BitVec.ofNat 32 (0x40030000 + (0x400 + g.val * 0x400 + mask.toNat * 4))).toNat = some .pio :=
    decodeTarget_pio (by omega) (by omega)
  rw [transact, at_pio]
  refine access_read h ((perform_readWord _ at_pio rfl (by omega)).trans ?_)
  rw [address, offset, regRead, read]

/-- Settles O52: `getLsbD_maskedOut` for the write, `transact_window` with `getLsbD_windowRead` for the read. -/
theorem maskedWindow : Obligations.MaskedWindow := by
  unfold Obligations.MaskedWindow
  refine fun s m g mask => ⟨fun data h => ?write, fun h => ⟨_, transact_window g mask h, getLsbD_windowRead _ g mask⟩⟩
  have effect : pioWrite (0x400 + g.val * 0x400 + mask.toNat * 4) data (served m .pio s) =
      some (updPio (served m .pio s) (fun p => { p with out := maskedOut p.out g mask data })) := by
    simp only [pioWrite, windowAt_word]
  obtain ⟨K, answer⟩ := busWrite_updPio h effect
  exact ⟨_, congrArg Host.Outcome.next answer, rfl, getLsbD_maskedOut s.pio.out g mask data⟩

/-! ## Edges (R365, R366) -/

/-- A pin's bit of a pin word that was set. -/
theorem getLsbD_withPin (w : BitVec 24) (i : Fin 24) (b : Bool) : (withPin w i b).getLsbD i.val = b := by
  cases b <;> simp [withPin]

/-- An edge shows its level at the pin's node, and changes nothing else. -/
theorem setNode_frame (i : Fin 24) (level : Bool) (s : State) : ∃ E, setNode i level s = { s with pio := { s.pio with ext := E } } := by
  unfold setNode
  split
  · exact ⟨s.pio.ext, rfl⟩
  · exact ⟨_, rfl⟩

/-- The state in which a pin's filtered level has moved (R365). -/
def filtered (i : Fin 24) (level : Bool) (s : State) : State :=
  updPio (setNode i level s) (fun p => { p with filt := withPin p.filt i level })

/-- The state in which an edge has set PIO_EVT too (R365). -/
def edgeNoted (i : Fin 24) (level : Bool) (s : State) : State :=
  updPio (filtered i level s) (fun p => { p with evt := withPin p.evt i true })

theorem filtered_frame (i : Fin 24) (level : Bool) (s : State) : ∃ E K, filtered i level s =
    { s with pio := { s.pio with ext := E, filt := withPin s.pio.filt i level, keep := K } } := by
  obtain ⟨E, node⟩ := setNode_frame i level s
  unfold filtered
  rw [node]
  exact ⟨E, updPio_eq _ _⟩

theorem edgeNoted_frame (i : Fin 24) (level : Bool) (s : State) : ∃ E K, edgeNoted i level s = { s with pio := { s.pio with
    ext := E, filt := withPin s.pio.filt i level, keep := K, evt := withPin s.pio.evt i true } } := by
  obtain ⟨E, K, moved⟩ := filtered_frame i level s
  unfold edgeNoted
  rw [moved]
  exact ⟨E, updPio_eq _ _⟩

section
variable {s : State} {i : Fin 24} {level : Bool}

/-- A level that a pin's filter shows already is no edge (R365, R366). -/
theorem edge_none (same : s.pio.filt.getLsbD i.val = level) :
    exec (.qualifiedEdge i level) s = .next s ∧ exec (.slumberEdge i level) s = .next s :=
  ⟨congrArg Host.Outcome.next (if_pos (by rw [decide_eq_true same, Bool.or_true])),
    congrArg Host.Outcome.next (if_pos (by rw [decide_eq_true same, Bool.or_true]))⟩

/-- An edge while CLK_YARD runs, by whether it is in the EDGE direction (R332, R365). -/
theorem qualifiedEdge_eq (usable : unusable s 7 = false) (powered : domReady s .yard = true) (new : s.pio.filt.getLsbD i.val ≠ level) :
    exec (.qualifiedEdge i level) s = .next (if edgeWanted s.pio.ecfg[i] level then
      fire (0x20 + i.val) (if bit s.pio.ecfg[i] 11 then wake .pio (edgeNoted i level s) else edgeNoted i level s)
    else filtered i level s) :=
  congrArg Host.Outcome.next (if_neg (by rw [usable, powered, decide_eq_false new]; decide))

/-- An EDGE direction names at least one of its two bits (R365). -/
theorem edge_of_wanted {cfg : W32} (wanted : edgeWanted cfg level = true) : fld cfg 13 12 ≠ 0 := by
  have either : bit cfg 12 = true ∨ bit cfg 13 = true := by
    cases level
    · exact .inr wanted
    · exact .inl wanted
  intro none
  have value : cfg.toNat / 4096 % 4 = 0 := by rwa [fld, Nat.shiftRight_eq_div_pow] at none
  rcases either with h | h <;> rw [bit, BitVec.getLsbD, Nat.testBit_eq_decide_div_mod_eq, decide_eq_true_eq] at h <;> omega

/-- An edge in SLUMBER at a pin with WAKE, in the EDGE direction (R366). -/
theorem slumberEdge_eq (usable : unusable s 7 = false) (asleep : domReady s .yard = false) (new : s.pio.filt.getLsbD i.val ≠ level)
    (wakes : bit s.pio.ecfg[i] 11 = true) (wanted : edgeWanted s.pio.ecfg[i] level = true) :
    exec (.slumberEdge i level) s = .next (wake .pio (edgeNoted i level s)) := by
  have direction := edge_of_wanted wanted
  exact congrArg Host.Outcome.next ((if_neg (by rw [usable, asleep, wakes, decide_eq_false direction, decide_eq_false new]; decide)).trans (if_pos wanted))

end

/-- A wake event leaves PIO_EVT and the filtered levels as they were (R325, R332). -/
theorem wake_pins (src : WakeSrc) (s : State) : (wake src s).pio.evt = s.pio.evt ∧ (wake src s).pio.filt = s.pio.filt := by
  have aborted : ∀ (code : Nat) (x : State), (abortEntry code x).pio.evt = x.pio.evt ∧ (abortEntry code x).pio.filt = x.pio.filt := by
    intro code x
    unfold abortEntry
    split <;> exact ⟨rfl, rfl⟩
  have left : ∀ (code : Nat) (x : State), (startExit code x).pio = x.pio := by
    intro code x
    obtain ⟨P, C, exits, _⟩ := startExit_frame code x
    rw [exits]
  have recorded : ∃ P, (if wakeCode src ≤ 6 then updPwr s (fun p => { p with wakePend := withBit p.wakePend (wakeCode src) true }) else s) =
      { s with pwr := P } := by
    split
    · exact ⟨_, rfl⟩
    · exact ⟨s.pwr, rfl⟩
  obtain ⟨P, pending⟩ := recorded
  simp only [wake, pending]
  split
  · split
    · exact aborted _ _
    · exact ⟨rfl, rfl⟩
  · split
    · rw [left]
      exact ⟨rfl, rfl⟩
    · exact ⟨rfl, rfl⟩
  · exact ⟨rfl, rfl⟩

/-- Settles O51: the two registers by `busWrite_updPio`, and the edges by `qualifiedEdge_eq`, `slumberEdge_eq` and `wake_frame`. -/
theorem pinCommands : Obligations.PinCommands := by
  unfold Obligations.PinCommands
  refine fun s => ⟨fun m mask h awake still => ?holdrel, fun m h => ?map, fun i level same => edge_none same,
    fun i level usable powered new => ?edge, fun i level usable asleep new wakes wanted => ?slumber⟩
  case holdrel =>
    have effect : pioWrite 0x01C (mask.setWidth 32) (served m .pio s) = some (effHoldrel (mask.setWidth 32) (served m .pio s)) := rfl
    rw [effHoldrel_awake mask (by rwa [served_pwr]) (by rwa [served_pwr])] at effect
    obtain ⟨K, answer⟩ := busWrite_updPio h effect
    exact ⟨_, congrArg Host.Outcome.next answer, rfl⟩
  case map =>
    have effect : pioWrite 0x020 1 (served m .pio s) = some (updPio (served m .pio s) (fun p => { p with lock := true })) := rfl
    obtain ⟨K, answer⟩ := busWrite_updPio h effect
    exact ⟨_, congrArg Host.Outcome.next answer, rfl⟩
  case edge =>
    have answer := qualifiedEdge_eq usable powered new
    cases wanted : edgeWanted s.pio.ecfg[i] level
    · obtain ⟨E, K, moved⟩ := filtered_frame i level s
      rw [wanted, if_neg Bool.false_ne_true, moved] at answer
      refine ⟨{ s with pio := { s.pio with ext := E, filt := withPin s.pio.filt i level, keep := K } }, rfl, getLsbD_withPin _ i level,
        rfl, rfl, rfl, fun _ => ⟨rfl, answer⟩, fun h => absurd h Bool.false_ne_true⟩
    · obtain ⟨E, K, moved⟩ := edgeNoted_frame i level s
      rw [wanted, if_pos rfl, moved] at answer
      refine ⟨{ s with pio := { s.pio with ext := E, filt := withPin s.pio.filt i level, keep := K, evt := withPin s.pio.evt i true } }, rfl,
        getLsbD_withPin _ i level, rfl, rfl, rfl, fun h => absurd h.symm Bool.false_ne_true, fun _ => ⟨getLsbD_withPin _ i true, answer⟩⟩
  case slumber =>
    have answer := slumberEdge_eq usable asleep new wakes wanted
    obtain ⟨E, K, noted⟩ := edgeNoted_frame i level s
    obtain ⟨evt, filt⟩ := wake_pins .pio (edgeNoted i level s)
    obtain ⟨P, Q, C, woken, recorded⟩ := wake_frame (s := edgeNoted i level s) (src := .pio) (by decide)
    refine ⟨_, answer, ?_, ?_, ?_, ?_⟩
    · rw [woken, noted]
    · rw [evt, noted]
      exact getLsbD_withPin _ i true
    · rw [filt, noted]
      exact getLsbD_withPin _ i level
    · rw [woken]
      exact recorded

end Sys2Proof.Machine

/-!
Ranges of memory: what reads of a range give once the range was cleared, zeroed, or written apart from it (R23, R380, R409).
-/

namespace Sys2Proof.Machine

open Sys2Proof

/-! ## Cleared ranges -/

/-- A key that no entry has is not found. -/
theorem getCell_unlisted {α : Type} {a : Nat} {l : List (Nat × α)} (unlisted : ∀ c ∈ l, c.1 ≠ a) : getCell l a = none := by
  induction l with
  | nil => rfl
  | cons c t ih =>
    have other : c.1 ≠ a := unlisted c List.mem_cons_self
    have rest := ih fun x listed => unlisted x (List.mem_cons_of_mem _ listed)
    simp only [getCell, other, if_false, rest, ite_self]

/-- A key that a filter keeps is found as before. -/
theorem getCell_filter {α : Type} {q : Nat → Bool} {a : Nat} {l : List (Nat × α)} (sorted : rising l = true) (kept : q a = true) :
    getCell (l.filter (fun c => q c.1)) a = getCell l a := by
  induction l with
  | nil => rfl
  | cons c t ih =>
    obtain ⟨k, v⟩ := c
    obtain ⟨above, sorted⟩ := (rising_cons k v t).1 sorted
    have ih := ih sorted
    rw [List.filter_cons]
    by_cases same : k = a
    · simp only [same, kept, if_true, getCell]
    · by_cases past : a < k
      · have beyond : getCell (t.filter (fun c => q c.1)) a = none :=
          getCell_below fun c listed => Nat.lt_trans past (above c (List.mem_of_mem_filter listed))
        split <;> simp only [getCell, same, past, beyond, if_true, if_false]
      · split <;> simp only [getCell, same, past, ih, if_false]

/-- An address that memory does not list reads its default. -/
theorem Mem.read_unlisted {m : Mem} {a : Nat} (unlisted : ∀ c ∈ m.cells, c.1 ≠ a) : m.read a = memDefault m.lost a := by
  rw [Mem.read, getCell_unlisted unlisted]

/-- Outside a range that was cleared memory reads as before. -/
theorem Mem.read_clear_other {m : Mem} {lo hi a : Nat} (formed : m.wf = true) (outside : a < lo ∨ hi ≤ a) : (m.clear lo hi).read a = m.read a := by
  have sorted := ((Mem.wf_iff m).1 formed).1
  have kept : (!(decide (lo ≤ a) && decide (a < hi))) = true := by
    simp only [Bool.not_eq_true', Bool.and_eq_false_iff, decide_eq_false_iff_not]
    omega
  rw [Mem.read, Mem.clear, getCell_filter (q := fun k => !(decide (lo ≤ k) && decide (k < hi))) sorted kept, Mem.read]

/-- What an erase leaves listed: nothing in its ranges (R380). -/
theorem eraseRanges_cells {l : List (Nat × Nat)} {m : Mem} {c : Nat × Byte} (listed : c ∈ (eraseRanges l m).cells) :
    c ∈ m.cells ∧ ∀ r ∈ l, ¬ (r.1 ≤ c.1 ∧ c.1 < r.1 + r.2) := by
  induction l generalizing m with
  | nil => exact ⟨listed, nofun⟩
  | cons r t ih =>
    obtain ⟨inClear, apart⟩ := ih (m := m.clear r.1 (r.1 + r.2)) listed
    obtain ⟨inMem, outside⟩ := List.mem_filter.1 inClear
    refine ⟨inMem, List.forall_mem_cons.2 ⟨?_, apart⟩⟩
    rw [Bool.not_eq_true', Bool.and_eq_false_iff, decide_eq_false_iff_not, decide_eq_false_iff_not] at outside
    exact not_and_or.2 outside

/-- An erase leaves every address outside its ranges as it was (R381). -/
theorem read_eraseRanges_other {l : List (Nat × Nat)} {m : Mem} {a : Nat} (formed : m.wf = true)
    (outside : ∀ r ∈ l, a < r.1 ∨ r.1 + r.2 ≤ a) : (eraseRanges l m).read a = m.read a := by
  induction l generalizing m with
  | nil => rfl
  | cons r t ih =>
    obtain ⟨first, rest⟩ := List.forall_mem_cons.1 outside
    exact (ih (Mem.wf_clear m _ _ formed) rest).trans (Mem.read_clear_other formed first)

/-- Flash that was erased reads all ones (R380). -/
theorem read_eraseRanges {l : List (Nat × Nat)} {m : Mem} {a : Nat} {r : Nat × Nat} (erased : r ∈ l) (inside : r.1 ≤ a ∧ a < r.1 + r.2)
    (flash : 0x08000000 ≤ a ∧ a < 0x08200000) : (eraseRanges l m).read a = 0xFF := by
  have notRom : ¬ a < 0x10000 := by omega
  have unlisted : ∀ c ∈ (eraseRanges l m).cells, c.1 ≠ a := fun c listed same => (eraseRanges_cells listed).2 r erased (same ▸ inside)
  rw [Mem.read_unlisted unlisted, memDefault, if_neg notRom, if_pos flash]

/-! ## SRAM zeroed (R409) -/

/-- Whether an address lies in a bank of SRAM. -/
def inBank (k : Fin 8) (a : Nat) : Prop := 0x20000000 + k.val * 0x10000 ≤ a ∧ a < 0x20010000 + k.val * 0x10000

/-- Outside a bank that was zeroed memory reads as before. -/
theorem Mem.read_zeroBank_other {m : Mem} {k : Fin 8} {a : Nat} (formed : m.wf = true) (outside : ¬ inBank k a) :
    (m.zeroBank k).read a = m.read a := by
  have sorted := ((Mem.wf_iff m).1 formed).1
  have kept : (!(decide (0x20000000 + k.val * 0x10000 ≤ a) && decide (a < 0x20010000 + k.val * 0x10000))) = true := by
    unfold inBank at outside
    simp only [Bool.not_eq_true', Bool.and_eq_false_iff, decide_eq_false_iff_not]
    omega
  rw [Mem.read, Mem.zeroBank, getCell_filter (q := fun a => !(decide (0x20000000 + k.val * 0x10000 ≤ a) && decide (a < 0x20010000 + k.val * 0x10000)))
    sorted kept, memDefault_set _ _ _ _ outside, Mem.read]

/-- What zeroing banks leaves listed, and how often their contents count as lost: nothing in them, and not at all. -/
theorem zeroBanks_cells {l : List (Fin 8)} {m : Mem} {k : Fin 8} (zeroed : k ∈ l ∨ ((∀ c ∈ m.cells, ¬ inBank k c.1) ∧ m.lost[k] = 0)) :
    (∀ c ∈ (l.foldl Mem.zeroBank m).cells, ¬ inBank k c.1) ∧ (l.foldl Mem.zeroBank m).lost[k] = 0 := by
  induction l generalizing m with
  | nil => exact zeroed.resolve_left List.not_mem_nil
  | cons j t ih =>
    refine ih ?_
    by_cases same : k = j
    · refine .inr ⟨fun c listed inside => ?_, by simp [Mem.zeroBank, same]⟩
      have outside := (List.mem_filter.1 listed).2
      subst same
      unfold inBank at inside
      simp only [Bool.not_eq_true', Bool.and_eq_false_iff, decide_eq_false_iff_not] at outside
      omega
    · rcases zeroed with listed | ⟨unlisted, kept⟩
      · exact .inl ((List.mem_cons.1 listed).resolve_left same)
      · have apart : j.val ≠ k.val := fun h => same (Fin.ext h.symm)
        refine .inr ⟨fun c listed => unlisted c (List.mem_of_mem_filter listed), ?_⟩
        have unset := Vector.getElem_set_ne (xs := m.lost) (x := 0) j.isLt k.isLt apart
        exact unset.trans kept

/-- Zeroed SRAM reads zero (R409). -/
theorem read_zeroSram {m : Mem} {a : Nat} (low : 0x20000000 ≤ a) (high : a < 0x20080000) : (zeroSram m).read a = 0 := by
  have bank : (a - 0x20000000) / 0x10000 < 8 := by omega
  obtain ⟨unlisted, fresh⟩ := zeroBanks_cells (m := m) (k := ⟨_, bank⟩) (.inl (mem_idx _))
  have inside : inBank ⟨_, bank⟩ a := by unfold inBank; dsimp only; omega
  have notFlash : ¬ (0x08000000 ≤ a ∧ a < 0x08200000) := by omega
  have notRom : ¬ a < 0x10000 := by omega
  rw [zeroSram, Mem.read_unlisted fun c listed same => unlisted c listed (same ▸ inside), memDefault, if_neg notRom, if_neg notFlash,
    dif_pos ⟨low, high⟩]
  exact if_pos fresh

/-- Zeroing the SRAM leaves every address outside it as it was. -/
theorem read_zeroSram_other {m : Mem} {a : Nat} (formed : m.wf = true) (outside : a < 0x20000000 ∨ 0x20080000 ≤ a) :
    (zeroSram m).read a = m.read a := by
  have noBank : ∀ k, ¬ inBank k a := by unfold inBank; omega
  have each : ∀ (l : List (Fin 8)) (m : Mem), m.wf = true → (l.foldl Mem.zeroBank m).read a = m.read a := by
    intro l
    induction l with
    | nil => exact fun _ _ => rfl
    | cons k t ih => exact fun m formed => (ih _ (Mem.wf_zeroBank m k formed)).trans (Mem.read_zeroBank_other formed (noBank k))
  exact each _ m formed

/-! ## Bytes read together -/

/-- Ranges read alike where each byte does. -/
theorem Mem.readN_congr {m m' : Mem} {a n : Nat} (same : ∀ x, a ≤ x → x < a + n → m.read x = m'.read x) : m.readN a n = m'.readN a n := by
  induction n generalizing a with
  | zero => rfl
  | succ n ih => rw [Mem.readN, Mem.readN, same a (Nat.le_refl a) (by omega), ih fun x low high => same x (by omega) (by omega)]

theorem Mem.length_readN (m : Mem) (a n : Nat) : (m.readN a n).length = n := by
  induction n generalizing a with
  | zero => rfl
  | succ n ih => rw [Mem.readN, List.length_cons, ih]

/-- The first bytes of a range. -/
theorem Mem.take_readN (m : Mem) (a : Nat) {k n : Nat} (fits : k ≤ n) : (m.readN a n).take k = m.readN a k := by
  induction n generalizing a k with
  | zero => rw [Nat.le_zero.1 fits]; rfl
  | succ n ih =>
    cases k with
    | zero => rfl
    | succ k => rw [Mem.readN, List.take_succ_cons, ih _ (Nat.le_of_succ_le_succ fits)]; rfl

/-- A range apart from the bytes written reads as before. -/
theorem Mem.readN_writeN_other {m : Mem} {a b n : Nat} {l : List Byte} (formed : m.wf = true) (apart : b + n ≤ a ∨ a + l.length ≤ b) :
    (m.writeN a l).readN b n = m.readN b n :=
  Mem.readN_congr fun x low high => Mem.read_writeN_other m a l formed (by omega)

/-- The bytes written are read where their count is named. -/
theorem Mem.readN_writeN_length {m : Mem} {a n : Nat} {l : List Byte} (formed : m.wf = true) (length : l.length = n) :
    (m.writeN a l).readN a n = l := length ▸ Mem.readN_writeN_same m a l formed

/-- Eight bytes that do not all read 0xFF. -/
theorem all_ones_iff {l : List Byte} {n : Nat} (length : l.length = n) : l.all (· == 0xFF) = true ↔ l = List.replicate n 0xFF := by
  rw [List.eq_replicate_iff, List.all_eq_true]
  exact ⟨fun h => ⟨length, fun b listed => eq_of_beq (h b listed)⟩, fun h b listed => beq_iff_eq.2 (h.2 b listed)⟩

/-- The number whose little-endian bytes are those of a number. -/
theorem leNat_leBytes (n v : Nat) : leNat (leBytes n v) = v % 256 ^ n := by
  induction n generalizing v with
  | zero => rw [Nat.pow_zero, Nat.mod_one]; rfl
  | succ n ih =>
    have split : v % 256 ^ (n + 1) = v % 256 + 256 * (v / 256 % 256 ^ n) := by rw [Nat.pow_succ', Nat.mod_mul]
    rw [leBytes, leNat, ih, BitVec.toNat_ofNat, split]

/-- The low bytes of a number. -/
theorem take_leBytes {k n : Nat} (fits : k ≤ n) (v : Nat) : (leBytes n v).take k = leBytes k v := by
  induction n generalizing k v with
  | zero => rw [Nat.le_zero.1 fits]; rfl
  | succ n ih =>
    cases k with
    | zero => rfl
    | succ k => rw [leBytes, List.take_succ_cons, ih (Nat.le_of_succ_le_succ fits)]; rfl

end Sys2Proof.Machine

/-!
Markers: the doublewords of a bank's status sector, as the boot ROM programs and reads them (R385, R388, R394).
-/

namespace Sys2Proof.Machine

open Sys2Proof

/-- What a bank holds, and its markers, depend on memory only. -/
theorem bank_congr {s t : State} (mem : t.mem = s.mem) (b : Bool) : (∀ off n, bankRead t b off n = bankRead s b off n) ∧
    (∀ off, markSet t b off = markSet s b off) ∧ (∀ off, markLow t b off = markLow s b off) ∧ fwHdr t b = fwHdr s b ∧
    attemptsOf t b = attemptsOf s b := by
  have read : ∀ off n, bankRead t b off n = bankRead s b off n := fun off n => by rw [bankRead, bankRead, mem]
  have set : ∀ off, markSet t b off = markSet s b off := fun off => by rw [markSet, markSet, read]
  have low : ∀ off, markLow t b off = markLow s b off := fun off => by rw [markLow, markLow, set, read]
  refine ⟨read, set, low, read 0 64, ?_⟩
  rw [attemptsOf, attemptsOf, funext set]

section
variable {s : State} {b : Bool} {off lo : Nat} (formed : memOk s)
include formed

/-- A marker that was programmed reads what it was programmed with. -/
theorem bankRead_programMark : bankRead (programMark b off lo s) b (markOff off) 8 = leBytes 8 lo :=
  Mem.readN_writeN_length formed (length_leBytes 8 lo)

/-- A marker programmed with a word is set: its high word is zero. -/
theorem markSet_programMark (word : lo < 2 ^ 32) : markSet (programMark b off lo s) b off = true := by
  have last : (0 : Byte) ∈ leBytes 8 lo := by
    have top : lo / 256 / 256 / 256 / 256 / 256 / 256 / 256 = 0 := by omega
    simp [leBytes, top]
  rw [markSet, bankRead_programMark formed]
  exact List.any_eq_true.2 ⟨0, last, rfl⟩

/-- A marker programmed with a word shows it. -/
theorem markLow_programMark (word : lo < 2 ^ 32) : markLow (programMark b off lo s) b off = lo := by
  have read := bankRead_programMark (b := b) (off := off) (lo := lo) formed
  have first : bankRead (programMark b off lo s) b (markOff off) 4 = leBytes 4 lo := by
    rw [bankRead, ← Mem.take_readN _ _ (by decide : 4 ≤ 8), ← bankRead, read, take_leBytes (by decide)]
  rw [markLow, markSet_programMark formed word, if_pos rfl, first, leNat_leBytes]
  exact Nat.mod_eq_of_lt word

/-- Programming a marker leaves every byte outside its doubleword. -/
theorem read_programMark_other {x : Nat} (outside : x < bankBase b + markOff off ∨ bankBase b + markOff off + 8 ≤ x) :
    (programMark b off lo s).mem.read x = s.mem.read x :=
  Mem.read_writeN_other s.mem _ _ formed (by rwa [length_leBytes])

/-- Programming a marker leaves the other markers of its bank. -/
theorem markSet_programMark_other {k : Nat} (apart : k + 8 ≤ off ∨ off + 8 ≤ k) : markSet (programMark b off lo s) b k = markSet s b k := by
  have read : bankRead (programMark b off lo s) b (markOff k) 8 = bankRead s b (markOff k) 8 :=
    Mem.readN_writeN_other formed (by rw [length_leBytes]; unfold markOff; omega)
  rw [markSet, read, markSet]

/-- Programming a marker leaves the header of its bank. -/
theorem fwHdr_programMark : fwHdr (programMark b off lo s) b = fwHdr s b :=
  Mem.readN_writeN_other formed (.inl (by unfold markOff; omega))

end

end Sys2Proof.Machine

/-!
Flash commands, and the firmware check's engine (R380 to R384, R389, R390).
-/

namespace Sys2Proof.Machine

open Sys2Proof

/-! ## Flash commands (R381, R382) -/

/-- BOOT_FL_CMD with the operation of PROGRAM or ERASE. -/
theorem exec_flashCmd (m : Mid) (e : Bool) (s : State) :
    exec (if e then .erase m else .program m) s = bootBus m 0x08C (if e then 2 else 1) s := by
  cases e <;> rfl

section
variable {s : State} (m : Mid) (e : Bool)

/-- A command of the flash interface while BUSY is refused (R382). -/
theorem effFlCmd_busy (busy : s.boot.flRun.isSome = true) : effFlCmd m (if e then 2 else 1) s = none := if_pos busy

section
variable (idle : s.boot.flRun = none)
include idle

/-- A command of the flash interface while idle, by where its address lies (R381, R382). -/
theorem effFlCmd_idle : effFlCmd m (if e then 2 else 1) s = match flashLoc s.boot.flAddr.toNat with
    | none => some (flashEnd 3 s)
    | some (b, off) => some (if flashProt s m b off then flashEnd 1 s else updBoot (fence s) (fun t => { t with
        flRun := some { erase := e, addr := t.flAddr, lo := t.flLo, hi := t.flHi }, flDone := false })) := by
  have op : fld (if e then 2 else 1) 1 0 = if e then 2 else 1 := by cases e <;> decide
  have runs : (fld (if e then 2 else 1) 1 0 = 0 || fld (if e then 2 else 1) 1 0 = 3) = false := by cases e <;> decide
  have erases : decide (fld (if e then 2 else 1) 1 0 = 2) = e := by cases e <;> decide
  simp only [effFlCmd, idle, Option.isSome_none, Bool.false_eq_true, if_false, runs, erases]
  cases flashLoc s.boot.flAddr.toNat with
  | none => rfl
  | some p => exact (apply_ite some _ _ _).symm

/-- A command that ends at once changes BOOT_FL_STAT only. -/
theorem flashEnd_idle (res : Nat) : flashEnd res s = { s with boot := { s.boot with flDone := true, flRes := res } } := by
  rw [flashEnd, updBoot, ← idle]

end
end

/-- The undefined doubleword of a PROGRAM that did not verify (R382). -/
theorem flashHurt_program {f : FlashRun} (programs : f.erase = false) : flashHurt f = [(f.addr.toNat / 8 * 8, 8)] := by
  rw [flashHurt, programs, if_neg Bool.false_ne_true]

/-- The sector that an ERASE sets to ones, and with sector 0 of a bank its status sector (R381). -/
theorem flashHurt_erase {f : FlashRun} (erases : f.erase = true) : flashHurt f = if f.addr.toNat / 4096 * 4096 % 0x100000 = 0
    then [(f.addr.toNat / 4096 * 4096, 4096), (f.addr.toNat / 4096 * 4096 + 0xCF000, 4096)] else [(f.addr.toNat / 4096 * 4096, 4096)] := by
  rw [flashHurt, erases, if_pos rfl]

section
variable {s : State} {f : FlashRun} (runs : s.boot.flRun = some f)
include runs

/-- The end of a PROGRAM that verifies, by whether its doubleword was erased (R382). -/
theorem flashDone_program (programs : f.erase = false) : exec (.flashDone true) s = .next (
    if s.mem.readN (f.addr.toNat / 8 * 8) 8 = List.replicate 8 0xFF then
      flashEnd 0 { s with mem := s.mem.writeN (f.addr.toNat / 8 * 8) (leBytes 4 f.lo.toNat ++ leBytes 4 f.hi.toNat) }
    else flashEnd 2 (hurt [(f.addr.toNat / 8 * 8, 8)] s)) := by
  have erased := all_ones_iff (Mem.length_readN s.mem (f.addr.toNat / 8 * 8) 8)
  refine congrArg Host.Outcome.next ?_
  simp only [flashFinish, runs, programs, flashHurt_program programs, Bool.true_and, Bool.false_or, Bool.not_eq_true', Bool.false_eq_true,
    if_false]
  by_cases ones : s.mem.readN (f.addr.toNat / 8 * 8) 8 = List.replicate 8 0xFF
  · rw [erased.2 ones, if_pos ones, if_neg (by decide)]
  · rw [Bool.eq_false_iff.2 (fun h => ones (erased.1 h)), if_neg ones, if_pos rfl]

/-- The end of an ERASE that verifies (R380, R382). -/
theorem flashDone_erase (erases : f.erase = true) : exec (.flashDone true) s =
    .next (flashEnd 0 { s with mem := eraseRanges (flashHurt f) s.mem }) := by
  refine congrArg Host.Outcome.next ?_
  simp only [flashFinish, runs, erases, Bool.true_and, Bool.true_or, Bool.not_true, Bool.false_eq_true, if_false, if_true]

end

/-- A doubleword left undefined, and no other byte. -/
theorem hurt_one (a n : Nat) (s : State) : hurt [(a, n)] s = { s with mem := s.mem.writeN a (freeBytes s.free n), free := s.free + n } := rfl

theorem length_freeBytes (k n : Nat) : (freeBytes k n).length = n := by
  rw [freeBytes, List.length_map, List.length_range]

/-- An ERASE in flash sets its sector to ones (R380). -/
theorem erase_reads {f : FlashRun} {m : Mem} {x : Nat} (erases : f.erase = true) (low : 0x08000000 ≤ f.addr.toNat)
    (high : f.addr.toNat < 0x08200000) (sector : x / 4096 = f.addr.toNat / 4096) : (eraseRanges (flashHurt f) m).read x = 0xFF := by
  have listed : (f.addr.toNat / 4096 * 4096, 4096) ∈ flashHurt f := by
    rw [flashHurt_erase erases]
    split <;> exact List.mem_cons_self
  exact read_eraseRanges listed (by dsimp only; omega) (by omega)

/-- An ERASE leaves what is outside its sector, and outside the status sector with sector 0 of a bank (R381). -/
theorem erase_leaves {f : FlashRun} {m : Mem} {x : Nat} (erases : f.erase = true) (formed : m.wf = true)
    (sector : x / 4096 ≠ f.addr.toNat / 4096) (status : f.addr.toNat / 4096 % 256 = 0 → x / 4096 ≠ f.addr.toNat / 4096 + 0xCF) :
    (eraseRanges (flashHurt f) m).read x = m.read x := by
  refine read_eraseRanges_other formed fun r listed => ?_
  rw [flashHurt_erase erases] at listed
  split at listed
  · have other := status (by omega)
    rcases List.mem_pair.1 listed with rfl | rfl <;> dsimp only <;> omega
  · rw [List.mem_singleton.1 listed]
    dsimp only
    omega

/-! ## The check engine (R384) -/

section
variable {s : State} {d : W32}

/-- BOOT_FWCHK by an operation that starts a check: it starts while BOOTROM reads 1 and the engine is idle (R384). -/
theorem effFwchk_starts {b full : Bool} (op : fld d 9 8 = if full then 2 else 1) (bank : bit d 0 = b) : effFwchk d s =
    { s with boot := { s.boot with fwArg := d &&& 0x11
                                   fw := if s.boot.bootRom = true ∧ s.boot.fw = .idle then .busy b full else s.boot.fw } } := by
  simp only [effFwchk, updBoot, op, bank]
  cases rom : s.boot.bootRom
  · simp only [Bool.not_false, if_true, Bool.false_eq_true, false_and, if_false]
  · simp only [Bool.not_true, Bool.false_eq_true, if_false, true_and]
    cases full <;> cases s.boot.fw <;> rfl

/-- FW_CONFIRM ends the engine's wait (R384). -/
theorem effFwchk_confirms {b : Bool} (op : fld d 9 8 = 3) (rom : s.boot.bootRom = true) (waits : s.boot.fw = .wait b) : effFwchk d s =
    { s with boot := { s.boot with fwArg := d &&& 0x11, fw := .confirmed b (bit d 4) } } := by
  simp only [effFwchk, updBoot, op, rom, waits, Bool.not_true, Bool.false_eq_true, if_false]

end

/-- A register write of the boot controller by MID 0. -/
theorem bootBus_reaches {m : Mid} {off : Nat} {d : W32} {s t : State} (h : reaches m .boot (0x40050000 + off) d s = true)
    (effect : bootWrite m off d (served m .boot s) = some t) : bootBus m off d s = .next (okay m 0 t) :=
  congrArg Host.Outcome.next (busWrite_reaches h effect)

/-- The end of a check gives the bank its code, and does no more unless the boot ROM was checking the bank it chose (R384). -/
theorem fwFinish_code {s : State} {b full : Bool} (code : Nat) (ends : full = false ∨ booting s = false ∨ s.boot.bank ≠ b) :
    fwFinish b full code s = { s with boot := { s.boot with
      fw := .idle, digest := fwDigest s b full, banks := upd s.boot.banks (bankIdx b) (fun k => { k with fwCode := code }) } } := by
  have notChosen : ¬ (full && booting s && s.cfg.baseDone && decide (s.boot.bank = b)) = true := by
    intro h
    simp only [Bool.and_eq_true, decide_eq_true_eq] at h
    obtain ⟨⟨⟨isFull, boots⟩, -⟩, chosen⟩ := h
    rcases ends with h | h | h
    · exact absurd (h.symm.trans isFull) Bool.false_ne_true
    · exact absurd (h.symm.trans boots) Bool.false_ne_true
    · exact h chosen
  exact if_neg notChosen

end Sys2Proof.Machine

/-!
Release and image failure, and the end of the boot ROM's check (R377, R381 to R384, R389, R390, R394).
-/

namespace Sys2Proof.Machine

open Sys2Proof

/-! ## Release (R377, R389, R390, R394) -/

/-- The groom core's start changes the power controller only, and of the host core nothing (R390). -/
theorem groomStart_frame (pc : W32) (s : State) : ∃ P, groomStart pc s = { s with pwr := P } ∧ P.hostOn = s.pwr.hostOn ∧
    P.hostPc = s.pwr.hostPc ∧ P.hostSp = s.pwr.hostSp := by
  unfold groomStart
  split <;> exact ⟨_, rfl, rfl, rfl, rfl⟩

theorem snapBanks_frame (s : State) : ∃ B, snapBanks s = { s with boot := { s.boot with banks := B } } := ⟨_, rfl⟩

theorem logEvent_frame (ev : Nat) (b : Bool) (reason code : Nat) (s : State) : ∃ H C N, logEvent ev b reason code s =
    { s with boot := { s.boot with hist := H, histCnt := C, histNew := N } } := ⟨_, _, _, rfl⟩

/-- The watchdogs at a release: in a trial the host's is enabled with the count of R377. -/
def releaseWdt (s : State) : Vector Wdt 2 :=
  if s.boot.trial then upd s.wdt (wdtOf .host) (fun q => { q with ctrl := merge q.ctrl 0x80000800 0x80003FFF }) else s.wdt

/-- The rollback floor at a release: a trial leaves it (R394). -/
def releaseFloor (s : State) : Nat := if s.boot.trial then s.boot.floor else max s.boot.floor (u8 (fwHdr s s.boot.bank) 0x0C)

/-- The state in which a release has set the host's watchdog or the floor. -/
def floored (s : State) : State := { s with wdt := releaseWdt s, boot := { s.boot with floor := releaseFloor s } }

theorem floored_eq (s : State) : (if s.boot.trial then updWdt s .host (fun q => { q with ctrl := merge q.ctrl 0x80000800 0x80003FFF })
    else updBoot s (fun t => { t with floor := max t.floor (u8 (fwHdr s s.boot.bank) 0x0C) })) = floored s := by
  unfold floored releaseWdt releaseFloor
  split
  · rfl
  · rfl

/-- The level, the status words and the event of a release of a bank (R389, R398). -/
def releaseLogged (b : Bool) (s : State) : State :=
  let s := snapBanks (updBoot s (fun t => { t with level := levelOf s, fwCode := 0 }))
  logEvent 1 b 0 s.boot.cfgCode s

theorem releaseLogged_frame (b : Bool) (s : State) : ∃ L B H C N, releaseLogged b s = { s with
    boot := { s.boot with level := L, fwCode := 0, banks := B, hist := H, histCnt := C, histNew := N } } := by
  unfold releaseLogged
  obtain ⟨B, shown⟩ := snapBanks_frame (updBoot s (fun t => { t with level := levelOf s, fwCode := 0 }))
  obtain ⟨H, C, N, logged⟩ := logEvent_frame 1 b 0 s.boot.cfgCode
    { s with boot := { s.boot with level := levelOf s, fwCode := 0, banks := B } }
  rw [shown]
  exact ⟨levelOf s, B, H, C, N, logged⟩

/-- The host core started by a release, and BOOT_STAT as it shows the release (R377, R390). -/
def hostReleased (pc : W32) (s : State) : State :=
  let s := updPwr s (fun p => { p with hostOn := true, hostPc := pc, hostSp := releaseSp s, hostA0 := bootStat s.boot })
  updBoot s (fun t => { t with bootRom := false, skip := 0, released := true, lastFail := 0 })

/-- The cores started by a release of an image with a header (R389, R390). -/
def coresReleased (h : List Byte) (s : State) : State :=
  let s := hostReleased (BitVec.ofNat 32 (0x0C000000 + u32 h 0x18)) s
  if u16 h 0x0E % 2 = 1 then groomStart (BitVec.ofNat 32 (0x0C000000 + u32 h 0x1C)) s else s

theorem release_eq (s : State) : release s = coresReleased (fwHdr s s.boot.bank) (releaseLogged s.boot.bank (floored s)) := by
  rw [← floored_eq]
  rfl

/-- What the start of the cores changes. -/
theorem coresReleased_frame (h : List Byte) (s : State) : ∃ P, coresReleased h s = { s with
      pwr := P, boot := { s.boot with bootRom := false, skip := 0, released := true, lastFail := 0 } } ∧
    P.hostOn = true ∧ P.hostPc = BitVec.ofNat 32 (0x0C000000 + u32 h 0x18) ∧ P.hostSp = releaseSp s := by
  unfold coresReleased
  generalize BitVec.ofNat 32 (0x0C000000 + u32 h 0x18) = pc
  split
  · obtain ⟨P, starts, on, at_pc, sp⟩ := groomStart_frame (BitVec.ofNat 32 (0x0C000000 + u32 h 0x1C)) (hostReleased pc s)
    exact ⟨P, starts, on, at_pc, sp⟩
  · exact ⟨_, rfl, rfl, rfl, rfl⟩

/-- What a release changes (R377, R390, R394). -/
theorem release_frame (s : State) : ∃ P L B H C N, release s = { s with
      pwr := P, wdt := releaseWdt s
      boot := { s.boot with floor := releaseFloor s, level := L, fwCode := 0, banks := B, hist := H, histCnt := C, histNew := N
                            bootRom := false, skip := 0, released := true, lastFail := 0 } } ∧
    P.hostOn = true ∧ P.hostPc = BitVec.ofNat 32 (0x0C000000 + u32 (fwHdr s s.boot.bank) 0x18) ∧ P.hostSp = releaseSp s := by
  obtain ⟨L, B, H, C, N, logged⟩ := releaseLogged_frame s.boot.bank (floored s)
  obtain ⟨P, cores, on, pc, sp⟩ := coresReleased_frame (fwHdr s s.boot.bank) (releaseLogged s.boot.bank (floored s))
  rw [logged] at sp
  rw [release_eq, cores, logged]
  exact ⟨P, L, B, H, C, N, rfl, on, pc, sp⟩

/-- A trial's watchdog runs, with the count of R377. -/
theorem trialWdt_fields (w : W32) : bit (merge w 0x80000800 0x80003FFF) 31 = true ∧ fld (merge w 0x80000800 0x80003FFF) 13 0 = 2048 := by
  have enable : bit (merge w 0x80000800 0x80003FFF) 31 = true := by simp [bit, merge]
  have count : (merge w 0x80000800 0x80003FFF).setWidth 14 = 0x800#14 := by
    rw [merge, BitVec.setWidth_or, BitVec.setWidth_and, BitVec.setWidth_and]
    have kept : (~~~(0x80003FFF : W32)).setWidth 14 = 0#14 := by decide
    rw [kept, BitVec.and_zero]
    decide
  refine ⟨enable, ?_⟩
  have field : fld (merge w 0x80000800 0x80003FFF) 13 0 = ((merge w 0x80000800 0x80003FFF).setWidth 14).toNat := by
    rw [fld, BitVec.toNat_setWidth]
    rfl
  rw [field, count]
  rfl

/-! ## Image failure (R389) -/

/-- After a reset nothing is released, and reset is held (R374, R378). -/
theorem resetDevice_held (c : Nat) (s : State) : (resetDevice c s).boot.released = false ∧ (resetDevice c s).boot.inReset = true := by
  obtain ⟨M, F, after⟩ := resetDevice_frame c s
  rw [after]
  exact ⟨rfl, rfl⟩

/-- The state in which the boot ROM has noted an image failure, and in a trial programmed the REJECT marker (R388, R389). -/
def failNoted (code : Nat) (s : State) : State :=
  let u := updBoot s (fun t => { t with skip := t.skip ||| (1#2 <<< (bankIdx s.boot.bank).val), lastFail := code })
  if s.boot.trial then programMark s.boot.bank 0x28 6 u else u

theorem failNoted_boot (code : Nat) (s : State) : (failNoted code s).boot =
    { s.boot with skip := s.boot.skip ||| (1#2 <<< (bankIdx s.boot.bank).val), lastFail := code } := by
  unfold failNoted
  cases s.boot.trial <;> rfl

/-- An image failure resets the device, and leaves the rollback floor (R389, R394). -/
theorem imageFail_held (code : Nat) (s : State) : (imageFail code s).boot.released = false ∧ (imageFail code s).boot.inReset = true ∧
    (imageFail code s).boot.floor = s.boot.floor := by
  obtain ⟨-, -, -, -, -, floor, -⟩ := resetDevice_boot 8 (logEvent 6 s.boot.bank 6 code (failNoted code s))
  have kept : (failNoted code s).boot.floor = s.boot.floor := by rw [failNoted_boot]
  obtain ⟨released, held⟩ := resetDevice_held 8 (logEvent 6 s.boot.bank 6 code (failNoted code s))
  exact ⟨released, held, floor.trans kept⟩

/-- The state in which a full check has ended with a code. -/
def checked (b : Bool) (code : Nat) (s : State) : State := { s with boot := { s.boot with
  fw := .idle, digest := fwDigest s b true, banks := upd s.boot.banks (bankIdx b) (fun k => { k with fwCode := code }) } }

/-- The end of the boot ROM's full check of the bank it chose releases the firmware, or is an image failure (R389, R390). -/
theorem fwFinish_chosen {s : State} {b : Bool} (code : Nat) (boots : booting s = true) (loaded : s.cfg.baseDone = true)
    (chosen : s.boot.bank = b) : fwFinish b true code s = if code = 0 then release (checked b code s)
      else imageFail code (updBoot (checked b code s) (fun t => { t with fwCode := code })) := by
  refine if_pos ?_
  have same : booting (checked b code s) = true := boots
  show (true && booting (checked b code s) && s.cfg.baseDone && decide (s.boot.bank = b)) = true
  rw [same, loaded, decide_eq_true chosen]
  rfl

/-- The end of a check by the engine that was busy on it (R384). -/
theorem fwCheckEnd_eq {s : State} {b full : Bool} (busy : s.boot.fw = .busy b full) : exec .fwCheckEnd s = .next (
    if full && !pkvUsable s && fwTo9 s b = 0 then updBoot s (fun t => { t with fw := .wait b, digest := fwDigest s b true })
    else fwFinish b full (fwCheck s b full) s) := by
  refine congrArg Host.Outcome.next ?_
  simp only [busy]

/-! ## Flash commands and the firmware check as stated -/

section
variable {s : State} {m : Mid} {e : Bool} (h : reaches m .boot (0x40050000 + 0x08C) (if e then 2 else 1) s = true) (host : m = .hostS)
include h host

/-- A command of the flash interface by MID 0, by what `effFlCmd` answers. -/
theorem flashCmd_accepted {t : State} (effect : effFlCmd m (if e then 2 else 1) (served m .boot s) = some t) :
    exec (if e then .erase m else .program m) s = .next (okay m 0 t) := by
  subst host
  rw [exec_flashCmd]
  exact bootBus_reaches h effect

theorem flashCmd_busy (busy : s.boot.flRun.isSome = true) : exec (if e then .erase m else .program m) s =
    .next (respond (served m .boot s) m (BitVec.ofNat 32 (0x40050000 + 0x08C)) .write .slverr 0) := by
  subst host
  have refused := effFlCmd_busy .hostS e (s := served .hostS .boot s) (by rwa [served_boot])
  rw [exec_flashCmd]
  exact congrArg Host.Outcome.next (busWrite_refused h refused)

/-- The end of a command that ends at once, as the bus answers it. -/
theorem flashCmd_ended {res : Nat} (idle : s.boot.flRun = none)
    (effect : effFlCmd m (if e then 2 else 1) (served m .boot s) = some (flashEnd res (served m .boot s))) :
    exec (if e then .erase m else .program m) s =
      .next (okay m 0 { served m .boot s with boot := { s.boot with flDone := true, flRes := res } }) := by
  have idleServed : (served m .boot s).boot.flRun = none := by rwa [served_boot]
  have ended := flashEnd_idle (s := served m .boot s) idleServed res
  rw [served_boot] at ended
  rw [← ended]
  exact flashCmd_accepted h host effect

/-- A command outside both banks ends ADDR (R382). -/
theorem flashCmd_nowhere (idle : s.boot.flRun = none) (nowhere : flashLoc s.boot.flAddr.toNat = none) :
    exec (if e then .erase m else .program m) s =
      .next (okay m 0 { served m .boot s with boot := { s.boot with flDone := true, flRes := 3 } }) := by
  refine flashCmd_ended h host idle ?_
  rw [effFlCmd_idle m e (by rwa [served_boot]), served_boot, nowhere]

/-- A command that R381 bars ends PROT. -/
theorem flashCmd_barred {b : Bool} {off : Nat} (idle : s.boot.flRun = none) (there : flashLoc s.boot.flAddr.toNat = some (b, off))
    (barred : flashProt s m b off = true) : exec (if e then .erase m else .program m) s =
      .next (okay m 0 { served m .boot s with boot := { s.boot with flDone := true, flRes := 1 } }) := by
  have barredServed : flashProt (served m .boot s) m b off = true := by
    rw [flashProt, served_boot]
    exact barred
  refine flashCmd_ended h host idle ?_
  rw [effFlCmd_idle m e (by rwa [served_boot]), served_boot, there]
  exact congrArg some (if_pos barredServed)

/-- Another command waits for its end, and an entry to SLUMBER is aborted (R382, log 79). -/
theorem flashCmd_started {b : Bool} {off : Nat} (idle : s.boot.flRun = none) (there : flashLoc s.boot.flAddr.toNat = some (b, off))
    (free : flashProt s m b off = false) : exec (if e then .erase m else .program m) s = .next (okay m 0 { fence (served m .boot s) with
      boot := { s.boot with flRun := some { erase := e, addr := s.boot.flAddr, lo := s.boot.flLo, hi := s.boot.flHi }, flDone := false } }) := by
  have freeServed : flashProt (served m .boot s) m b off = false := by
    rw [flashProt, served_boot]
    exact free
  have boot : (fence (served m .boot s)).boot = s.boot := by
    obtain ⟨P, Q, fenced⟩ := fence_frame (served m .boot s)
    rw [fenced, served_boot]
  refine flashCmd_accepted h host ?_
  rw [effFlCmd_idle m e (by rwa [served_boot]), served_boot, there]
  refine congrArg some ((if_neg (by rw [freeServed]; exact Bool.false_ne_true)).trans ?_)
  rw [updBoot, boot]

end

/-- In the released bank everything below the parameter sectors is barred (R381). -/
theorem flashProt_active {s : State} {m : Mid} {off : Nat} (released : s.boot.released = true) (low : off < 0xE8000) :
    flashProt s m s.boot.bank off = true := by
  simp only [flashProt, released, low, decide_true, Bool.and_self, Bool.true_or]

section
variable {s : State} {f : FlashRun} (runs : s.boot.flRun = some f)
include runs

/-- A verified PROGRAM of an erased doubleword writes it and nothing else (R382). -/
theorem program_erased (programs : f.erase = false) (formed : memOk s) {a : Nat} (at_a : f.addr.toNat / 8 * 8 = a)
    (erased : s.mem.readN a 8 = List.replicate 8 0xFF) : ∃ t, exec (.flashDone true) s = .next t ∧
      t = { s with mem := t.mem, boot := { s.boot with flRun := none, flDone := true, flRes := 0 } } ∧
      t.mem.readN a 8 = leBytes 4 f.lo.toNat ++ leBytes 4 f.hi.toNat ∧ ∀ x, x < a ∨ a + 8 ≤ x → t.mem.read x = s.mem.read x := by
  have length : (leBytes 4 f.lo.toNat ++ leBytes 4 f.hi.toNat).length = 8 := by simp only [List.length_append, length_leBytes]
  have done := flashDone_program runs programs
  rw [at_a, if_pos erased] at done
  exact ⟨_, done, rfl, Mem.readN_writeN_length formed length, fun x apart => Mem.read_writeN_other s.mem a _ formed (by rwa [length])⟩

/-- A PROGRAM of a doubleword that is not erased ends VERIFY, and leaves that doubleword undefined (R382). -/
theorem program_unerased (programs : f.erase = false) (formed : memOk s) {a : Nat} (at_a : f.addr.toNat / 8 * 8 = a)
    (used : s.mem.readN a 8 ≠ List.replicate 8 0xFF) : ∃ t, exec (.flashDone true) s = .next t ∧
      t = { s with mem := t.mem, free := t.free, boot := { s.boot with flRun := none, flDone := true, flRes := 2 } } ∧
      ∀ x, x < a ∨ a + 8 ≤ x → t.mem.read x = s.mem.read x := by
  have done := flashDone_program runs programs
  rw [at_a, if_neg used, hurt_one] at done
  exact ⟨_, done, rfl, fun x apart => Mem.read_writeN_other s.mem a _ formed (by rwa [length_freeBytes])⟩

/-- A verified ERASE leaves its sector reading 0xFF, and the rest but the status sector as it was (R380 to R382). -/
theorem erase_done (erases : f.erase = true) (low : 0x08000000 ≤ f.addr.toNat) (high : f.addr.toNat < 0x08200000) :
    ∃ t, exec (.flashDone true) s = .next t ∧
      t = { s with mem := t.mem, boot := { s.boot with flRun := none, flDone := true, flRes := 0 } } ∧
      (∀ x, x / 4096 = f.addr.toNat / 4096 → t.mem.read x = 0xFF) ∧
      (memOk s → ∀ x, x / 4096 ≠ f.addr.toNat / 4096 → (f.addr.toNat / 4096 % 256 = 0 → x / 4096 ≠ f.addr.toNat / 4096 + 0xCF) →
        t.mem.read x = s.mem.read x) :=
  ⟨_, flashDone_erase runs erases, rfl, fun _ => erase_reads erases low high, fun formed _ => erase_leaves erases formed⟩

end

/-- HEADER_CHECK and FULL_CHECK by MID 0 (R384). -/
theorem fwCheck_starts {s : State} {m : Mid} {b full : Bool}
    (h : reaches m .boot (0x40050000 + 0x070) (put (if full then 2 else 1) 8 ||| putB b 0) s = true) (host : m = .hostS) :
    exec (if full then .fullCheck m b else .headerCheck m b) s = .next (okay m 0 { served m .boot s with boot := { s.boot with
      fwArg := putB b 0, fw := if s.boot.bootRom = true ∧ s.boot.fw = .idle then .busy b full else s.boot.fw } }) := by
  subst host
  have op : fld (put (if full then 2 else 1) 8 ||| putB b 0) 9 8 = if full then 2 else 1 := by cases full <;> cases b <;> decide
  have bank : bit (put (if full then 2 else 1) 8 ||| putB b 0) 0 = b := by cases full <;> cases b <;> decide
  have arg : (put (if full then 2 else 1) 8 ||| putB b 0) &&& 0x11 = putB b 0 := by cases full <;> cases b <;> decide
  have starts := effFwchk_starts (s := served .hostS .boot s) op bank
  rw [arg, served_boot] at starts
  have command : exec (if full then .fullCheck .hostS b else .headerCheck .hostS b) s =
      bootBus .hostS 0x070 (put (if full then 2 else 1) 8 ||| putB b 0) s := by cases full <;> rfl
  rw [command, ← starts]
  exact bootBus_reaches h rfl

/-- FW_CONFIRM by MID 0 (R384). -/
theorem fwConfirm_ends {s : State} {m : Mid} {b pass : Bool} (h : reaches m .boot (0x40050000 + 0x070) (put 3 8 ||| putB pass 4) s = true)
    (host : m = .hostS) (rom : s.boot.bootRom = true) (waits : s.boot.fw = .wait b) : exec (.fwConfirm m pass) s =
      .next (okay m 0 { served m .boot s with boot := { s.boot with fwArg := putB pass 4, fw := .confirmed b pass } }) := by
  subst host
  have op : fld (put 3 8 ||| putB pass 4) 9 8 = 3 := by cases pass <;> decide
  have passed : bit (put 3 8 ||| putB pass 4) 4 = pass := by cases pass <;> decide
  have arg : (put 3 8 ||| putB pass 4) &&& 0x11 = putB pass 4 := by cases pass <;> decide
  have confirms := effFwchk_confirms (s := served .hostS .boot s) (b := b) op (by rwa [served_boot]) (by rwa [served_boot])
  rw [arg, passed, served_boot] at confirms
  rw [← confirms]
  exact bootBus_reaches h rfl

section
variable {s : State} {b full : Bool} (busy : s.boot.fw = .busy b full)
include busy

/-- A full check with every step before 10 passed waits while the PKV is unusable (R384). -/
theorem fwCheckEnd_waits (isFull : full = true) (unusable : pkvUsable s = false) (passed : fwTo9 s b = 0) : exec .fwCheckEnd s =
    .next { s with boot := { s.boot with fw := .wait b, digest := imgDigest (fwImage s b) (fwImage s b).length } } := by
  have waits : (full && !pkvUsable s && decide (fwTo9 s b = 0)) = true := by rw [isFull, unusable, passed]; rfl
  have digest : fwDigest s b true = imgDigest (fwImage s b) (fwImage s b).length := if_pos (by rw [passed]; rfl)
  rw [fwCheckEnd_eq busy, if_pos waits, digest, updBoot]

/-- Any other check ends (R384). -/
theorem fwCheckEnd_finishes (ends : full = false ∨ pkvUsable s = true ∨ fwTo9 s b ≠ 0) :
    exec .fwCheckEnd s = .next (fwFinish b full (fwCheck s b full) s) := by
  have finishes : ¬ (full && !pkvUsable s && decide (fwTo9 s b = 0)) = true := by
    intro waits
    simp only [Bool.and_eq_true, Bool.not_eq_true', decide_eq_true_eq] at waits
    obtain ⟨⟨isFull, unusable⟩, passed⟩ := waits
    rcases ends with h | h | h
    · exact absurd (h.symm.trans isFull) Bool.false_ne_true
    · exact absurd (unusable.symm.trans h) Bool.false_ne_true
    · exact h passed
  rw [fwCheckEnd_eq busy, if_neg finishes]

/-- The end of a check gives its bank the code (R384). -/
theorem fwCheckEnd_code (ends : full = false ∨ pkvUsable s = true ∨ fwTo9 s b ≠ 0)
    (apart : full = false ∨ booting s = false ∨ s.boot.bank ≠ b) :
    ∃ t, exec .fwCheckEnd s = .next t ∧ t = { s with boot := { s.boot with fw := .idle, digest := t.boot.digest, banks := t.boot.banks } } ∧
      t.boot.banks[bankIdx b] = { s.boot.banks[bankIdx b] with fwCode := fwCheck s b full } ∧
      t.boot.banks[bankIdx (!b)] = s.boot.banks[bankIdx (!b)] := by
  have other : bankIdx (!b) ≠ bankIdx b := by cases b <;> decide
  rw [fwCheckEnd_finishes busy ends, fwFinish_code _ apart]
  generalize fwCheck s b full = code
  exact ⟨_, rfl, rfl, upd_same .., upd_other _ _ _ _ other⟩

section
variable (isFull : full = true) (usable : pkvUsable s = true) (boots : booting s = true) (loaded : s.cfg.baseDone = true) (chosen : s.boot.bank = b)
include isFull usable boots loaded chosen

/-- The boot ROM's full check of the bank it chose, passed, releases the firmware (R389, R390). -/
theorem fwCheckEnd_releases (passed : fwCheck s b true = 0) : ∃ t, exec .fwCheckEnd s = .next t ∧ t.boot.released = true ∧
    t.boot.bootRom = false ∧ t.boot.skip = 0 ∧ t.pwr.hostOn = true ∧ t.pwr.hostPc = BitVec.ofNat 32 (0x0C000000 + u32 (fwHdr s b) 0x18) ∧
    t.pwr.hostSp = releaseSp s ∧ t.mem = s.mem ∧ t.boot.floor = (if s.boot.trial then s.boot.floor else max s.boot.floor (u8 (fwHdr s b) 0x0C)) ∧
    (s.boot.trial = true → bit t.wdt[0].ctrl 31 = true ∧ fld t.wdt[0].ctrl 13 0 = 2048) ∧ (s.boot.trial = false → t.wdt = s.wdt) := by
  subst isFull chosen
  obtain ⟨P, L, B, H, C, N, released, on, pc, sp⟩ := release_frame (checked s.boot.bank 0 s)
  have header : fwHdr (checked s.boot.bank 0 s) s.boot.bank = fwHdr s s.boot.bank := rfl
  have ends : exec .fwCheckEnd s = .next (release (checked s.boot.bank 0 s)) := by
    rw [fwCheckEnd_finishes busy (.inr (.inl usable)), passed, fwFinish_chosen 0 boots loaded rfl, if_pos rfl]
  rw [released] at ends
  refine ⟨_, ends, rfl, rfl, rfl, on, ?pc, sp, rfl, ?floor, fun trial => ?runs, fun none => ?kept⟩
  case pc => exact pc
  case floor => rfl
  case runs =>
    have wdt : releaseWdt (checked s.boot.bank 0 s) = upd s.wdt (wdtOf .host) (fun q => { q with ctrl := merge q.ctrl 0x80000800 0x80003FFF }) :=
      if_pos trial
    have host : (releaseWdt (checked s.boot.bank 0 s))[0].ctrl = merge s.wdt[0].ctrl 0x80000800 0x80003FFF := by
      rw [wdt]
      exact congrArg Wdt.ctrl (upd_same s.wdt 0 _)
    exact host ▸ trialWdt_fields _
  case kept => exact if_neg (by rw [show (checked s.boot.bank 0 s).boot.trial = false from none]; exact Bool.false_ne_true)

/-- The boot ROM's full check of the bank it chose, failed, is an image failure (R389). -/
theorem fwCheckEnd_fails (failed : fwCheck s b true ≠ 0) : ∃ t, exec .fwCheckEnd s = .next t ∧ t.boot.released = false ∧
    t.boot.lastRst = 8 ∧ t.boot.lastFail = fwCheck s b true ∧ t.boot.skip = s.boot.skip ||| (1#2 <<< (bankIdx b).val) ∧
    t.boot.floor = s.boot.floor := by
  subst isFull chosen
  generalize code_eq : fwCheck s s.boot.bank true = code at failed
  have ends : exec .fwCheckEnd s =
      .next (imageFail code (updBoot (checked s.boot.bank code s) (fun t => { t with fwCode := code }))) := by
    rw [fwCheckEnd_finishes busy (.inr (.inl usable)), code_eq, fwFinish_chosen code boots loaded rfl, if_neg failed]
  obtain ⟨cause, fail, skip⟩ := imageFail_frame code (updBoot (checked s.boot.bank code s) (fun t => { t with fwCode := code }))
  obtain ⟨released, -, floor⟩ := imageFail_held code (updBoot (checked s.boot.bank code s) (fun t => { t with fwCode := code }))
  exact ⟨_, ends, released, cause, fail, skip, floor⟩

end
end

/-- Settles O55: a command of the flash interface ends or waits by the cases of `effFlCmd_idle`, its end by `flashDone_program` and
`flashDone_erase`; a check that ends gives the bank its code, and in start-up of the chosen bank goes on to `release_frame` or `imageFail_frame`. -/
theorem flashAndCheck : Obligations.FlashAndCheck := by
  unfold Obligations.FlashAndCheck
  refine fun s => ⟨fun m e h host => ?command, fun released off low => ?active, fun f runs programs formed => ?program,
    fun f runs erases low high => ?erase, fun m b full h host => ?check, fun m b pass h host rom waits => ?confirm, fun b full busy => ?ends⟩
  case command =>
    exact ⟨flashCmd_busy h host, flashCmd_nowhere h host, fun b off => flashCmd_barred h host, fun b off => flashCmd_started h host⟩
  case active => exact flashProt_active released low
  case program => exact ⟨program_erased runs programs formed rfl, program_unerased runs programs formed rfl⟩
  case erase => exact erase_done runs erases low high
  case check => exact ⟨_, fwCheck_starts h host, rfl, rfl⟩
  case confirm => exact fwConfirm_ends h host rom waits
  case ends =>
    refine ⟨fun isFull unusable passed => ⟨_, fwCheckEnd_waits busy isFull unusable passed, rfl⟩, fwCheckEnd_code busy,
      fun isFull usable boots loaded chosen => ⟨?_, ?_⟩⟩
    · exact fwCheckEnd_releases busy isFull usable boots loaded chosen
    · exact fwCheckEnd_fails busy isFull usable boots loaded chosen

end Sys2Proof.Machine

/-!
The boot ROM's services, and the start of the groom core (R390 to R395).
-/

namespace Sys2Proof.Machine

open Sys2Proof

/-- A service runs for no one but released firmware on the host core (R391). -/
theorem svc_closed {m : Mid} {f : State → State} {s : State} (closed : s.boot.released = false ∨ s.boot.level = 3 ∨ m ≠ .hostS) :
    svc m f s = .next s := by
  have shut : svcOpen m s = false := by
    rcases closed with h | h | h <;> simp [svcOpen, h]
  rw [svc, shut, if_neg Bool.false_ne_true]

section
variable {s : State} (released : s.boot.released = true) (level : s.boot.level ≠ 3)
include released level

theorem svc_open (f : State → State) : svc .hostS f s = .next (f s) :=
  congrArg Host.Outcome.next (if_pos (by simp [svcOpen, released, level]))

end

theorem flashFinish_none {s : State} (idle : s.boot.flRun = none) (verify : Bool) : flashFinish verify s = s := by
  simp only [flashFinish, idle]

/-- An event logged and the banks shown. -/
theorem snapBanks_logEvent (ev : Nat) (b : Bool) (reason code : Nat) (s : State) : ∃ B H C N, snapBanks (logEvent ev b reason code s) =
    { s with boot := { s.boot with banks := B, hist := H, histCnt := C, histNew := N } } := by
  obtain ⟨H, C, N, logged⟩ := logEvent_frame ev b reason code s
  obtain ⟨B, shown⟩ := snapBanks_frame { s with boot := { s.boot with hist := H, histCnt := C, histNew := N } }
  rw [logged, shown]
  exact ⟨B, H, C, N, rfl⟩

theorem programMark_boot (b : Bool) (off lo : Nat) (s : State) : (programMark b off lo s).boot = s.boot := rfl

theorem programMark_bist (b : Bool) (off lo : Nat) (s : State) : (programMark b off lo s).bist = s.bist := rfl

theorem marks_congr {s t : State} (mem : t.mem = s.mem) (b : Bool) (off : Nat) :
    markSet t b off = markSet s b off ∧ markLow t b off = markLow s b off := by
  obtain ⟨-, set, low, -⟩ := bank_congr mem b
  exact ⟨set off, low off⟩

/-! ## BOOT_COMMIT (R392, R394) -/

/-- The state in which BOOT_COMMIT has programmed its marker. -/
def commitMarked (s : State) : State := programMark s.boot.bank 0x20 (min (markLow s (!s.boot.bank) 0x20 + 1) 0xFFFFFFFE) s

/-- The COMMIT marker as BOOT_COMMIT programs it, and what it leaves (R388, R392). -/
theorem commitMarked_marks {s : State} (formed : memOk s) : fwHdr (commitMarked s) s.boot.bank = fwHdr s s.boot.bank ∧
    markSet (commitMarked s) s.boot.bank 0x20 = true ∧
    markLow (commitMarked s) s.boot.bank 0x20 = min (markLow s (!s.boot.bank) 0x20 + 1) 0xFFFFFFFE ∧
    ∀ x, x < bankBase s.boot.bank + 0xCF020 ∨ bankBase s.boot.bank + 0xCF028 ≤ x → (commitMarked s).mem.read x = s.mem.read x := by
  unfold commitMarked
  have word : min (markLow s (!s.boot.bank) 0x20 + 1) 0xFFFFFFFE < 2 ^ 32 := by omega
  generalize min (markLow s (!s.boot.bank) 0x20 + 1) 0xFFFFFFFE = lo at word ⊢
  exact ⟨fwHdr_programMark formed, markSet_programMark formed word, markLow_programMark formed word,
    fun x outside => read_programMark_other formed (by unfold markOff; omega)⟩

/-- BOOT_COMMIT of a bank once its marker is programmed, with the version that the floor advances to. -/
def commitEnd (b : Bool) (v : Nat) (s : State) : State :=
  let s := advanceFloor v true s
  let s := snapBanks (logEvent 3 b 0 0 (updBoot s (fun t => { t with trial := false })))
  svcRet 0 none s

theorem svcCommit_eq {s : State} (trial : s.boot.trial = true) (idle : s.boot.flRun = none) :
    svcCommit true s = commitEnd s.boot.bank (u8 (fwHdr (commitMarked s) s.boot.bank) 0x0C) (commitMarked s) := by
  unfold svcCommit commitMarked commitEnd
  rw [flashFinish_none idle, trial]
  rfl

/-- An advance that verifies raises the floor, and never lowers it (R394). -/
theorem advanceFloor_verified (v : Nat) (s : State) : advanceFloor v true s = { s with boot := { s.boot with floor := max s.boot.floor v } } := by
  unfold advanceFloor
  by_cases low : v ≤ s.boot.floor
  · rw [if_pos low, Nat.max_eq_left low]
  · rw [if_neg low, if_pos rfl, Nat.max_eq_right (Nat.le_of_not_le low)]
    rfl

theorem commitEnd_frame (b : Bool) (v : Nat) (s : State) : ∃ B H C N, commitEnd b v s = { s with boot := { s.boot with
    floor := max s.boot.floor v, trial := false, service := 0, banks := B, hist := H, histCnt := C, histNew := N } } := by
  unfold commitEnd
  rw [advanceFloor_verified]
  generalize max s.boot.floor v = floor
  obtain ⟨B, H, C, N, shown⟩ := snapBanks_logEvent 3 b 0 0 { s with boot := { s.boot with floor := floor, trial := false } }
  exact ⟨B, H, C, N, congrArg (svcRet 0 none) shown⟩

/-! ## Markers over a reset (R388, R402) -/

/-- A reset with no flash command and no test in progress leaves memory, but for gallery memory and the BIST save area (R402, R420, R422). -/
theorem resetDevice_mem {s : State} (idle : s.boot.flRun = none) (noTest : s.bist.run = none) (c : Nat) :
    (resetDevice c s).mem = clearOwn s.mem := by
  have unhurt : hurtAtReset s = [] := by simp only [hurtAtReset, idle, noTest, List.append_nil]
  unfold resetDevice
  rw [unhurt]
  rfl

theorem read_clearOwn {m : Mem} {x : Nat} (formed : m.wf = true) (low : x < 0x40020800) : (clearOwn m).read x = m.read x := by
  rw [clearOwn, Mem.read_clear_other (Mem.wf_clear m _ _ formed) (.inl low), Mem.read_clear_other formed (.inl (by omega))]

/-- A reset with no flash command and no test in progress leaves the markers. -/
theorem marks_resetDevice {s : State} (idle : s.boot.flRun = none) (noTest : s.bist.run = none) (formed : memOk s) (c : Nat) (b : Bool)
    {off : Nat} (fits : off + 8 ≤ 0x1000) : markSet (resetDevice c s) b off = markSet s b off ∧ markLow (resetDevice c s) b off = markLow s b off := by
  have base : bankBase b ≤ 0x08100000 := by cases b <;> decide
  have read : ∀ n, n ≤ 8 → bankRead (resetDevice c s) b (markOff off) n = bankRead s b (markOff off) n := by
    intro n short
    rw [bankRead, resetDevice_mem idle noTest]
    exact Mem.readN_congr fun x _ high => read_clearOwn formed (by unfold markOff at high; omega)
  have set : markSet (resetDevice c s) b off = markSet s b off := by rw [markSet, read 8 (by decide), markSet]
  refine ⟨set, ?_⟩
  rw [markLow, set, read 4 (by decide), markLow]

/-! ## BOOT_FALLBACK (R392, R402) -/

section
variable {s : State} {r : W32} (trial : s.boot.trial = true)
include trial

theorem svcFallback_eq (low : 1 ≤ r.toNat) (high : r.toNat ≤ 4) (idle : s.boot.flRun = none) : svcFallback r true s =
    resetDevice 8 (programMark s.boot.bank 0x28 r.toNat (logEvent 4 s.boot.bank r.toNat 0 s)) := by
  have reason : ¬ (decide (r.toNat < 1) || decide (4 < r.toNat)) = true := by
    simp only [Bool.or_eq_true, decide_eq_true_eq]
    omega
  unfold svcFallback
  rw [flashFinish_none idle, trial]
  exact if_neg reason

theorem svcFallback_invalid (reason : r.toNat < 1 ∨ 4 < r.toNat) (p : Bool) : svcFallback r p s = svcRet 2 none s := by
  have invalid : (decide (r.toNat < 1) || decide (4 < r.toNat)) = true := by
    simp only [Bool.or_eq_true, decide_eq_true_eq]
    exact reason
  unfold svcFallback
  rw [trial]
  exact if_pos invalid

end

/-! ## BOOT_TRIAL (R392, R402) -/

/-- The state in which BOOT_TRIAL has programmed the TRIAL marker, where it was clear. -/
def trialMarked (b : Bool) (s : State) : State := if markSet s b 0x00 then s else programMark b 0x00 0 s

theorem trialMarked_frame (b : Bool) (s : State) : ∃ M, trialMarked b s = { s with mem := M } := by
  unfold trialMarked
  split <;> exact ⟨_, rfl⟩

theorem markSet_trialMarked {s : State} (formed : memOk s) (b : Bool) : memOk (trialMarked b s) ∧ markSet (trialMarked b s) b 0x00 = true := by
  unfold trialMarked
  split
  · exact ⟨formed, ‹_›⟩
  · exact ⟨Mem.wf_writeN _ _ _ formed, markSet_programMark formed (by decide)⟩

/-- BOOT_TRIAL's record of the bank. -/
def trialLogged (b : Bool) (s : State) : State := snapBanks (logEvent 2 b 0 0 (setFwCode b 0 s))

theorem trialLogged_frame (b : Bool) (s : State) : ∃ B H C N, trialLogged b s = { s with boot := { s.boot with
    banks := B, hist := H, histCnt := C, histNew := N } } := by
  obtain ⟨B, H, C, N, shown⟩ := snapBanks_logEvent 2 b 0 0 (setFwCode b 0 s)
  exact ⟨B, H, C, N, shown⟩

/-- BOOT_TRIAL of a bank that is not active, not rejected, and passes its checks. -/
theorem svcTrial_eq {s : State} {bank opt : W32} {b : Bool} (is_b : decide (bank = 1) = b) (noTrial : s.boot.trial = false)
    (valid : bank.toNat ≤ 1) (other : b ≠ s.boot.bank) (idle : s.boot.flRun = none) (unrejected : classify s b ≠ 4)
    (image : fwCheck s b true = 0) (lyngo : lyngoCode s b = 0) : svcTrial bank opt s =
      if bit opt 0 then resetDevice 8 (trialLogged b (trialMarked b s)) else svcRet 0 none (trialLogged b (trialMarked b s)) := by
  unfold svcTrial
  simp only [is_b, noTrial, Bool.false_eq_true, if_false, Nat.not_lt.2 valid, other, idle, unrejected, image, lyngo, bne_self_eq_false]
  rfl

/-! ## KEY_PROGRAM and KEY_REVOKE (R392, R395) -/

section
variable {s : State} {slot : W32} {k : Fin 4} (slot_k : slot.toNat = k.val)
include slot_k

/-- KEY_PROGRAM of a slot that is not EMPTY. -/
theorem svcKeyProgram_used (used : otpNum s.boot.otp[k] ≠ 0) (addr : W32) (v : Bool) : svcKeyProgram slot addr v s = svcRet 1 none s := by
  obtain ⟨n, inRange⟩ := k
  obtain rfl : slot.toNat = n := slot_k
  have full : (otpNum s.boot.otp[(⟨slot.toNat, inRange⟩ : Fin 4)] != 0) = true := bne_iff_ne.2 used
  rw [svcKeyProgram, dif_pos inRange]
  exact if_pos full

/-- KEY_PROGRAM of an EMPTY slot whose hash is read and verifies. -/
theorem svcKeyProgram_fills {addr : W32} {l : List Byte} {s1 : State} (empty : otpNum s.boot.otp[k] = 0)
    (read : dmaRead .hostS addr.toNat 32 s = ((.okay, l), s1)) : svcKeyProgram slot addr true s =
      svcRet 0 none (updOtp s1 k (fun o => { o with blank := false, hash := l, active := true })) := by
  obtain ⟨n, inRange⟩ := k
  obtain rfl : slot.toNat = n := slot_k
  have free : ¬ (otpNum s.boot.otp[(⟨slot.toNat, inRange⟩ : Fin 4)] != 0) = true := by rw [bne_iff_ne]; exact not_not.2 empty
  rw [svcKeyProgram, dif_pos inRange]
  refine (if_neg free).trans ?_
  rw [read]
  rfl

/-- KEY_REVOKE of the active image's slot. -/
theorem svcKeyRevoke_active (active : u8 (fwHdr s s.boot.bank) 0x0D = k.val) : svcKeyRevoke slot s = svcRet 1 none s := by
  have inRange : slot.toNat < 4 := slot_k ▸ k.isLt
  rw [svcKeyRevoke, dif_pos inRange, if_pos (active.trans slot_k.symm)]

/-- KEY_REVOKE of another slot. -/
theorem svcKeyRevoke_other (other : u8 (fwHdr s s.boot.bank) 0x0D ≠ k.val) : svcKeyRevoke slot s =
    svcRet 0 none (updOtp s k (fun o => { o with revoke := true })) := by
  obtain ⟨n, inRange⟩ := k
  obtain rfl : slot.toNat = n := slot_k
  rw [svcKeyRevoke, dif_pos inRange, if_neg other]

end

/-! ## BOOT_GROOM (R390) -/

/-- The groom core's start while its domain may be powered and it is usable (R390). -/
theorem groomStart_starts {s : State} {pc : W32} (free : domIsolated s .groom = false) (usable : unusable s 3 = false) :
    ∃ P, groomStart pc s = { s with pwr := P } ∧ P.groomOn = true ∧ P.groomPc = pc ∧ domReady { s with pwr := P } .groom = true := by
  have starts : groomStart pc s = updPwr (domUp s .groom) (fun p => { p with groomOn := true, groomPc := pc }) :=
    if_neg (by rw [free, usable]; exact Bool.false_ne_true)
  have up : domUp s .groom = { s with pwr := (domUp s .groom).pwr } := (domUp_powersUp s .groom).plain (by decide)
  have ready : domReady (domUp s .groom) .groom = true := (domReady_domUp s .groom .groom).trans (if_pos rfl)
  rw [starts]
  rw [up] at ready ⊢
  exact ⟨_, rfl, rfl, rfl, ready⟩

/-- BOOT_GROOM written with START, the first time (R390). -/
theorem effBootGroom_fresh {s : State} {d : W32} (fresh : s.boot.groom = 0) (off : s.pwr.groomOn = false) (start : bit d 31 = true) :
    effBootGroom d s = groomStart ((d &&& 0x7FFFFFFE) <<< 1) { s with boot := { s.boot with groom := (d &&& 0x7FFFFFFE) ||| putB true 31 } } := by
  have noVector : (0 : W32) &&& 0x7FFFFFFE = 0 := by decide
  have noStart : bit 0 31 = false := by decide
  simp only [effBootGroom, updBoot, fresh, off, start, noVector, noStart, if_true, Bool.or_true, Bool.not_false, Bool.and_self]

/-- BOOT_GROOM's fields as the command writes them. -/
theorem groomWord_fields (vec : BitVec 30) :
    (put 1 31 ||| vec.setWidth 32 <<< 1) &&& (0x7FFFFFFE : W32) = vec.setWidth 32 <<< 1 ∧ bit (put 1 31 ||| vec.setWidth 32 <<< 1) 31 = true := by
  constructor
  · have mask : (0x7FFFFFFE : W32) = (BitVec.allOnes 30).setWidth 32 <<< 1 := by decide
    have kept : (vec.setWidth 32 <<< 1) &&& (0x7FFFFFFE : W32) = vec.setWidth 32 <<< 1 := by
      rw [mask, ← BitVec.shiftLeft_and_distrib, ← BitVec.setWidth_and, BitVec.and_allOnes]
    have start : put 1 31 &&& (0x7FFFFFFE : W32) = 0#32 := by decide
    rw [BitVec.and_comm, BitVec.and_or_distrib_left, BitVec.and_comm _ (put 1 31), start, BitVec.zero_or,
      BitVec.and_comm, kept]
  · have start : (put 1 31).getLsbD 31 = true := by decide
    rw [bit, BitVec.getLsbD_or, start, Bool.true_or]

/-- BOOT_GROOM by MID 0, once (R390). -/
theorem bootGroom_starts {s : State} {vec : BitVec 30}
    (h : reaches .hostS .boot (0x40050000 + 0x068) (put 1 31 ||| (vec.setWidth 32 <<< 1)) s = true) (fresh : s.boot.groom = 0)
    (off : s.pwr.groomOn = false) (free : domIsolated s .groom = false) (usable : unusable s 3 = false) :
    ∃ t, exec (.bootGroom .hostS vec) s = .next t ∧
      t = okay .hostS 0 { served .hostS .boot s with boot := { s.boot with groom := t.boot.groom }, pwr := t.pwr } ∧
      t.boot.groom = put 1 31 ||| (vec.setWidth 32 <<< 1) ∧ t.pwr.groomOn = true ∧ t.pwr.groomPc = vec.setWidth 32 <<< 2 ∧
      domReady t .groom = true := by
  obtain ⟨field, start⟩ := groomWord_fields vec
  have word : (vec.setWidth 32 <<< 1) ||| putB true 31 = put 1 31 ||| vec.setWidth 32 <<< 1 := BitVec.or_comm _ _
  have target : (vec.setWidth 32 <<< 1) <<< 1 = vec.setWidth 32 <<< 2 := (BitVec.shiftLeft_add _ 1 1).symm
  generalize pc_eq : vec.setWidth 32 <<< 2 = pc at target
  have effect : effBootGroom (put 1 31 ||| vec.setWidth 32 <<< 1) (served .hostS .boot s) =
      groomStart pc { served .hostS .boot s with boot := { s.boot with groom := put 1 31 ||| vec.setWidth 32 <<< 1 } } := by
    have first := effBootGroom_fresh (s := served .hostS .boot s) (by rwa [served_boot]) (by rwa [served_pwr]) start
    rwa [field, word, target, served_boot] at first
  have free : domIsolated (served .hostS .boot s) .groom = false := by rwa [domIsolated, served_pwr]
  have usable : unusable (served .hostS .boot s) 3 = false := by rwa [unusable, served_bist, served_clk]
  obtain ⟨P, starts, on, at_pc, ready⟩ := groomStart_starts (pc := pc)
    (s := { served .hostS .boot s with boot := { s.boot with groom := put 1 31 ||| vec.setWidth 32 <<< 1 } }) free usable
  rw [starts] at effect
  exact ⟨_, bootBus_reaches h (congrArg some effect), rfl, rfl, on, at_pc, ready⟩

/-! ## The services as stated -/

section
variable {s : State} (released : s.boot.released = true) (level : s.boot.level ≠ 3)
include released level

section
variable (trial : s.boot.trial = true)
include trial

/-- BOOT_COMMIT in a trial (R392, R394). -/
theorem bootCommit_commits (idle : s.boot.flRun = none) (formed : memOk s) : ∃ t, exec (.bootCommit .hostS true) s = .next t ∧
    t.boot.trial = false ∧ t.boot.service = 0 ∧ t.boot.floor = max s.boot.floor (u8 (fwHdr s s.boot.bank) 0x0C) ∧
    markSet t s.boot.bank 0x20 = true ∧ markLow t s.boot.bank 0x20 = min (markLow s (!s.boot.bank) 0x20 + 1) 0xFFFFFFFE ∧
    (∀ x, x < bankBase s.boot.bank + 0xCF020 ∨ bankBase s.boot.bank + 0xCF028 ≤ x → t.mem.read x = s.mem.read x) := by
  obtain ⟨header, set, shows, apart⟩ := commitMarked_marks formed
  have boot : (commitMarked s).boot = s.boot := programMark_boot ..
  have runs : exec (.bootCommit .hostS true) s = .next (svcCommit true s) := svc_open released level _
  rw [svcCommit_eq trial idle, header] at runs
  obtain ⟨B, H, C, N, ends⟩ := commitEnd_frame s.boot.bank (u8 (fwHdr s s.boot.bank) 0x0C) (commitMarked s)
  rw [ends, boot] at runs
  generalize commitMarked s = u at *
  exact ⟨_, runs, rfl, rfl, rfl, (marks_congr (s := u) (by rfl) _ _).1.trans set, (marks_congr (s := u) (by rfl) _ _).2.trans shows, apart⟩

/-- BOOT_FALLBACK in a trial with a reason of R392 resets, with its REJECT marker programmed. -/
theorem bootFallback_resets {r : W32} (low : 1 ≤ r.toNat) (high : r.toNat ≤ 4) (idle : s.boot.flRun = none) (noTest : s.bist.run = none)
    (formed : memOk s) : ∃ t, exec (.bootFallback .hostS r true) s = .next t ∧ t.boot.lastRst = 8 ∧ t.boot.inReset = true ∧
      t.boot.floor = s.boot.floor ∧ markLow t s.boot.bank 0x28 = r.toNat ∧ t.boot.otp = s.boot.otp := by
  have runs : exec (.bootFallback .hostS r true) s = .next (svcFallback r true s) := svc_open released level _
  obtain ⟨H, C, N, logged⟩ := logEvent_frame 4 s.boot.bank r.toNat 0 s
  rw [svcFallback_eq trial low high idle, logged] at runs
  generalize ended : programMark s.boot.bank 0x28 r.toNat { s with boot := { s.boot with hist := H, histCnt := C, histNew := N } } = u at runs
  have boot : u.boot = { s.boot with hist := H, histCnt := C, histNew := N } := by rw [← ended, programMark_boot]
  have bist : u.bist = s.bist := by rw [← ended, programMark_bist]
  have formedMark : memOk u := by rw [← ended]; exact Mem.wf_writeN _ _ _ formed
  have shows : markLow u s.boot.bank 0x28 = r.toNat := by
    rw [← ended]
    exact markLow_programMark formed (by omega)
  obtain ⟨cause, -, -, -, otp, floor, -⟩ := resetDevice_boot 8 u
  obtain ⟨-, kept⟩ := marks_resetDevice (by rw [boot]; exact idle) (by rw [bist]; exact noTest) formedMark 8 s.boot.bank (off := 0x28) (by decide)
  refine ⟨_, runs, cause, (resetDevice_held 8 u).2, floor.trans ?_, kept.trans shows, otp.trans ?_⟩
  all_goals rw [boot]

end

/-- BOOT_TRIAL of the other bank, when it passes its checks (R392, R402). -/
theorem bootTrial_starts {bank opt : W32} {b : Bool} (is_b : decide (bank = 1) = b) (noTrial : s.boot.trial = false) (valid : bank.toNat ≤ 1)
    (other : b ≠ s.boot.bank) (idle : s.boot.flRun = none) (noTest : s.bist.run = none) (formed : memOk s) (unrejected : classify s b ≠ 4)
    (image : fwCheck s b true = 0) (lyngo : lyngoCode s b = 0) : ∃ t, exec (.bootTrial .hostS bank opt) s = .next t ∧ markSet t b 0x00 = true ∧
      (bit opt 0 = false → t.boot.service = 0 ∧ t.boot.released = true ∧ t.boot.bank = s.boot.bank) ∧
      (bit opt 0 = true → t.boot.lastRst = 8) ∧ t.boot.floor = s.boot.floor := by
  have runs : exec (.bootTrial .hostS bank opt) s = .next (svcTrial bank opt s) := svc_open released level _
  obtain ⟨formedMark, set⟩ := markSet_trialMarked formed b
  obtain ⟨B, H, C, N, logged⟩ := trialLogged_frame b (trialMarked b s)
  obtain ⟨M, marked⟩ := trialMarked_frame b s
  rw [svcTrial_eq is_b noTrial valid other idle unrejected image lyngo, logged] at runs
  generalize trialMarked b s = u at *
  subst marked
  cases request : bit opt 0 with
  | false =>
    rw [request, if_neg Bool.false_ne_true] at runs
    exact ⟨_, runs, set, fun _ => ⟨rfl, released, rfl⟩, nofun, rfl⟩
  | true =>
    rw [request, if_pos rfl] at runs
    obtain ⟨cause, -, -, -, -, floor, -⟩ := resetDevice_boot 8
      { s with mem := M, boot := { s.boot with banks := B, hist := H, histCnt := C, histNew := N } }
    obtain ⟨kept, -⟩ := marks_resetDevice (s := { s with mem := M, boot := { s.boot with banks := B, hist := H, histCnt := C, histNew := N } })
      idle noTest formedMark 8 b (off := 0x00) (by decide)
    exact ⟨_, runs, kept.trans set, nofun, fun _ => cause, floor⟩

section
variable {slot addr : W32} {k : Fin 4} (slot_k : slot.toNat = k.val)
include slot_k

/-- KEY_PROGRAM fills an EMPTY slot with the hash read (R392, R395). -/
theorem keyProgram_fills {l : List Byte} {s1 : State} (idle : yardIdle s) (empty : otpNum s.boot.otp[k] = 0)
    (read : dmaRead .hostS addr.toNat 32 s = ((.okay, l), s1)) : ∃ u, exec (.keyProgram .hostS slot addr true) s = .next (settle u) ∧
      u = { s1 with boot := { s.boot with service := 0, otp := u.boot.otp } } ∧
      u.boot.otp[k] = { s.boot.otp[k] with blank := false, hash := l, active := true } ∧ ∀ j, j ≠ k → u.boot.otp[j] = s.boot.otp[j] := by
  have runs : exec (.keyProgram .hostS slot addr true) s = .next (engineEvent (.keyProgram .hostS slot addr true) s) := svc_open released level _
  have effect : runEvent (.keyProgram .hostS slot addr true) s =
      svcRet 0 none (updOtp s1 k (fun o => { o with blank := false, hash := l, active := true })) := svcKeyProgram_fills slot_k empty read
  have boot : s1.boot = s.boot := by
    obtain ⟨A, Y, rest⟩ := dmaRead_rest .hostS addr.toNat 32 s
    rw [read] at rest
    obtain rfl : s1 = _ := rest
    rfl
  have noTask : s1.yard.eng = {} := dmaRead_okay idle.2.2 read
  rw [engineEvent_noTask idle (by rw [effect]; exact noTask), effect] at runs
  have otp : ∀ j : Fin 4, (svcRet 0 none (updOtp s1 k (fun o => { o with blank := false, hash := l, active := true }))).boot.otp[j] =
      (upd s.boot.otp k (fun o => { o with blank := false, hash := l, active := true }))[j] := fun j => by rw [← boot]; rfl
  refine ⟨_, runs, by rw [← boot]; rfl, (otp k).trans (upd_same ..), fun j other => (otp j).trans (upd_other _ _ _ _ other)⟩

/-- KEY_PROGRAM of a slot that is not EMPTY returns STATE (R392). -/
theorem keyProgram_used (idle : yardIdle s) (used : otpNum s.boot.otp[k] ≠ 0) (v : Bool) :
    exec (.keyProgram .hostS slot addr v) s = .next { s with boot := { s.boot with service := 1 } } := by
  have runs : exec (.keyProgram .hostS slot addr v) s = .next (engineEvent (.keyProgram .hostS slot addr v) s) := svc_open released level _
  have effect : runEvent (.keyProgram .hostS slot addr v) s = svcRet 1 none s := svcKeyProgram_used slot_k used addr v
  rw [runs, engineEvent_idle idle (by rw [effect]; rfl), effect]
  rfl

/-- KEY_REVOKE of a slot that is not the active image's (R392, R395). -/
theorem keyRevoke_revokes (other : u8 (fwHdr s s.boot.bank) 0x0D ≠ k.val) : ∃ t, exec (.keyRevoke .hostS slot) s = .next t ∧
    t = { s with boot := { s.boot with service := 0, otp := t.boot.otp } } ∧
    t.boot.otp[k] = { s.boot.otp[k] with revoke := true } ∧ ∀ j, j ≠ k → t.boot.otp[j] = s.boot.otp[j] := by
  have runs : exec (.keyRevoke .hostS slot) s = .next (svcKeyRevoke slot s) := svc_open released level _
  rw [svcKeyRevoke_other slot_k other] at runs
  exact ⟨_, runs, rfl, upd_same .., fun j apart => upd_other _ _ _ _ apart⟩

theorem keyRevoke_active (active : u8 (fwHdr s s.boot.bank) 0x0D = k.val) :
    exec (.keyRevoke .hostS slot) s = .next { s with boot := { s.boot with service := 1 } } := by
  have runs : exec (.keyRevoke .hostS slot) s = .next (svcKeyRevoke slot s) := svc_open released level _
  rw [runs, svcKeyRevoke_active slot_k active]
  rfl

end
end

/-- Settles O56: each service by the equation of its case; a marker programmed stays over the reset by `marks_resetDevice`. -/
theorem bootServices : Obligations.BootServices := by
  unfold Obligations.BootServices
  refine fun s => ⟨fun m closed => ?closed, fun released level => ⟨fun noTrial => ?outside, fun trial => ?inside, ?start, ?fill, ?used,
    ?revoke, ?active⟩, fun vec => bootGroom_starts⟩
  case closed =>
    exact ⟨fun _ _ => svc_closed closed, fun _ => svc_closed closed, fun _ _ => svc_closed closed, fun _ _ _ => svc_closed closed,
      fun _ => svc_closed closed⟩
  case outside =>
    have commit : ∀ p, svcCommit p s = svcRet 1 none s := fun p => if_pos (by rw [noTrial]; rfl)
    have fallback : ∀ r p, svcFallback r p s = svcRet 1 none s := fun r p => if_pos (by rw [noTrial]; rfl)
    exact ⟨fun p => (svc_open released level _).trans (congrArg _ (commit p)),
      fun r p => (svc_open released level _).trans (congrArg _ (fallback r p))⟩
  case inside =>
    refine ⟨fun bank opt => (svc_open released level _).trans (congrArg _ ?_), bootCommit_commits released level trial,
      fun r low high idle noTest formed => bootFallback_resets released level trial low high idle noTest formed,
      fun r p invalid => (svc_open released level _).trans (congrArg _ (svcFallback_invalid trial invalid p))⟩
    exact (if_pos trial : svcTrial bank opt s = svcRet 1 none s)
  case start =>
    exact fun noTrial bank opt valid other idle noTest formed unrejected image lyngo =>
      bootTrial_starts released level rfl noTrial valid other idle noTest formed unrejected image lyngo
  case fill => exact fun slot addr k l s1 idle slot_k empty read => keyProgram_fills released level slot_k idle empty read
  case used => exact fun slot addr k v idle slot_k used => keyProgram_used released level slot_k idle used v
  case revoke => exact fun slot k slot_k other => keyRevoke_revokes released level slot_k other
  case active => exact fun slot k slot_k active => keyRevoke_active released level slot_k active

end Sys2Proof.Machine

/-!
Marks and the units of a test: what marking blocks unusable, and leaving a unit undefined, keep of the device (R72, R410, R414, R417).
-/

namespace Sys2Proof.Machine

open Sys2Proof

/-- A state that keeps of another its memory, boot controller, radio, clocks and self-test. -/
structure LeavesCore (s t : State) : Prop where
  mem : t.mem = s.mem
  boot : t.boot = s.boot
  trx : t.trx = s.trx
  clk : t.clk = s.clk
  bist : t.bist = s.bist

namespace LeavesCore

theorem refl (s : State) : LeavesCore s s := ⟨rfl, rfl, rfl, rfl, rfl⟩

theorem trans {s t u : State} (first : LeavesCore s t) (second : LeavesCore t u) : LeavesCore s u where
  mem := second.mem.trans first.mem
  boot := second.boot.trans first.boot
  trx := second.trx.trans first.trx
  clk := second.clk.trans first.clk
  bist := second.bist.trans first.bist

theorem foldl {ι : Type} {f : State → ι → State} (each : ∀ s i, LeavesCore s (f s i)) (l : List ι) (s : State) :
    LeavesCore s (l.foldl f s) := by
  induction l generalizing s with
  | nil => exact refl s
  | cons i l ih => exact (each s i).trans (ih (f s i))

end LeavesCore

/-! ## Blocks marked (R410, R417) -/

/-- A domain that powers down with retention changes the power controller and the sensing block only (R317, R319). -/
theorem domDown_retains (s : State) (d : Domain) : ∃ P S, domDown s d true = { s with pwr := P, sns := S } := by
  cases d <;> exact ⟨_, _, rfl⟩

theorem isolate_leaves (s : State) (d : Domain) : LeavesCore s (isolate s d) := by
  obtain ⟨P, S, down⟩ := domDown_retains s d
  unfold isolate
  rw [down]
  split <;> exact ⟨rfl, rfl, rfl, rfl, rfl⟩

theorem updPdk_leaves (s : State) (p : Fin 8) (f : Paddock → Paddock) : LeavesCore s (updPdk s p f) := ⟨rfl, rfl, rfl, rfl, rfl⟩

theorem endLoad_leaves (code off : Nat) (p : Option (Fin 8)) (s : State) : LeavesCore s (endLoad code off p s) := ⟨rfl, rfl, rfl, rfl, rfl⟩

theorem markPdk_leaves (s : State) (p : Fin 8) : LeavesCore s (markPdk s p) := by
  have dead := updPdk_leaves s p (fun q => { q with state := .unusable })
  unfold markPdk
  split
  · exact .refl s
  · generalize updPdk s p (fun q => { q with state := .unusable }) = u at dead
    dsimp only
    split
    · split
      · exact dead.trans ((updPdk_leaves u p _).trans (endLoad_leaves ..))
      · exact dead
    · exact dead

/-- A transaction answered DEAD changes the yard and the SPI slave only (R37, R274). -/
theorem respondDead_leaves (s : State) (x : Txn) : LeavesCore s (noteSpis (respond s x.mid x.addr x.kind .dead 0)) := by
  have answered : LeavesCore s (respond s x.mid x.addr x.kind .dead 0) := ⟨rfl, rfl, rfl, rfl, rfl⟩
  generalize respond s x.mid x.addr x.kind .dead 0 = u at answered
  unfold noteSpis
  dsimp only
  split
  · exact answered.trans ⟨rfl, rfl, rfl, rfl, rfl⟩
  · exact answered

theorem deadWaiting_leaves (s : State) : LeavesCore s (deadWaiting s) := by
  have withYard : ∀ Y, LeavesCore s { s with yard := Y } := fun _ => ⟨rfl, rfl, rfl, rfl, rfl⟩
  exact (withYard _).trans (LeavesCore.foldl respondDead_leaves _ _)

/-- The unusable map once blocks are marked (R410). -/
def markMap (l : BitVec 64) (s : State) : State := { s with bist := { s.bist with umap := markDeps (s.bist.umap ||| l) } }

theorem markUnits_leaves (s : State) : LeavesCore s (markUnits s) := ⟨rfl, rfl, rfl, rfl, rfl⟩

theorem cutGates_leaves (s : State) : LeavesCore s (cutGates s) := ⟨rfl, rfl, rfl, rfl, rfl⟩

/-- A mark changes of memory, the boot controller, the radio, the clocks and the self-test the unusable map only (R410). -/
theorem markBlocks_leaves (l : BitVec 64) (s : State) : LeavesCore (markMap l s) (markBlocks l s) := by
  have units := markUnits_leaves (markMap l s)
  have pdks := LeavesCore.foldl markPdk_leaves (idx 8) (markUnits (markMap l s))
  generalize pdks_eq : (idx 8).foldl markPdk (markUnits (markMap l s)) = u at pdks
  have domains := LeavesCore.foldl isolate_leaves allDomains u
  generalize domains_eq : allDomains.foldl isolate u = v at domains
  have ends : markBlocks l s = cutGates (deadWaiting v) := by
    rw [← domains_eq, ← pdks_eq]
    rfl
  rw [ends]
  exact units.trans (pdks.trans (domains.trans ((deadWaiting_leaves v).trans (cutGates_leaves _))))

theorem orIf_getLsbD {c : Prop} [Decidable c] {u m : BitVec 64} {i : Nat} (set : u.getLsbD i = true) :
    (if c then u ||| m else u).getLsbD i = true := by
  split
  · rw [BitVec.getLsbD_or, set, Bool.true_or]
  · exact set

/-- The unusable map holds every block that is marked (R410). -/
theorem markDeps_marks {u : BitVec 64} {i : Nat} (set : u.getLsbD i = true) : (markDeps u).getLsbD i = true :=
  orIf_getLsbD (orIf_getLsbD (orIf_getLsbD (orIf_getLsbD set)))

theorem getLsbD_mapBit (b : Fin 64) : (mapBit b.val).getLsbD b.val = true := by
  simp [mapBit]

/-- A block marked is unusable (R410). -/
theorem markBlocks_marks {l : BitVec 64} {i : Nat} (s : State) (listed : l.getLsbD i = true) :
    (markBlocks l s).bist.umap.getLsbD i = true := by
  have set : (s.bist.umap ||| l).getLsbD i = true := by rw [BitVec.getLsbD_or, listed, Bool.or_true]
  rw [(markBlocks_leaves l s).bist]
  exact markDeps_marks set

/-! ## Units left undefined (R414, R418) -/

theorem updStl_leaves (s : State) (n : Fin 32) (f : Stall → Stall) : LeavesCore s (updStl s n f) := ⟨rfl, rfl, rfl, rfl, rfl⟩

theorem withFree_leaves (s : State) (k : Nat) : LeavesCore s { s with free := k } := ⟨rfl, rfl, rfl, rfl, rfl⟩

theorem updPkv_leaves (s : State) (f : Pkv → Pkv) : LeavesCore s (updPkv s f) := ⟨rfl, rfl, rfl, rfl, rfl⟩

theorem cutGate_leaves (s : State) (n : Fin 32) : LeavesCore s (cutGate n s) := by
  unfold cutGate
  split
  · exact .refl s
  · exact updStl_leaves ..

theorem stallTake_leaves {n : Fin 32} {off : Nat} (notCtrl : off ≠ 0) (m : Mid) (d v : W32) (s : State) :
    LeavesCore s (stallTake m n off d v s) := by
  have unfenced : (if off = 0 && bit v 31 && !(s.stl[n]).en then fence s else s) = s := if_neg (by simp [notCtrl])
  unfold stallTake
  rw [unfenced]
  split
  · exact updStl_leaves ..
  · exact (updStl_leaves ..).trans (cutGate_leaves ..)

theorem hurtStall_leaves (s : State) (n : Fin 32) : LeavesCore s (hurtStall n s) := by
  refine LeavesCore.foldl (fun s j => ?_) _ s
  by_cases skip : (j = 0 || stallMask (4 * j) = 0 : Bool) = true
  · rw [if_pos skip]
    exact .refl s
  · rw [if_neg skip]
    have notCtrl : 4 * j ≠ 0 := by
      intro zero
      refine skip ?_
      rw [decide_eq_true (by omega : j = 0), Bool.true_or]
    exact (withFree_leaves s _).trans (stallTake_leaves notCtrl ..)

theorem hurtOperands_leaves (s : State) : LeavesCore s (hurtOperands s) :=
  LeavesCore.foldl (fun s _ => LeavesCore.foldl (fun s _ => (withFree_leaves s _).trans (updPkv_leaves ..)) _ s) _ s

/-- A unit left undefined changes of the core of the device its memory only. -/
theorem hurtUnit_leaves (i cur : Nat) (s : State) : LeavesCore { s with mem := (hurtUnit i cur s).mem } (hurtUnit i cur s) := by
  have within : ∀ t, LeavesCore s t → LeavesCore { s with mem := t.mem } t := fun t kept => ⟨rfl, kept.boot, kept.trx, kept.clk, kept.bist⟩
  unfold hurtUnit
  split
  · exact within _ (hurtOperands_leaves s)
  · split
    · exact within _ (LeavesCore.foldl hurtStall_leaves _ s)
    · obtain ⟨M, F, hurts⟩ := hurt_frame (bistUnits i cur) s
      rw [hurts]
      exact ⟨rfl, rfl, rfl, rfl, rfl⟩

/-! ## Units saved (R414) -/

theorem length_bytesOf (v : Vector W32 8) : (bytesOf v).length = 32 := by
  simp [bytesOf, length_leBytes, List.length_flatMap]

/-- A unit is at most a slice (R409, R414). -/
theorem bistUnits_size (i cur : Nat) : ∀ u ∈ bistUnits i cur, u.2 ≤ 1024 := by
  unfold bistUnits
  repeat' split
  all_goals simp

/-- Pieces of a bounded length make a list of a bounded length. -/
theorem length_flatMap_le {l : List Nat} {f : Nat → List Byte} {n : Nat} (each : ∀ j, (f j).length ≤ n) : (l.flatMap f).length ≤ l.length * n := by
  induction l with
  | nil => exact Nat.zero_le _
  | cons j l ih =>
    have first := each j
    rw [List.flatMap_cons, List.length_append, List.length_cons, Nat.succ_mul]
    omega

/-- A unit fits the save area (R414). -/
theorem length_unitBytes {i cur : Nat} {u : Nat × Nat} (unit : u ∈ bistUnits i cur) (s : State) : (unitBytes s i u).length ≤ 1024 := by
  have size := bistUnits_size i cur u unit
  unfold unitBytes
  split
  · simp only [List.length_append, length_bytesOf]
    decide
  · split
    · refine (length_flatMap_le (n := 4) fun j => ?_).trans ?_
      · split
        · rw [length_leBytes]
        · exact Nat.zero_le _
      · rw [List.length_range]
        omega
    · rwa [Mem.length_readN]

/-- Saving units changes memory only, inside the save area (R414). -/
theorem saveUnits_frame (i cur : Nat) (s : State) : ∃ M, (bistUnits i cur).foldl (fun s w => saveUnit i w s) s = { s with mem := M } ∧
    (memOk s → ∀ a, a < 0x40020800 ∨ 0x40020C00 ≤ a → M.read a = s.mem.read a) := by
  have saved : ∀ (l : List (Nat × Nat)) (s : State), (∀ w ∈ l, w ∈ bistUnits i cur) →
      ∃ M, l.foldl (fun s w => saveUnit i w s) s = { s with mem := M } ∧
        (memOk s → ∀ a, a < 0x40020800 ∨ 0x40020C00 ≤ a → M.read a = s.mem.read a) := by
    intro l
    induction l with
    | nil => exact fun s _ => ⟨s.mem, rfl, fun _ _ _ => rfl⟩
    | cons w l ih =>
      intro s units
      obtain ⟨unit, rest⟩ := List.forall_mem_cons.1 units
      have fits := length_unitBytes unit s
      obtain ⟨M, later, kept⟩ := ih (saveUnit i w s) rest
      refine ⟨M, later, fun formed a outside => (kept (Mem.wf_writeN _ _ _ formed) a outside).trans ?_⟩
      exact Mem.read_writeN_other s.mem _ _ formed (by omega)
  exact saved _ s fun _ listed => listed

end Sys2Proof.Machine

/-!
Self-test: power-up BIST and the choice of a bank, and tests on command (R378, R387, R388, R401, R403, R408 to R421).
-/

namespace Sys2Proof.Machine

open Sys2Proof

/-! ## Phase 1 (R408, R409, R412) -/

/-- A failed BROM, HOST or YARD leaves the host core unstarted (R412). -/
theorem fatalMap_low {f : BitVec 64} {i : Nat} (low : i < 3) (failed : f.getLsbD i = true) : fatalMap f = true := by
  unfold fatalMap
  interval_cases i <;> simp only [failed, Bool.true_or, Bool.or_true]

/-- The state in which phase 1 has zeroed the SRAM and recorded its failures (R409, R410). -/
def phase1Recorded (fails : List BistFail) (s : State) : State :=
  let s := recordFails phase1 fails s
  updBist { s with mem := zeroSram s.mem } (fun b => { b with tmap := phase1 })

/-- The state in which phase 1 has recorded one failure (R410, R423). -/
def phase1Failed (f : BistFail) (s : State) : State := { s with
  mem := zeroSram s.mem, bist := { (recordFail f.block f.loc s).bist with tmap := phase1 } }

theorem phase1Recorded_one {f : BistFail} (listed : phase1.getLsbD f.block.val = true) (s : State) :
    phase1Recorded [f] s = phase1Failed f s := by
  have kept : [f].filter (fun f => phase1.getLsbD f.block.val) = [f] := List.filter_cons_of_pos listed
  have recorded : recordFails phase1 [f] s = recordFail f.block f.loc s := by rw [recordFails, kept]; rfl
  rw [phase1Recorded, recorded]
  rfl

section
variable {s : State} (due : phase1Due s = true)
include due

theorem bistPhase1End_eq (fails : List BistFail) : exec (.bistPhase1End fails) s = .next (
    if fatalMap (phase1Recorded fails s).bist.fmap then markBlocks (phase1Recorded fails s).bist.fmap (phase1Recorded fails s)
    else updPwr (updBoot (phase1Recorded fails s) (fun t => { t with started := true, bootNum := t.bootNum + 1 }))
      (fun p => { p with hostOn := true, hostPc := 0 })) := by
  have command : exec (.bistPhase1End fails) s = execBistPhase1End fails s := rfl
  rw [command, execBistPhase1End, due]
  rfl

/-- Without failures phase 1 zeroes the SRAM and starts the host core in the boot ROM (R409, R412). -/
theorem phase1_starts (clear : s.bist.fmap = 0) : exec (.bistPhase1End []) s = .next { s with
    mem := zeroSram s.mem, bist := { s.bist with tmap := phase1 }
    boot := { s.boot with started := true, bootNum := s.boot.bootNum + 1 }, pwr := { s.pwr with hostOn := true, hostPc := 0 } } := by
  have recorded : phase1Recorded [] s = { s with mem := zeroSram s.mem, bist := { s.bist with tmap := phase1 } } := rfl
  have sound : ¬ fatalMap s.bist.fmap = true := by rw [clear]; decide
  rw [bistPhase1End_eq due, recorded, if_neg sound]
  rfl

/-- A failure of BROM, HOST or YARD leaves the host core unstarted (R412). -/
theorem phase1_stops {f : BistFail} (fatal : f.block.val < 3) :
    exec (.bistPhase1End [f]) s = .next (markBlocks (s.bist.fmap ||| mapBit f.block.val) (phase1Failed f s)) := by
  have listed : ∀ b : Fin 64, b.val < 3 → phase1.getLsbD b.val = true := by decide
  have failed : (s.bist.fmap ||| mapBit f.block.val).getLsbD f.block.val = true := by rw [BitVec.getLsbD_or, getLsbD_mapBit, Bool.or_true]
  have fmap : (phase1Failed f s).bist.fmap = s.bist.fmap ||| mapBit f.block.val := rfl
  rw [bistPhase1End_eq due, phase1Recorded_one (listed f.block fatal), fmap, if_pos (fatalMap_low fatal failed)]

/-- A failure of BROM, HOST or YARD marks its block (R410, R412). -/
theorem phase1_fatal {f : BistFail} (fatal : f.block.val < 3) : ∃ t, exec (.bistPhase1End [f]) s = .next t ∧ t.boot = s.boot ∧
    t.bist.umap.getLsbD f.block.val = true ∧ t.bist.fmap.getLsbD f.block.val = true ∧ t.trx = s.trx ∧ t.clk = s.clk := by
  have failed : (s.bist.fmap ||| mapBit f.block.val).getLsbD f.block.val = true := by rw [BitVec.getLsbD_or, getLsbD_mapBit, Bool.or_true]
  obtain ⟨-, boot, trx, clk, bist⟩ := markBlocks_leaves (s.bist.fmap ||| mapBit f.block.val) (phase1Failed f s)
  refine ⟨_, phase1_stops due fatal, boot, markBlocks_marks _ failed, ?_, trx, clk⟩
  rw [bist]
  exact failed

end

/-! ## Units under test (R414, R421) -/

theorem bistWake_frame (i : Nat) (s : State) : ∃ P S, bistWake i s = { s with pwr := P, sns := S } := by
  unfold bistWake
  split
  · split
    · exact ⟨_, _, rfl⟩
    · obtain ⟨P, S, demanded, -⟩ := domDemand_frame s _
      exact ⟨P, S, demanded⟩
  · exact ⟨_, _, rfl⟩

section
variable {s : State} {r : BistRun} (runs : s.bist.run = some r)
include runs

/-- A unit is not tested before GAP has passed (R414). -/
theorem slice_early (early : r.gap ≠ 0) (u : UnitResult) : exec (.slice u) s = .next s := by
  have waits : (r.result.isSome || r.gap != 0 || (u = .restore && bistUnits r.target.val r.cur = []) : Bool) = true := by
    rw [bne_iff_ne.2 early, Bool.or_true, Bool.true_or]
  refine congrArg Host.Outcome.next ?_
  simp only [runs]
  exact if_pos waits

/-- A unit's test once GAP has passed, by what the gate permits (R414, R421). -/
theorem slice_due {u : UnitResult} (unfinished : r.result = none) (due : r.gap = 0) (restorable : u = .restore → bistUnits r.target.val r.cur ≠ []) :
    exec (.slice u) s = .next (if !(bistUnits r.target.val r.cur).all (unitPermitted (bistWake r.target.val s)) then
      setRun { r with result := some 4 } (bistWake r.target.val s)
    else unitDone r u ((bistUnits r.target.val r.cur).foldl (fun s w => saveUnit r.target.val w s) (bistWake r.target.val s))) := by
  have goes : ¬ (r.result.isSome || r.gap != 0 || (u = .restore && bistUnits r.target.val r.cur = []) : Bool) = true := by
    rw [unfinished, due]
    simpa using restorable
  refine congrArg Host.Outcome.next ?_
  simp only [runs]
  exact if_neg goes

end

/-- A failure recorded leaves the boot controller, the radio, the clocks and the unusable map (R410). -/
theorem setRun_recordFail (q : BistRun) (b : Fin 64) (loc : BitVec 16) (s : State) : (setRun q (recordFail b loc s)).boot = s.boot ∧
    (setRun q (recordFail b loc s)).trx = s.trx ∧ (setRun q (recordFail b loc s)).clk = s.clk ∧
    (setRun q (recordFail b loc s)).bist.umap = s.bist.umap := ⟨rfl, rfl, rfl, rfl⟩

/-- What a unit's result leaves: the boot controller, the radio, the clocks and the unusable map (R414, R421). -/
theorem unitDone_leaves (r : BistRun) (u : UnitResult) (s : State) : (unitDone r u s).boot = s.boot ∧ (unitDone r u s).trx = s.trx ∧
    (unitDone r u s).clk = s.clk ∧ (unitDone r u s).bist.umap = s.bist.umap := by
  obtain ⟨-, boot, trx, clk, bist⟩ := hurtUnit_leaves r.target.val r.cur s
  have umap := congrArg Bist.umap bist
  cases u with
  | pass => exact ⟨rfl, rfl, rfl, rfl⟩
  | fail loc =>
    obtain ⟨bootKept, trxKept, clkKept, umapKept⟩ := setRun_recordFail { r with result := some 2 } r.target loc (hurtUnit r.target.val r.cur s)
    exact ⟨bootKept.trans boot, trxKept.trans trx, clkKept.trans clk, umapKept.trans umap⟩
  | restore => exact ⟨boot, trx, clk, umap⟩
  | busError => exact setRun_recordFail _ _ _ s

/-- A unit that failed is recorded as its target's failure (R410, R423). -/
theorem unitDone_fail (r : BistRun) (loc : BitVec 16) (s : State) : (unitDone r (.fail loc) s).bist.run = some { r with result := some 2 } ∧
    (unitDone r (.fail loc) s).bist.fmap = s.bist.fmap ||| mapBit r.target.val ∧
    (unitDone r (.fail loc) s).bist.fail = put 1 31 ||| put r.target.val 16 ||| loc.setWidth 32 := by
  have fmap : (hurtUnit r.target.val r.cur s).bist.fmap = s.bist.fmap := congrArg Bist.fmap (hurtUnit_leaves r.target.val r.cur s).bist
  have failed : unitDone r (.fail loc) s = setRun { r with result := some 2 } (recordFail r.target loc (hurtUnit r.target.val r.cur s)) := rfl
  rw [failed, ← fmap]
  generalize hurtUnit r.target.val r.cur s = v
  exact ⟨rfl, rfl, rfl⟩

/-- A unit that passed: its test goes on with the next slice after GAP, or has passed (R414). -/
theorem unitDone_pass (r : BistRun) (s : State) :
    (r.cur < r.last → (unitDone r .pass s).bist.run = some { r with cur := r.cur + 1, gap := gapCyc s }) ∧
    (r.last ≤ r.cur → (unitDone r .pass s).bist.run = some { r with result := some 1 }) := by
  refine ⟨fun more => ?_, fun last => ?_⟩
  · exact congrArg some (if_pos more)
  · exact congrArg some (if_neg (Nat.not_lt.2 last))

section
variable {s : State} {r : BistRun} (runs : s.bist.run = some r) {u : UnitResult} (unfinished : r.result = none) (due : r.gap = 0)
  (restorable : u = .restore → bistUnits r.target.val r.cur ≠ [])
include runs unfinished due restorable

/-- A unit that the gate denies ends its test, with nothing saved (R421). -/
theorem slice_denied (denied : (bistUnits r.target.val r.cur).all (unitPermitted (bistWake r.target.val s)) = false) : exec (.slice u) s =
    .next { bistWake r.target.val s with bist := { s.bist with run := some { r with result := some 4 }, slice := r.cur } } := by
  obtain ⟨P, S, wakes⟩ := bistWake_frame r.target.val s
  rw [slice_due runs unfinished due restorable, denied, if_pos (by decide), wakes]
  rfl

/-- A unit that the gate permits is saved and tested, with memory outside the save area as it was (R414). -/
theorem slice_permitted (permitted : (bistUnits r.target.val r.cur).all (unitPermitted (bistWake r.target.val s)) = true) :
    ∃ M P S, exec (.slice u) s = .next (unitDone r u { s with mem := M, pwr := P, sns := S }) ∧
      (memOk s → ∀ a, a < 0x40020800 ∨ 0x40020C00 ≤ a → M.read a = s.mem.read a) := by
  obtain ⟨P, S, wakes⟩ := bistWake_frame r.target.val s
  obtain ⟨M, saved, kept⟩ := saveUnits_frame r.target.val r.cur { s with pwr := P, sns := S }
  refine ⟨M, P, S, ?_, kept⟩
  rw [slice_due runs unfinished due restorable, permitted, if_neg (by decide), wakes, saved]

end

/-- A unit's test once GAP has passed (R414, R421). -/
theorem slice_tested {s : State} {r : BistRun} {u : UnitResult} (runs : s.bist.run = some r) (unfinished : r.result = none) (due : r.gap = 0)
    (restorable : u = .restore → bistUnits r.target.val r.cur ≠ []) :
    ∃ t, exec (.slice u) s = .next t ∧ t.boot = s.boot ∧ t.trx = s.trx ∧ t.clk = s.clk ∧ t.bist.umap = s.bist.umap ∧
      ((bistUnits r.target.val r.cur).all (unitPermitted (bistWake r.target.val s)) = false →
        t = { bistWake r.target.val s with bist := { s.bist with run := some { r with result := some 4 }, slice := r.cur } }) ∧
      ((bistUnits r.target.val r.cur).all (unitPermitted (bistWake r.target.val s)) = true →
        (u = .pass → r.cur < r.last → t.bist.run = some { r with cur := r.cur + 1, gap := gapCyc s }) ∧
        (u = .pass → r.last ≤ r.cur → t.bist.run = some { r with result := some 1 }) ∧
        (u = .restore → t.bist.run = some { r with result := some 6 }) ∧
        (∀ loc, u = .fail loc → t.bist.run = some { r with result := some 2 } ∧ t.bist.fmap = s.bist.fmap ||| mapBit r.target.val ∧
          t.bist.fail = put 1 31 ||| put r.target.val 16 ||| loc.setWidth 32) ∧
        (u = .pass → memOk s → ∀ a, a < 0x40020800 ∨ 0x40020C00 ≤ a → t.mem.read a = s.mem.read a)) := by
  cases permits : (bistUnits r.target.val r.cur).all (unitPermitted (bistWake r.target.val s)) with
  | false =>
    refine ⟨_, slice_denied runs unfinished due restorable permits, ?_, ?_, ?_, rfl, fun _ => rfl, nofun⟩
    all_goals
      obtain ⟨P, S, wakes⟩ := bistWake_frame r.target.val s
      rw [wakes]
  | true =>
    obtain ⟨M, P, S, tested, kept⟩ := slice_permitted runs unfinished due restorable permits
    obtain ⟨boot, trx, clk, umap⟩ := unitDone_leaves r u { s with mem := M, pwr := P, sns := S }
    obtain ⟨next, last⟩ := unitDone_pass r { s with mem := M, pwr := P, sns := S }
    refine ⟨_, tested, boot, trx, clk, umap, nofun, fun _ => ⟨?next, ?last, ?restore, ?fail, ?mem⟩⟩
    case next => rintro rfl; exact next
    case last => rintro rfl; exact last
    case restore => rintro rfl; rfl
    case fail => rintro loc rfl; exact unitDone_fail r loc _
    case mem => rintro rfl; exact kept

/-! ## The end of a test (R417, R418) -/

/-- A test left with its result: BUSY is clear, RESULT and DONE set (R417). -/
def testEnded (r : BistRun) (c : Nat) (s : State) : State :=
  { s with bist := { s.bist with run := none, result := c, slice := r.cur, evt := withBit s.bist.evt 0 true } }

/-- A test left with a failure that marks its target (R417). -/
def testFailed (r : BistRun) (s : State) : State :=
  { testEnded r 2 s with bist := { (testEnded r 2 s).bist with evt := withBit (testEnded r 2 s).bist.evt 1 true } }

/-- A block left in its reset state keeps the self-test (R409). -/
theorem testedReset_bist (i : Nat) (s : State) : (testedReset i s).bist = s.bist := by
  unfold testedReset
  split <;> rfl

section
variable {s : State} {r : BistRun} {c : Nat} (runs : s.bist.run = some r) (result : r.result = some c)
include runs result

theorem bistDone_eq : exec .bistDone s = .next (bistEnd r c s) := by
  refine congrArg Host.Outcome.next ?_
  simp only [runs, result]

/-- A test that found a failure marks its target, unless NOMARK (R417). -/
theorem bistDone_marks (failed : c = 2) (marks : r.noMark = false) : exec .bistDone s =
    .next (markBlocks (mapBit r.target.val) (testFailed r s)) := by
  subst failed
  rw [bistDone_eq runs result, bistEnd, marks]
  rfl

/-- A test that marks nothing leaves the self-test with its result (R417). -/
theorem bistDone_unmarked (unmarked : c ≠ 2 ∨ r.noMark = true) : exec .bistDone s =
    .next (if c = 1 ∨ c = 2 then testedReset r.target.val (testEnded r c s) else testEnded r c s) := by
  have leaves : ¬ (c = 2 && !r.noMark : Bool) = true := by
    simp only [Bool.and_eq_true, decide_eq_true_eq, Bool.not_eq_true']
    rintro ⟨failed, marks⟩
    exact unmarked.elim (· failed) fun noMark => absurd (marks.symm.trans noMark) Bool.false_ne_true
  rw [bistDone_eq runs result, bistEnd, if_neg leaves]
  simp only [Bool.or_eq_true, decide_eq_true_eq]
  rfl

/-- The end of a test, with what it marks (R417). -/
theorem bistDone_ends : ∃ t, exec .bistDone s = .next t ∧ t.bist.run = none ∧ t.bist.result = c ∧ bit t.bist.evt 0 = true ∧
    (c ≠ 1 → c ≠ 2 → t = testEnded r c s) ∧
    (c = 2 → r.noMark = false → t.bist.umap.getLsbD r.target.val = true ∧ bit t.bist.evt 1 = true) ∧
    (c = 1 ∨ r.noMark = true → t.bist.umap = s.bist.umap) := by
  have done : bit (withBit s.bist.evt 0 true) 0 = true := bit_withBit _ _ _ _ (by decide)
  by_cases marks : c = 2 ∧ r.noMark = false
  · obtain ⟨failed, marks⟩ := marks
    have ends := bistDone_marks runs result failed marks
    have bist := (markBlocks_leaves (mapBit r.target.val) (testFailed r s)).bist
    refine ⟨_, ends, ?run, ?result, ?done, fun _ other => absurd failed other,
      fun _ _ => ⟨markBlocks_marks _ (getLsbD_mapBit r.target), ?event⟩, fun unmarked => ?same⟩
    case run => rw [bist]; rfl
    case result => rw [bist, failed]; rfl
    case done =>
      rw [bist]
      exact (bit_withBit _ 1 0 true (by decide)).trans done
    case event =>
      rw [bist]
      exact bit_withBit1 _
    case same =>
      rcases unmarked with passed | noMark
      · exact absurd (passed.symm.trans failed) (by decide)
      · exact absurd (marks.symm.trans noMark) Bool.false_ne_true
  · have unmarked : c ≠ 2 ∨ r.noMark = true := by
      rw [not_and_or, Bool.not_eq_false] at marks
      exact marks
    have bist : (if c = 1 ∨ c = 2 then testedReset r.target.val (testEnded r c s) else testEnded r c s).bist = (testEnded r c s).bist := by
      split
      · exact testedReset_bist ..
      · rfl
    refine ⟨_, bistDone_unmarked runs result unmarked, ?run, ?result, ?done, fun passes fails => if_neg (not_or.2 ⟨passes, fails⟩),
      fun failed marking => absurd ⟨failed, marking⟩ marks, fun _ => ?same⟩
    case run => rw [bist]; rfl
    case result => rw [bist]; rfl
    case done => rw [bist]; exact done
    case same => rw [bist]; rfl

end

/-! ## BIST_CMD (R415, R418) -/

/-- The masters that may write BIST_CMD (R415). -/
def bistWriter (m : Mid) : Bool := m = .hostS || m = .groom || m = .dbg

section
variable {s : State} {m : Mid} {d : W32}

/-- BIST_CMD is refused to every other master, and to all while BUSY but for STOP (R415). -/
theorem effBistCmd_refused (closed : bistWriter m = false ∨ (s.bist.run.isSome = true ∧ bit d 29 = false)) : effBistCmd m d s = none := by
  rcases closed with other | ⟨busy, noStop⟩
  · exact if_pos (by rw [show (m = .hostS || m = .groom || m = .dbg : Bool) = false from other]; rfl)
  · unfold effBistCmd
    rw [busy, noStop]
    exact ite_self _

section
variable (writer : bistWriter m = true)
include writer

theorem effBistCmd_stops (busy : s.bist.run.isSome = true) (stop : bit d 29 = true) : effBistCmd m d s = some (bistAbort s) := by
  have may : ¬ (!(m = .hostS || m = .groom || m = .dbg) : Bool) = true := by
    rw [show (m = .hostS || m = .groom || m = .dbg : Bool) = true from writer]
    decide
  refine (if_neg may).trans ?_
  rw [busy, stop]
  rfl

/-- BIST_GO while no test runs, by the code of a refusal (R415). -/
theorem effBistCmd_goes (idle : s.bist.run = none) (go : bit d 31 = true) : effBistCmd m d s =
    some (if bistDetail (fld d 21 16) (fld d 13 8) (fld d 5 0) s = 0 then bistStart d s
      else { s with bist := { s.bist with
        detail := bistDetail (fld d 21 16) (fld d 13 8) (fld d 5 0) s, result := 3, evt := withBit s.bist.evt 0 true } }) := by
  have may : ¬ (!(m = .hostS || m = .groom || m = .dbg) : Bool) = true := by
    rw [show (m = .hostS || m = .groom || m = .dbg : Bool) = true from writer]
    decide
  refine (if_neg may).trans ?_
  rw [idle, go]
  generalize bistDetail (fld d 21 16) (fld d 13 8) (fld d 5 0) s = e
  cases e <;> rfl

end
end

theorem cutGates_frame (s : State) : ∃ V, cutGates s = { s with stl := V } := ⟨_, rfl⟩

/-- What the start of a test changes (R414, R416). -/
theorem bistStart_frame (d : W32) (s : State) : ∃ P S V B, bistStart d s = { s with bist := B, pwr := P, sns := S, stl := V } ∧
    ∃ r : BistRun, B.run = some r ∧ r.target.val = fld d 21 16 ∧ r.noMark = bit d 30 ∧ r.result = none ∧
      B.umap = s.bist.umap ∧ B.fmap = s.bist.fmap := by
  obtain ⟨P, S, wakes⟩ := bistWake_frame (fld d 21 16) s
  have range : fld d 21 16 % 64 = fld d 21 16 := Nat.mod_eq_of_lt (Nat.mod_lt _ (by decide))
  unfold bistStart
  dsimp only
  rw [wakes]
  obtain ⟨V, cuts⟩ := cutGates_frame (updBist { s with pwr := P, sns := S } _)
  exact ⟨P, S, V, _, cuts, _, rfl, range, rfl, rfl, rfl, rfl⟩

end Sys2Proof.Machine

/-!
The choice of a bank by the boot ROM, and the self-test as stated (R378, R387, R388, R401, R403).
-/

namespace Sys2Proof.Machine

open Sys2Proof

/-! ## What the choice depends on (R386, R387) -/

/-- A state in which the boot ROM classifies and chooses banks as in another. -/
structure ChoosesAs (s t : State) : Prop where
  mem : t.mem = s.mem
  floor : t.boot.floor = s.boot.floor
  skip : t.boot.skip = s.boot.skip
  umap : t.bist.umap = s.bist.umap
  clk : t.clk = s.clk

namespace ChoosesAs

section
variable {s t : State} (same : ChoosesAs s t)
include same

theorem unusable (i : Nat) : Machine.unusable t i = Machine.unusable s i := by
  rw [Machine.unusable, same.umap, same.clk, Machine.unusable]

theorem fwHeaderCode (b : Bool) : Machine.fwHeaderCode t b = Machine.fwHeaderCode s b := by
  obtain ⟨-, -, -, header, -⟩ := bank_congr same.mem b
  rw [Machine.fwHeaderCode, header, same.unusable, same.floor, Machine.fwHeaderCode]

theorem classify (b : Bool) : Machine.classify t b = Machine.classify s b := by
  obtain ⟨-, set, -⟩ := bank_congr same.mem b
  rw [Machine.classify, same.unusable, same.fwHeaderCode, set, set, set, Machine.classify]

theorem skipped (b : Bool) : Machine.skipped t b = Machine.skipped s b := by
  rw [Machine.skipped, same.skip, Machine.skipped]

theorem trialBank : Machine.trialBank t = Machine.trialBank s := by
  rw [Machine.trialBank, funext same.classify, funext same.skipped, Machine.trialBank]

theorem bestCommitted : Machine.bestCommitted t = Machine.bestCommitted s := by
  obtain ⟨-, -, low, -⟩ := bank_congr same.mem false
  obtain ⟨-, -, low', -⟩ := bank_congr same.mem true
  unfold Machine.bestCommitted
  simp only [same.classify, same.skipped, low, low']

end

end ChoosesAs

/-! ## The choice (R387, R388, R401) -/

/-- The state in which the boot ROM has written the codes of both headers (R405). -/
def headersShown (s : State) : State := setFwCode true (fwHeaderCode s true) (setFwCode false (fwHeaderCode s false) s)

theorem headersShown_frame (s : State) : ∃ B, headersShown s = { s with boot := { s.boot with banks := B } } := ⟨_, rfl⟩

theorem headersShown_choosesAs (s : State) : ChoosesAs s (headersShown s) := by
  obtain ⟨B, shown⟩ := headersShown_frame s
  rw [shown]
  exact ⟨rfl, rfl, rfl, rfl, rfl⟩

/-- The best committed bank, or NONE (R387, R401). -/
def bootBest (c : Option Bool) (s : State) : State := match c with
  | some b => bootWith b false s
  | none => bootNone (if s.boot.lastFail = 0 then fwHeaderCode s false else s.boot.lastFail) s

theorem bankChoice_eq {s : State} (usable : unusable s 6 = false) (marked : Bool) : bankChoice marked s =
    match trialBank (headersShown s) with
    | some t =>
      if !marked then markFail t (headersShown s)
      else if attemptsOf (headersShown s) t = 3 then bootBest (bestCommitted (headersShown s)) (rejectSpent (headersShown s) t)
      else bootWith t true (nextAttempt (headersShown s) t)
    | none => bootBest (bestCommitted (headersShown s)) (headersShown s) := by
  have chooses : ¬ unusable (headersShown s) 6 = true := by
    rw [(headersShown_choosesAs s).unusable, usable]
    exact Bool.false_ne_true
  unfold headersShown at chooses ⊢
  refine (if_neg chooses).trans ?_
  generalize setFwCode true (fwHeaderCode s true) (setFwCode false (fwHeaderCode s false) s) = u
  cases trialBank u <;> rfl

theorem bootWith_frame (b trial : Bool) (s : State) : ∃ B, bootWith b trial s = { s with
    boot := { s.boot with bank := b, trial := trial, banks := B }, cfg := { s.cfg with src := BitVec.ofNat 32 (bankBase b + 0xD0000) } } := by
  obtain ⟨B, shown⟩ := snapBanks_frame { s with
    boot := { s.boot with bank := b, trial := trial }, cfg := { s.cfg with src := BitVec.ofNat 32 (bankBase b + 0xD0000) } }
  exact ⟨B, shown⟩

/-- A marker that does not verify is an image failure of its bank (R389, R403). -/
theorem markFail_frame (b : Bool) (s : State) : (markFail b s).boot.lastRst = 8 ∧ (markFail b s).boot.lastFail = 0 ∧
    (markFail b s).boot.skip = s.boot.skip ||| (1#2 <<< (bankIdx b).val) ∧ (markFail b s).boot.inReset = true := by
  rw [markFail]
  obtain ⟨B, chosen⟩ := bootWith_frame b true s
  obtain ⟨cause, fail, skip⟩ := imageFail_frame 0 (bootWith b true s)
  obtain ⟨-, held, -⟩ := imageFail_held 0 (bootWith b true s)
  refine ⟨cause, fail, ?_, held⟩
  rw [skip, chosen]

theorem bootNone_frame (code : Nat) (s : State) : ∃ B H C N A, bootNone code s = { s with
    boot := { s.boot with level := 3, banks := B, hist := H, histCnt := C, histNew := N }, act := A } := by
  obtain ⟨H, C, N, logged⟩ := logEvent_frame 7 false 0 code (updBoot s (fun t => { t with level := 3 }))
  unfold bootNone
  rw [logged]
  obtain ⟨B, shown⟩ := snapBanks_frame _
  rw [shown]
  exact ⟨B, H, C, N, _, rfl⟩

theorem bootBest_frame (c : Option Bool) (s : State) : (bootBest c s).bist = s.bist ∧ (bootBest c s).mem = s.mem := by
  cases c with
  | none =>
    obtain ⟨B, H, C, N, A, chosen⟩ := bootNone_frame (if s.boot.lastFail = 0 then fwHeaderCode s false else s.boot.lastFail) s
    have none : bootBest none s = bootNone (if s.boot.lastFail = 0 then fwHeaderCode s false else s.boot.lastFail) s := rfl
    rw [none, chosen]
    exact ⟨rfl, rfl⟩
  | some b =>
    obtain ⟨B, chosen⟩ := bootWith_frame b false s
    have some : bootBest (some b) s = bootWith b false s := rfl
    rw [some, chosen]
    exact ⟨rfl, rfl⟩

theorem nextAttempt_frame (s : State) (b : Bool) : ∃ M, nextAttempt s b = { s with mem := M } := by
  unfold nextAttempt
  split <;> exact ⟨_, rfl⟩

/-- The ATTEMPT markers counted (R388). -/
theorem attemptsOf_eq (s : State) (b : Bool) : attemptsOf s b =
    (markSet s b 0x08).toNat + (markSet s b 0x10).toNat + (markSet s b 0x18).toNat := by
  unfold attemptsOf
  cases first : markSet s b 0x08 <;> cases second : markSet s b 0x10 <;> cases third : markSet s b 0x18 <;>
    simp [first, second, third]

/-- The next ATTEMPT marker raises the attempts by one (R388). -/
theorem attemptsOf_nextAttempt {s : State} {b : Bool} (formed : memOk s) (fewer : attemptsOf s b < 3) :
    attemptsOf (nextAttempt s b) b = attemptsOf s b + 1 := by
  have set : ∀ o, markSet (programMark b o 0 s) b o = true := fun o => markSet_programMark formed (by decide)
  have kept : ∀ o k, k + 8 ≤ o ∨ o + 8 ≤ k → markSet (programMark b o 0 s) b k = markSet s b k := fun o k => markSet_programMark_other formed
  have programs : ∀ o, [0x08, 0x10, 0x18].find? (fun o => !markSet s b o) = some o → nextAttempt s b = programMark b o 0 s :=
    fun o next => by rw [nextAttempt, next]
  rw [attemptsOf_eq] at fewer
  rw [attemptsOf_eq, attemptsOf_eq]
  cases first : markSet s b 0x08 with
  | false =>
    rw [programs 0x08 (by simp [first]), set, kept 0x08 0x10 (by decide), kept 0x08 0x18 (by decide), Bool.toNat_true, Bool.toNat_false]
    omega
  | true =>
    cases second : markSet s b 0x10 with
    | false =>
      rw [programs 0x10 (by simp [first, second]), set, kept 0x10 0x08 (by decide), kept 0x10 0x18 (by decide), first, Bool.toNat_true,
        Bool.toNat_false]
      omega
    | true =>
      cases third : markSet s b 0x18 with
      | false =>
        rw [programs 0x18 (by simp [first, second, third]), set, kept 0x18 0x08 (by decide), kept 0x18 0x10 (by decide), first, second]
        rfl
      | true =>
        rw [first, second, third] at fewer
        exact absurd fewer (by decide)

/-! ## What the choice does (R387, R388, R401, R403) -/

section
variable {s : State} (usable : unusable s 6 = false)
include usable

section
variable {b : Bool} (trial : trialBank s = some b)
include trial

/-- A trial bank whose marker does not verify (R403). -/
theorem bankChoice_fails : bankChoice false s = markFail b (headersShown s) := by
  rw [bankChoice_eq usable, (headersShown_choosesAs s).trialBank, trial]
  generalize headersShown s = u
  exact if_pos (by decide)

/-- A trial bank out of attempts (R388). -/
theorem bankChoice_spent (spent : attemptsOf (headersShown s) b = 3) :
    bankChoice true s = bootBest (bestCommitted (headersShown s)) (rejectSpent (headersShown s) b) := by
  rw [bankChoice_eq usable, (headersShown_choosesAs s).trialBank, trial]
  generalize headersShown s = u at spent
  exact (if_neg (by decide)).trans (if_pos spent)

/-- A trial bank with attempts left (R388, R389). -/
theorem bankChoice_attempts (unspent : attemptsOf (headersShown s) b ≠ 3) :
    bankChoice true s = bootWith b true (nextAttempt (headersShown s) b) := by
  rw [bankChoice_eq usable, (headersShown_choosesAs s).trialBank, trial]
  generalize headersShown s = u at unspent
  exact (if_neg (by decide)).trans (if_neg unspent)

end

/-- No trial bank (R387, R401). -/
theorem bankChoice_best (noTrial : trialBank s = none) (marked : Bool) :
    bankChoice marked s = bootBest (bestCommitted s) (headersShown s) := by
  have same := headersShown_choosesAs s
  rw [bankChoice_eq usable, same.trialBank, noTrial, same.bestCommitted]

/-- The choice keeps the self-test, unless a marker that does not verify resets the device. -/
theorem bankChoice_bist {marked : Bool} (verified : marked = true ∨ trialBank s = none) : (bankChoice marked s).bist = s.bist := by
  have kept : (headersShown s).bist = s.bist := by
    obtain ⟨B, shown⟩ := headersShown_frame s
    rw [shown]
  cases trial : trialBank s with
  | none =>
    rw [bankChoice_best usable trial, (bootBest_frame ..).1, kept]
  | some b =>
    obtain rfl : marked = true := verified.resolve_right (by rw [trial]; exact Option.some_ne_none b)
    by_cases spent : attemptsOf (headersShown s) b = 3
    · have rejected : (rejectSpent (headersShown s) b).bist = (headersShown s).bist := by
        obtain ⟨H, C, N, logged⟩ := logEvent_frame 5 b 5 0 (programMark b 0x28 5 (headersShown s))
        rw [rejectSpent, logged, programMark_bist]
      rw [bankChoice_spent usable trial spent, (bootBest_frame ..).1, rejected, kept]
    · obtain ⟨M, next⟩ := nextAttempt_frame (headersShown s) b
      obtain ⟨B, chosen⟩ := bootWith_frame b true (nextAttempt (headersShown s) b)
      rw [bankChoice_attempts usable trial spent, chosen, next, kept]

section
variable {b : Bool} (trial : trialBank s = some b)
include trial

/-- A marker of the trial bank that does not verify is an image failure (R403). -/
theorem bankChoice_unverified : (bankChoice false s).boot.lastRst = 8 ∧ (bankChoice false s).boot.lastFail = 0 ∧
    (bankChoice false s).boot.skip = s.boot.skip ||| (1#2 <<< (bankIdx b).val) ∧ (bankChoice false s).boot.inReset = true := by
  have skip := (headersShown_choosesAs s).skip
  rw [bankChoice_fails usable trial, ← skip]
  exact markFail_frame b (headersShown s)

/-- The boot ROM goes on with a trial bank that has attempts left, at the cost of one (R388, R389). -/
theorem bankChoice_trial (fewer : attemptsOf s b < 3) (formed : memOk s) : (bankChoice true s).boot.bank = b ∧
    (bankChoice true s).boot.trial = true ∧ (bankChoice true s).cfg.src = BitVec.ofNat 32 (bankBase b + 0xD0000) ∧
    attemptsOf (bankChoice true s) b = attemptsOf s b + 1 := by
  have same := headersShown_choosesAs s
  obtain ⟨-, -, -, -, attempts⟩ := bank_congr same.mem b
  have formedShown : memOk (headersShown s) := by rw [memOk, same.mem]; exact formed
  rw [← attempts] at fewer ⊢
  have next := attemptsOf_nextAttempt formedShown fewer
  rw [bankChoice_attempts usable trial (Nat.ne_of_lt fewer)]
  generalize nextAttempt (headersShown s) b = u at next
  obtain ⟨B, chosen⟩ := bootWith_frame b true u
  obtain ⟨-, -, -, -, counted⟩ := bank_congr (s := u) (t := bootWith b true u) (by rw [chosen]) b
  rw [counted, chosen]
  exact ⟨rfl, rfl, rfl, next⟩

end

section
variable (noTrial : trialBank s = none) (marked : Bool)
include noTrial

/-- Without a trial bank the boot ROM goes on with the best committed one (R387). -/
theorem bankChoice_committed {b : Bool} (best : bestCommitted s = some b) : (bankChoice marked s).boot.bank = b ∧
    (bankChoice marked s).boot.trial = false ∧ (bankChoice marked s).cfg.src = BitVec.ofNat 32 (bankBase b + 0xD0000) ∧
    (bankChoice marked s).mem = s.mem := by
  have mem := (headersShown_choosesAs s).mem
  obtain ⟨B, chosen⟩ := bootWith_frame b false (headersShown s)
  have chooses : bankChoice marked s = bootWith b false (headersShown s) := by
    rw [bankChoice_best usable noTrial, best]
    rfl
  rw [chooses, chosen]
  exact ⟨rfl, rfl, rfl, mem⟩

/-- Without a bank to boot the boot ROM enters NONE (R401). -/
theorem bankChoice_none (noBest : bestCommitted s = none) : (bankChoice marked s).boot.level = 3 ∧ (bankChoice marked s).mem = s.mem := by
  have mem := (headersShown_choosesAs s).mem
  have chooses : ∃ code, bankChoice marked s = bootNone code (headersShown s) := by
    rw [bankChoice_best usable noTrial, noBest]
    exact ⟨_, rfl⟩
  obtain ⟨code, chooses⟩ := chooses
  obtain ⟨B, H, C, N, A, chosen⟩ := bootNone_frame code (headersShown s)
  rw [chooses, chosen]
  exact ⟨rfl, mem⟩

end
end

/-! ## Power-up BIST (R378, R403, R408, R410) -/

/-- The state in which power-up BIST without failures has published its maps (R408). -/
def puShown (us : BitVec 16) (s : State) : State := { s with bist := { s.bist with tmap := s.bist.tmap ||| phases23, puTime := us } }

section
variable {s : State} (started : s.boot.started = true) (waiting : s.bist.tmap.getLsbD 3 = false) (clear : s.bist.fmap = 0)
  (usable : s.bist.umap = 0) (locked : s.clk.sys.st ≠ .failed)

section
include started waiting clear locked

theorem powerUpBistEnd_eq (us : BitVec 16) (marked : Bool) : exec (.powerUpBistEnd [] us marked) s =
    .next (bankChoice marked (markBlocks 0 (puShown us s))) := by
  have due : (!s.boot.started || s.bist.tmap.getLsbD 3) = false := by rw [started, waiting]; rfl
  have noSkip : skipMap s = 0 := if_neg locked
  have command : exec (.powerUpBistEnd [] us marked) s = execPowerUpBistEnd [] us s marked := rfl
  have shown : updBist s (fun b => { b with tmap := b.tmap ||| phases23 &&& ~~~ (0 : BitVec 64), puTime := us }) = puShown us s := by
    rw [show phases23 &&& ~~~ (0 : BitVec 64) = phases23 by decide]
    rfl
  have recorded : recordFails (phases23 &&& ~~~ (0 : BitVec 64)) [] s = s := rfl
  have noSkipShown : skipMap (puShown us s) = 0 := noSkip
  have clearShown : (puShown us s).bist.fmap = 0 := clear
  rw [command, execPowerUpBistEnd, due, if_neg Bool.false_ne_true]
  dsimp only
  rw [noSkip, recorded, shown, noSkipShown, clearShown]
  rfl

end

include usable

/-- Maps published without a mark change the self-test only, as far as the choice of a bank looks (R408, R410). -/
theorem puShown_leaves (us : BitVec 16) : LeavesCore (puShown us s) (markBlocks 0 (puShown us s)) := by
  have unmarked : markMap 0 (puShown us s) = puShown us s := by
    have none : markDeps ((0 : BitVec 64) ||| 0) = 0 := by decide
    have map : (puShown us s).bist.umap = 0 := usable
    rw [markMap, map, none, ← map]
  have leaves := markBlocks_leaves 0 (puShown us s)
  rwa [unmarked] at leaves

theorem puShown_choosesAs (us : BitVec 16) : ChoosesAs s (markBlocks 0 (puShown us s)) := by
  obtain ⟨mem, boot, -, clk, bist⟩ := puShown_leaves usable us
  have umap := congrArg Bist.umap bist
  exact ⟨mem, congrArg Boot.floor boot, congrArg Boot.skip boot, umap, clk⟩

end

/-- The end of power-up BIST without failures (R378, R387, R388, R401, R403, R408). -/
theorem powerUpBistEnd_chooses {s : State} (us : BitVec 16) (marked : Bool) (started : s.boot.started = true)
    (waiting : s.bist.tmap.getLsbD 3 = false) (clear : s.bist.fmap = 0) (usable : s.bist.umap = 0) (locked : s.clk.sys.st ≠ .failed)
    (noBypass : s.clk.bypass = false) : ∃ t, exec (.powerUpBistEnd [] us marked) s = .next t ∧
      (marked = true ∨ trialBank s = none → t.bist.puTime = us ∧ t.bist.umap = 0 ∧ t.bist.tmap = s.bist.tmap ||| phases23) ∧
      (∀ b, trialBank s = some b → marked = false → t.boot.lastRst = 8 ∧ t.boot.lastFail = 0 ∧
        t.boot.skip = s.boot.skip ||| (1#2 <<< (bankIdx b).val) ∧ t.boot.inReset = true) ∧
      (∀ b, trialBank s = some b → marked = true → attemptsOf s b < 3 → memOk s →
        t.boot.bank = b ∧ t.boot.trial = true ∧ t.cfg.src = BitVec.ofNat 32 (bankBase b + 0xD0000) ∧ attemptsOf t b = attemptsOf s b + 1) ∧
      (∀ b, trialBank s = none → bestCommitted s = some b → t.boot.bank = b ∧ t.boot.trial = false ∧
        t.cfg.src = BitVec.ofNat 32 (bankBase b + 0xD0000) ∧ t.mem = s.mem) ∧
      (trialBank s = none → bestCommitted s = none → t.boot.level = 3 ∧ t.mem = s.mem) := by
  have ends := powerUpBistEnd_eq started waiting clear locked us marked
  have same := puShown_choosesAs usable us
  have shown := (puShown_leaves usable us).bist
  generalize markBlocks 0 (puShown us s) = u at ends same shown
  have romUsable : unusable u 6 = false := by
    rw [same.unusable, unusable, usable, noBypass]
    rfl
  rw [← same.trialBank, ← same.bestCommitted, ← same.skip, ← same.mem]
  refine ⟨_, ends, fun verified => ?maps, fun b trial unverified => ?fails, fun b trial verified fewer formed => ?trial,
    fun b noTrial best => bankChoice_committed romUsable noTrial marked best, fun noTrial best => bankChoice_none romUsable noTrial marked best⟩
  case maps =>
    rw [bankChoice_bist romUsable verified, shown]
    exact ⟨rfl, usable, rfl⟩
  case fails =>
    subst unverified
    exact bankChoice_unverified romUsable trial
  case trial =>
    subst verified
    obtain ⟨-, -, -, -, attempts⟩ := bank_congr same.mem b
    rw [← attempts] at fewer ⊢
    exact bankChoice_trial romUsable trial fewer (by rw [memOk, same.mem]; exact formed)

/-! ## BIST_GO and BIST_STOP as stated (R415, R418) -/

section
variable {s : State} {m : Mid}

/-- A write of BIST_CMD that is refused (R415). -/
theorem bistGo_refused {data : W32} (h : reaches m .bist 0x40020000 (data ||| put 1 31) s = true)
    (closed : (m ≠ .hostS ∧ m ≠ .groom ∧ m ≠ .dbg) ∨ (s.bist.run.isSome = true ∧ bit (data ||| put 1 31) 29 = false)) :
    exec (.bistGo m data) s = .next (respond (served m .bist s) m (BitVec.ofNat 32 0x40020000) .write .slverr 0) := by
  have shut : bistWriter m = false ∨ ((served m .bist s).bist.run.isSome = true ∧ bit (data ||| put 1 31) 29 = false) := by
    rw [served_bist]
    refine closed.imp_left fun ⟨host, groom, dbg⟩ => ?_
    simp [bistWriter, host, groom, dbg]
  exact congrArg Host.Outcome.next (busWrite_refused h (effBistCmd_refused shut))

theorem bistWriter_of (writer : m = .hostS ∨ m = .groom ∨ m = .dbg) : bistWriter m = true := by
  rcases writer with rfl | rfl | rfl <;> rfl

/-- BIST_GO while no test runs: a refusal changes RESULT, DETAIL and DONE; a testable target's test starts (R415). -/
theorem bistGo_goes {data : W32} (h : reaches m .bist 0x40020000 (data ||| put 1 31) s = true) (writer : m = .hostS ∨ m = .groom ∨ m = .dbg)
    (idle : s.bist.run = none) {e : Nat}
    (code : bistDetail (fld (data ||| put 1 31) 21 16) (fld (data ||| put 1 31) 13 8) (fld (data ||| put 1 31) 5 0) (served m .bist s) = e) :
    (e ≠ 0 → exec (.bistGo m data) s = .next (okay m 0 { served m .bist s with bist := { s.bist with
      detail := e, result := 3, evt := withBit s.bist.evt 0 true } })) ∧
    (e = 0 → ∃ t, exec (.bistGo m data) s = .next t ∧
      t = okay m 0 { served m .bist s with bist := t.bist, pwr := t.pwr, sns := t.sns, stl := t.stl } ∧
      ∃ r : BistRun, t.bist.run = some r ∧ r.target.val = fld (data ||| put 1 31) 21 16 ∧ r.noMark = bit (data ||| put 1 31) 30 ∧
        r.result = none ∧ t.bist.umap = s.bist.umap ∧ t.bist.fmap = s.bist.fmap) := by
  have go : bit (data ||| put 1 31) 31 = true := by
    have start : (put 1 31).getLsbD 31 = true := by decide
    rw [bit, BitVec.getLsbD_or, start, Bool.or_true]
  have command : exec (.bistGo m data) s =
      .next (busWrite m .bist 0x40020000 (data ||| put 1 31) (effBistCmd m (data ||| put 1 31)) s) := rfl
  rw [command]
  generalize data ||| put 1 31 = d at *
  have effect := effBistCmd_goes (s := served m .bist s) (bistWriter_of writer) (by rwa [served_bist]) go
  rw [code, served_bist] at effect
  refine ⟨fun refused => ?_, fun testable => ?_⟩
  · rw [if_neg refused] at effect
    exact congrArg Host.Outcome.next (busWrite_reaches h effect)
  · obtain ⟨P, S, V, B, starts, r, runs, target, noMark, result, umap, fmap⟩ := bistStart_frame d (served m .bist s)
    rw [served_bist] at umap fmap
    rw [if_pos testable, starts] at effect
    exact ⟨_, congrArg Host.Outcome.next (busWrite_reaches h effect), rfl, r, runs, target, noMark, result, umap, fmap⟩

/-- STOP while a test without a failure runs (R418). -/
theorem bistStop_aborts {r : BistRun} (h : reaches m .bist 0x40020000 (put 1 29) s = true) (writer : m = .hostS ∨ m = .groom ∨ m = .dbg)
    (runs : s.bist.run = some r) (unfailed : r.result ≠ some 2) :
    exec (.bistStop m) s = .next (okay m 0 { served m .bist s with bist := { s.bist with
      run := none, result := 5, slice := r.cur, evt := withBit s.bist.evt 0 true } }) := by
  have runsServed : (served m .bist s).bist.run = some r := by rwa [served_bist]
  have stops := effBistCmd_stops (d := put 1 29) (bistWriter_of writer) (by rw [runsServed]; rfl) (by decide)
  rw [bistAbort_unfailed runsServed unfailed, testAborted, served_bist] at stops
  exact congrArg Host.Outcome.next (busWrite_reaches h stops)

end

/-- Settles O54: phase 1 by `phase1_starts` and `phase1_fatal`, the end of power-up BIST by the cases of `bankChoice_eq`, tests on command by
`effBistCmd_goes` and `effBistCmd_stops`, a unit by `slice_due`, and the end of a test by `bistDone_marks` and `bistDone_unmarked`. -/
theorem selfTest : Obligations.SelfTest := by
  unfold Obligations.SelfTest
  refine fun s => ⟨fun due clear => ?phase1, fun f due _ fatal => phase1_fatal due fatal, fun us marked started waiting clear usable locked
    noBypass _ => powerUpBistEnd_chooses us marked started waiting clear usable locked noBypass, fun m data h => ?go,
    fun m r h writer runs unfailed => bistStop_aborts h writer runs unfailed, fun u r runs early => slice_early runs early u,
    fun u r runs unfinished due restorable => slice_tested runs unfinished due restorable, fun r c runs result => bistDone_ends runs result⟩
  case phase1 =>
    exact ⟨_, phase1_starts due clear, rfl, fun a low high => read_zeroSram low high, fun formed a outside => read_zeroSram_other formed outside⟩
  case go => exact ⟨bistGo_refused h, fun writer idle e code => bistGo_goes h writer idle code⟩

end Sys2Proof.Machine
